-- ==== Sys2Proof/Word.lean ====
section
/-!
DEFINITION. The machine's words. A Shoend register is 32 bits (R45), an instruction word is 32 bits (R73),
virtual addresses are 52 bits (R61) and multi-byte values are little-endian (R8).
-/
namespace Sys2Proof

/-- One byte of memory or scratchpad. -/
abbrev Byte := BitVec 8

/-- One register of one lane, or one s register (R45). -/
abbrev Word := BitVec 32

/-- A 64-bit value held in a register pair (R46), or a 64-bit memory field. -/
abbrev DWord := BitVec 64

/-- A 52-bit virtual address (R61): program counters and code addresses. -/
abbrev VAddr := BitVec 52

/-- One bit per lane of a group of 32 lanes (R19): predicates and lane masks. -/
abbrev LaneMask := BitVec 32

end Sys2Proof
end

