-- ==== Sys2Proof/Syntax.lean ====
section
/-!
DEFINITION. The syntax of the machine: one constructor of `Instr` per row of spec/opcode_table.json. The first 131 rows
are instructions (chapters 03 and 19 to 23); the other 72 are the events of the part (chapter 95), whose arguments are
what the outside world, or another agent of the device, brings with the event.
-/
namespace Sys2Proof

/-- The meaning of a 7-bit register field (R45): v0 to v95, s0 to s30, z. -/
inductive Reg where
  | v (n : Fin 96)
  | s (n : Fin 31)
  | z
  deriving DecidableEq, Repr

/-- The class 00 type codes (R78). -/
inductive Ty where
  | s32 | n32 | s64 | n64 | f32 | f64 | f16x2 | bf16x2
  deriving DecidableEq, Repr

/-- The type codes of CVT (R82). -/
inductive NumTy where
  | s8 | n8 | s16 | n16 | s32 | n32 | s64 | n64 | f64 | f32 | f16 | bf16 | e4m3 | e5m2
  deriving DecidableEq, Repr

/-- The rounding codes (R82, R203). -/
inductive Rm where
  | rn | rz | rd | ru | rna | sr | rnsat
  deriving DecidableEq, Repr

/-- The conditions of CMP (R81). -/
inductive Cond where
  | eq | ne | lt | le | gt | ge | num | nan
  deriving DecidableEq, Repr

/-- The conditions of CMPI (R85). -/
inductive CondI where
  | eq | ne | lt | le | gt | ge | lo | hs
  deriving DecidableEq, Repr

/-- The modes of BRA (R21). -/
inductive BraMode where
  | always | any | all | none
  deriving DecidableEq, Repr

/-- The modes of SHFL (R79). -/
inductive ShflMode where
  | idx | up | down | xor
  deriving DecidableEq, Repr

/-- The operations of REDUCE and SCAN (R79). -/
inductive RedOp where
  | add | min | max | and | or | xor
  deriving DecidableEq, Repr

/-- The modes of VOTE (R79). -/
inductive VoteMode where
  | any | all | ballot | count
  deriving DecidableEq, Repr

/-- The element sizes of TRN8 (R79). -/
inductive TrnSize where
  | e32 | e16 | e8
  deriving DecidableEq, Repr

/-- The operand types of DOT4 (R79). -/
inductive DotMode where
  | ss | nn | sn
  deriving DecidableEq, Repr

/-- Run widths: MOV's ty (R79) and the w field (R87). -/
inductive RunW where
  | w1 | w2 | w4 | w8
  deriving DecidableEq, Repr

/-- Element sizes, the sz field (R87). -/
inductive ElSz where
  | b8 | b16 | b32 | b64
  deriving DecidableEq, Repr

/-- Load and store semantics (R89). -/
inductive Sem where
  | default | inv | nt | acq | rel | vol
  deriving DecidableEq, Repr

/-- Scopes (R90). -/
inductive Scope where
  | group | team | part | device | domain | system
  deriving DecidableEq, Repr

/-- Atomic operations (R91). -/
inductive AtomOp where
  | add | smin | smax | nmin | nmax | and | or | xor | exch | fadd | fmin | fmax
  deriving DecidableEq, Repr

/-- Roles (R10). -/
inductive Role where
  | copy | matrix | vector
  deriving DecidableEq, Repr

/-- The modes of PMOV (R86). -/
inductive PmovMode where
  | pv | vp | sp | ps
  deriving DecidableEq, Repr

/-- The block formats (R200). -/
inductive BlockFmt where
  | b32m4 | b32m6 | b32m8 | b64m2 | b64m3 | b64m4
  deriving DecidableEq, Repr

/-- Three-register class 00 operands (R77). -/
structure Alu3 where
  ty : Ty
  d : Reg
  a : Reg
  b : Reg
  r : Bool
  deriving DecidableEq, Repr

/-- Operands of the unary family (R80). -/
structure Alu2 where
  ty : Ty
  d : Reg
  a : Reg
  r : Bool
  deriving DecidableEq, Repr

structure CmpOps where
  ty : Ty
  p : Fin 8
  c : Cond
  a : Reg
  b : Reg
  r : Bool
  deriving DecidableEq, Repr

structure SelOps where
  p : Fin 8
  d : Reg
  a : Reg
  b : Reg
  r : Bool
  deriving DecidableEq, Repr

structure CvtOps where
  dt : NumTy
  st : NumTy
  rm : Rm
  d : Reg
  a : Reg
  deriving DecidableEq, Repr

structure LeaOps where
  sh : Fin 8
  d : Reg
  a : Reg
  b : Reg
  r : Bool
  deriving DecidableEq, Repr

structure MovOps where
  w : RunW
  d : Reg
  a : Reg
  r : Bool
  deriving DecidableEq, Repr

structure ShflOps where
  m : ShflMode
  d : Reg
  a : Reg
  b : Reg
  r : Bool
  deriving DecidableEq, Repr

structure ReduceOps where
  ty : Ty
  op : RedOp
  d : Reg
  a : Reg
  r : Bool
  deriving DecidableEq, Repr

structure ScanOps where
  ty : Ty
  op : RedOp
  excl : Bool
  d : Reg
  a : Reg
  r : Bool
  deriving DecidableEq, Repr

structure VoteOps where
  m : VoteMode
  d : Reg
  p : Fin 8
  deriving DecidableEq, Repr

structure Trn8Ops where
  m : TrnSize
  d : Reg
  a : Reg
  r : Bool
  deriving DecidableEq, Repr

structure Dot4Ops where
  m : DotMode
  d : Reg
  a : Reg
  b : Reg
  r : Bool
  deriving DecidableEq, Repr

/-- Register and 11-bit immediate (R83). -/
structure ImmOps where
  d : Reg
  a : Reg
  imm : BitVec 11
  deriving DecidableEq, Repr

structure ShImmOps where
  d : Reg
  a : Reg
  amt : BitVec 5
  deriving DecidableEq, Repr

structure CmpiOps where
  p : Fin 8
  c : CondI
  a : Reg
  imm : BitVec 11
  deriving DecidableEq, Repr

structure BraOps where
  p : Fin 8
  m : BraMode
  off : BitVec 18
  deriving DecidableEq, Repr

structure GuardOps where
  p : Fin 8
  neg : Bool
  cnt : BitVec 2
  deriving DecidableEq, Repr

structure PlopOps where
  pd : Fin 8
  pa : Fin 8
  pb : Fin 8
  tt : BitVec 4
  deriving DecidableEq, Repr

structure PmovOps where
  m : PmovMode
  p : Fin 8
  d : Reg
  a : Reg
  deriving DecidableEq, Repr

structure RqxferOps where
  src : Role
  dst : Role
  cnt : BitVec 6
  deriving DecidableEq, Repr

/-- The eight thresholds of WAITC (R72). -/
structure WaitcOps where
  ld : BitVec 3
  st : BitVec 3
  cp : BitVec 3
  mx : BitVec 3
  ga : BitVec 3
  co : BitVec 3
  es : BitVec 3
  rm : BitVec 3
  deriving DecidableEq, Repr

/-- Loads and stores of class 10 (R87, R88). -/
structure MemOps where
  d : Reg
  a : Reg
  w : RunW
  sz : ElSz
  sc : Sem
  x : BitVec 4
  deriving DecidableEq, Repr

/-- Atomics of class 10 (R91): `wide` is sz 64 with w 01, otherwise sz 32 with w 00. -/
structure AtomOps where
  d : Reg
  a : Reg
  wide : Bool
  sc : Scope
  op : AtomOp
  deriving DecidableEq, Repr

structure ClaimOps where
  a : Reg
  w : RunW
  sz : ElSz
  loop : Fin 8
  deriving DecidableEq, Repr

structure LdeOps where
  sp : Fin 8
  d : Reg
  w : RunW
  sz : ElSz
  a : Reg
  b : Reg
  sc : Sem
  mask : BitVec 24
  deriving DecidableEq, Repr

structure AtomeOps where
  sp : Fin 8
  d : Reg
  wide : Bool
  a : Reg
  b : Reg
  op : AtomOp
  mask : BitVec 24
  deriving DecidableEq, Repr

/-- RLD and RST (R96). -/
structure RemOps where
  d : Reg
  a : Reg
  b : Reg
  w : RunW
  sz : ElSz
  sc : Sem
  deriving DecidableEq, Repr

structure RatomOps where
  d : Reg
  a : Reg
  b : Reg
  wide : Bool
  sc : Scope
  op : AtomOp
  deriving DecidableEq, Repr

structure CasOps where
  d : Reg
  a : Reg
  wide : Bool
  sc : Scope
  deriving DecidableEq, Repr

structure MmaOps where
  tile : Fin 16
  zf : Bool
  a : Reg
  b : Reg
  t : Bool
  r : Bool
  nreg : Reg
  fmt : Reg
  sat : Bool
  deriving DecidableEq, Repr

structure AccOps where
  tile : Fin 16
  a : Reg
  b : Reg
  deriving DecidableEq, Repr

structure BfOps where
  d : Reg
  a : Reg
  rm : Rm
  two : Bool
  fmt : BlockFmt
  deriving DecidableEq, Repr

/-- The kinds of a fabric message (R250, R252, R256, R259, R264). -/
inductive MsgKind where
  | rld | rst | ratom | flag | flush | pull
  deriving DecidableEq, Repr

/-- One lane's part of a remote request: the lane, the 40-bit offset and the data it carries. -/
structure MsgLane where
  lane : Nat
  off : Nat
  data : List Byte
  deriving DecidableEq, Repr

/-- A fabric request (R249, R251, R252): the devices it goes between, the fabric job key, the sending team and its phase
tag, the source's number for it, a RATOM's sequence (for a load the number of its resends, log 54), the route's alternate and hop count,
and the lanes' requests. `cls` is the RATOM
operation (meaningful for `ratom` only) and `len` the transfer bytes of one lane. -/
structure Msg where
  kind : MsgKind
  src : Nat
  dst : Nat
  key : Word
  team : Nat
  tag : Bool
  req : Nat
  seq : Nat
  alt : Nat
  hop : Nat
  op : AtomOp
  len : Nat
  lanes : List MsgLane
  deriving DecidableEq, Repr

/-- A fabric reply: the request it answers, the RATOM sequence, and per lane the data read, or the failure cause of
R254. `ev` are the floating-point events the peer counted while applying a RATOM (R420). -/
structure Reply where
  kind : MsgKind
  src : Nat
  dst : Nat
  req : Nat
  seq : Nat
  alt : Nat
  hop : Nat
  ev : List Nat
  data : List MsgLane
  fails : List (Nat × Nat)
  deriving DecidableEq, Repr

/-- What answers a pull of an engine: the number of the sending that it answers (R250), and the bytes. -/
structure PullReply where
  seq : Nat
  data : List Byte
  deriving DecidableEq, Repr

/-- What travels on the fabric (R249). -/
inductive Packet where
  | req (m : Msg)
  | rep (r : Reply)
  deriving DecidableEq, Repr

/-- Management registers with no row of their own (MGMT_REGISTER_WRITE): R214, R251, R258, R286, R294, and the context
registers of system software (R60, R61). -/
inductive MgmtReg where
  | fpthr (vf q : Nat)
  | xwbase (vf : Nat)
  | xwsize (vf : Nat)
  | xwkey (vf : Nat)
  | dgtbase (part : Nat)
  | ksbind (slot : Nat)
  | sealout (part : Nat)
  | root (vf : Nat)
  | privBase (vf : Nat)
  | privStride (vf : Nat)
  | privLimit (vf : Nat)
  | funcPart (vf : Nat)
  | hostRange (base : Nat)
  | cxlRange (base : Nat)
  deriving DecidableEq, Repr

/-- What the members of a device group found when they matched one collective instance (R354). -/
inductive CollMatch where
  | agree | mismatch | unreachable
  deriving DecidableEq, Repr

/-- What a THROTTLE_REPORT says of a memory controller's queue (R176): `total` of its `depth` entries are held, `share` of them by the partition. -/
structure QueueReading where
  ctrl : Nat
  share : Nat
  total : Nat
  depth : Nat
  deriving DecidableEq, Repr

/-- A word of SRAM that an error strikes (R296, R298), with what R298 needs to know of it: `pbLine` and `rstLine` are lines that the team
has not published, `drainLine` one that it has and that still stands in the Phase Buffer. -/
inductive SramLoc where
  | vreg (team group reg : Nat)
  | sreg (team group reg : Nat)
  | scratch (team line : Nat)
  | tile (team tile row seg : Nat)
  | pred (team group p : Nat)
  | pbLine (team line : Nat)
  | rstLine (team peer line : Nat)
  | drainLine (team line : Nat)
  | undoLog (team : Nat)
  deriving DecidableEq, Repr

/-- One constructor per row of spec/opcode_table.json. -/
inductive Instr where
  -- class 00 (R79)
  | add (o : Alu3) | sub (o : Alu3) | mul (o : Alu3) | mulh (o : Alu3) | fma (o : Alu3)
  | min (o : Alu3) | max (o : Alu3)
  | and (o : Alu3) | or (o : Alu3) | xor (o : Alu3) | andn (o : Alu3)
  | shl (o : Alu3) | shr (o : Alu3) | rot (o : Alu3)
  | cmp (o : CmpOps) | sel (o : SelOps) | cvt (o : CvtOps) | div (o : Alu3) | rem (o : Alu3)
  -- the unary family, op 19 (R80)
  | abs (o : Alu2) | neg (o : Alu2) | not (o : Alu2) | popc (o : Alu2) | clz (o : Alu2) | brev (o : Alu2)
  | sqrt (o : Alu2) | rcp (o : Alu2) | rsq (o : Alu2) | ex2 (o : Alu2) | lg2 (o : Alu2) | sin (o : Alu2)
  | cos (o : Alu2) | tanh (o : Alu2)
  | rndiRn (o : Alu2) | rndiRz (o : Alu2) | rndiRd (o : Alu2) | rndiRu (o : Alu2) | fclass (o : Alu2)
  | bfe (o : Alu3) | bfi (o : Alu3) | lea (o : LeaOps) | mov (o : MovOps) | shfl (o : ShflOps)
  | reduce (o : ReduceOps) | scan (o : ScanOps) | vote (o : VoteOps)
  | compress (o : SelOps) | expand (o : SelOps) | trn8 (o : Trn8Ops) | dot4 (o : Dot4Ops)
  -- class 01 (R84)
  | addi (o : ImmOps) | andi (o : ImmOps) | ori (o : ImmOps) | xori (o : ImmOps)
  | shli (o : ShImmOps) | shri (o : ShImmOps) | sari (o : ShImmOps)
  | cmpi (o : CmpiOps) | movi (d : Reg) (imm : BitVec 18) | bra (o : BraOps) | call (d : Reg) (off : BitVec 18)
  | regang | guard (o : GuardOps) | winb (base : BitVec 4) | exit | trap (imm : BitVec 11) | nop
  | get (d : Reg) (n : BitVec 11) | put (a : Reg) (n : BitVec 11) | plop (o : PlopOps) | pmov (o : PmovOps)
  | rqxfer (o : RqxferOps) | waitc (o : WaitcOps) | ret (a : Reg) | brx (a : Reg) (imm : BitVec 11) | rft
  -- class 10 (R92)
  | ld (o : MemOps) | st (o : MemOps) | lds (o : MemOps) | sts (o : MemOps) | ldp (o : MemOps) | stp (o : MemOps)
  | atom (o : AtomOps) | red (o : AtomOps) | atoms (o : AtomOps) | pref (a : Reg)
  | cctlLine (a : Reg) | cctlAll
  | fenceFull (sc : Scope) | fenceAcq (sc : Scope) | fenceRel (sc : Scope)
  | phasePub (sc : Scope) | phaseRef (sc : Scope) | phaseBoth (sc : Scope) | phasePubDur (sc : Scope)
  | barinit (d a : Reg) | bararr (a : Reg) | barexp (d a : Reg) | barwait (d a : Reg) | bartest (d a : Reg)
  | barbrk (a : Reg) | armw (d a : Reg) | cpyp (d : Reg) | claim (o : ClaimOps)
  | wave (p : Fin 8) (loop : Fin 8) | rloop (a : Reg) (free : Bool) (loop : Fin 8) | rlitem (d : Reg) (loop : Fin 8)
  | rldone (loop : Fin 8)
  -- class 11 (R94)
  | movl (d : Reg) (lit : Word) | lde (o : LdeOps) | atome (o : AtomeOps) | rld (o : RemOps) | rst (o : RemOps)
  | ratom (o : RatomOps) | rflush (b : Reg) | rfencef (d a b : Reg) | cas (o : CasOps) | cass (o : CasOps)
  | mma (o : MmaOps) | accld (o : AccOps) | accst (o : AccOps) | accz (tile : Fin 16)
  | bfpack (o : BfOps) | bfunpk (o : BfOps) | gath (d : Reg) | coll (d : Reg) | rshard (d : Reg)
  | sealo (d a : Reg) | seala (a : Reg) | sealc (a b : Reg) | lnch (d a : Reg) (q : BitVec 6)
  -- events: the host and system software (R278 to R288, R157, R174, R248)
  | launchRecord (vf q : Nat) (bytes wire : List Byte)
  | deviceMemoryWrite (vf : Nat) (va : VAddr) (data wire : List Byte)
  | deviceMemoryReadRequest (vf : Nat) (va : VAddr) (len : Nat) (wire : List Byte)
  | hostMemoryReadReply (vf : Nat) (pa : Nat) (data wire : List Byte)
  | trapReply (vf token : Nat) (kill : Bool) (wire : List Byte)
  | killRequest (vf q seq : Nat) (wire : List Byte)
  | completionCredit (vf n : Nat)
  | lockInterface (vf : Nat) | getDeviceInterfaceReport (vf : Nat) | startInterface (vf : Nat)
  | stopInterface (vf : Nat) | functionLevelReset (vf : Nat)
  | spdmKeyExchange (vf : Nat) (derived : List (Nat × Nat))
  | qcfgWrite (vf q : Nat) (value : Word)
  | partitionDescriptorWrite (bytes : List Byte)
  | routeTableLoad (dest : Nat) (entry : DWord)
  | mgmtRegisterWrite (reg : MgmtReg) (value : Nat)
  -- events: dispatch, scheduling, rollback
  | teamPlacement (launch : Nat) (cores : List Nat)
  | groupEnd (team group : Nat) | teamEnd (team : Nat) | teamRetire (launch : Nat)
  | escfaultTaken | remoteTrapTaken
  | sliceEnd (part : Nat) | throttleReport (part : Nat) (q : QueueReading) | contextSwitch (team : Nat)
  | rollback (team : Nat) | teamSave (team : Nat) | parktoExpiry (launch : Nat)
  | publishComplete (team : Nat) (lines : List Nat)
  | quietReport (peer team : Nat) (tag : Bool) (count : Nat) | quietReportSend (src team : Nat) (tag : Bool)
  | barwaitWake (team group slice : Nat)
  -- events: memory, escorts, engines, fabric
  | loadComplete (team group op : Nat) | escortLanding (team group esc : Nat)
  | copyEntryTake (core : Nat) | copyEntryComplete (cmd : Nat)
  | reflectiveStoreLanding (team group op target : Nat) | mxOperationComplete (core : Nat)
  | remoteRequestReceipt (m : Msg) | remoteReply (r : Reply) | remoteResendTimeout (req : Nat)
  | fabricForward (p : Packet) | rfencefFlagWrite (req : Nat) | linkFailure (link : Nat) | linkRetrain (link : Nat)
  | collExecute (found : CollMatch) | collComplete (cmd : Nat) (parts : List PullReply) (fail : Nat)
  | gathComplete (cmd rows : Nat)
  | rshardStart (cmd : Nat) | rshardChunkComplete (cmd piece chunk : Nat) (data : PullReply) (fail : Nat) | rshardStop (cmd : Nat)
  | sealaAbsorb (team group : Nat) | sealcRecord (team group : Nat) | lnchComplete (team group slice : Nat)
  -- events: integrity and service (chapter 18)
  | sramEccError (loc : SramLoc) (correctable : Bool) | cacheEccError (line : Nat) (correctable : Bool)
  | dramEccError (line : Nat) (correctable : Bool)
  | verticalBusParityFail (die chan lane retries : Nat) (spareFails : Bool)
  | nocCrcFail (header payload : Bool) (vf core : Nat) | cxlPoison (line : Nat)
  | coreLoss (core : Nat) | plannedCoreRetirement (core : Nat)
  | plannedChannelRetirement (die chan : Nat) (ranges : List (Nat × Nat)) | channelLoss (die chan : Nat)
  | dieFailure (die : Nat) | verticalLaneRecalibration (die chan lane : Nat)
  | imageWrite (engine version : Nat) (sigOk : Bool) | imageActivation (engine : Nat) (forced : Bool)
  | thermalLimit (die : Nat) (above : Bool) | powerOn | timeSliceStart (part : Nat)
  deriving DecidableEq, Repr

end Sys2Proof
end

