-- ==== Sys2Proof/WellFormed.lean ====
section
/-!
DEFINITION. The encoding checks that are made on an instruction's operands (R75, R76, R79 to R97, R98): which types,
codes, register kinds and runs its row accepts. `Instr.reason` gives the lowest reason code of R100 that applies among
3, 4 and 5; the reserved fields (reason 2) and the codes that name nothing (reasons 1 and 3) are settled by the decoder,
because an `Instr` cannot hold them. A GUARD window (reason 6) and the dynamic conditions (reason 7) depend on the state.
-/
namespace Sys2Proof

/-- The lower of two optional reason codes: the lowest reason that applies decides (R100). -/
def lowest : Option Nat → Option Nat → Option Nat
  | none, y => y
  | x, none => x
  | some x, some y => some (Nat.min x y)

/-- The lowest reason of a list of checks. -/
def lowestOf (l : List (Option Nat)) : Option Nat := l.foldr lowest none

/-- A failed check answers its reason. -/
def bad (c : Bool) (r : Nat) : Option Nat := if c then some r else none

/-! ### Operand kinds (R45, R46, R75) -/

def Reg.isV : Reg → Bool
  | .v _ => true
  | _ => false

def Reg.isS : Reg → Bool
  | .s _ => true
  | _ => false

/-- A run of `n` registers from `r`, in v or in s, aligned and not crossing (R46): reason 4; a run of two or more
never starts at z (R75): reason 5; one of a single register may be z (DESIGN CHOICE, log 101). -/
def runReason (n : Nat) : Reg → Option Nat
  | .v k => bad (k.val % n != 0 || decide (96 < k.val + n)) 4
  | .s k => bad (k.val % n != 0 || decide (31 < k.val + n)) 4
  | .z => bad (decide (1 < n)) 5

/-- A run that must stand in v; of the reasons of one in s the lowest counts, its misalignment (R100, R455). -/
def vRun (n : Nat) (r : Reg) : Option Nat := lowestOf [bad (!r.isV) 5, runReason n r]

/-- A run that must stand in s. -/
def sRun (n : Nat) (r : Reg) : Option Nat := lowestOf [bad (!r.isS) 5, runReason n r]

/-- An operand that may be s or z only. -/
def sOrZ (r : Reg) : Option Nat := bad r.isV 5

/-- R76: with an s destination, every per-lane input is s or z. -/
def uniformInputs (d : Reg) (ins : List Reg) : Option Nat := bad (d.isS && ins.any Reg.isV) 5

/-- A v run whose base is a multiple of 8 and that may reach past v95 (R50, R216, R228). -/
def wideRun : Reg → Option Nat
  | .v k => bad (k.val % 8 != 0) 4
  | _ => some 5

/-! ### Types (R78, R82) -/

/-- Registers per operand of a class 00 type (R78). -/
def Ty.regs : Ty → Nat
  | .s64 | .n64 | .f64 => 2
  | _ => 1

def Ty.isInt : Ty → Bool
  | .s32 | .n32 | .s64 | .n64 => true
  | _ => false

def Ty.isPacked : Ty → Bool
  | .f16x2 | .bf16x2 => true
  | _ => false

/-- Types 000 to 101 (R79). -/
def Ty.isWhole (t : Ty) : Bool := !t.isPacked

def Ty.isFloat (t : Ty) : Bool := !t.isInt

/-- ABS and NEG take 000, 010, 100 to 111 (R80). -/
def Ty.isSignedOrFloat : Ty → Bool
  | .n32 | .n64 => false
  | _ => true

/-- FMA takes 000, 001, 100 to 111 (R79). -/
def Ty.isFma : Ty → Bool
  | .s64 | .n64 => false
  | _ => true

/-- RSQ, EX2, LG2, SIN, COS and TANH take 100, 110, 111 (R80). -/
def Ty.isFn : Ty → Bool
  | .f32 | .f16x2 | .bf16x2 => true
  | _ => false

def NumTy.isInt : NumTy → Bool
  | .s8 | .n8 | .s16 | .n16 | .s32 | .n32 | .s64 | .n64 => true
  | _ => false

/-- 64-bit types occupy a pair, every other type one register (R82). -/
def NumTy.regs : NumTy → Nat
  | .s64 | .n64 | .f64 => 2
  | _ => 1

def Cond.isNan : Cond → Bool
  | .num | .nan => true
  | _ => false

def RedOp.isBit : RedOp → Bool
  | .and | .or | .xor => true
  | _ => false

/-- Registers of a run width (R87). -/
def RunW.regs : RunW → Nat
  | .w1 => 1
  | .w2 => 2
  | .w4 => 4
  | .w8 => 8

/-- The combinations of w and sz of R88. -/
def loadShape (w : RunW) (sz : ElSz) : Bool :=
  match sz, w with
  | .b8, .w1 | .b16, .w1 => true
  | .b8, _ | .b16, _ => false
  | .b32, _ => true
  | .b64, .w1 => false
  | .b64, _ => true

def ElSz.isSub : ElSz → Bool
  | .b8 | .b16 => true
  | _ => false

/-! ### Semantics and scopes (R89, R90, R252) -/

def Sem.okLd : Sem → Bool
  | .rel => false
  | _ => true

def Sem.okSt : Sem → Bool
  | .default | .nt | .rel => true
  | _ => false

def Sem.okLds : Sem → Bool
  | .default | .acq => true
  | _ => false

def Sem.okSts : Sem → Bool
  | .default | .rel => true
  | _ => false

def Sem.okPriv : Sem → Bool
  | .default => true
  | _ => false

def Sem.okRld : Sem → Bool
  | .default | .nt | .acq | .vol => true
  | _ => false

def Scope.isTeam : Scope → Bool
  | .group | .team => true
  | _ => false

def Scope.isRemote : Scope → Bool
  | .domain | .system => true
  | _ => false

/-- Registers of an atomic's operand (R91). -/
def atomRegs (wide : Bool) : Nat := if wide then 2 else 1

/-! ### Special registers (R54) -/

/-- The numbers of R54. -/
def spListed (n : Nat) : Bool :=
  n ≤ 0x006 || (0x008 ≤ n && n ≤ 0x00A) || (0x00C ≤ n && n ≤ 0x00E) || (0x010 ≤ n && n ≤ 0x015) || n == 0x018 ||
  (0x020 ≤ n && n ≤ 0x027) || n == 0x030 || n == 0x031 || (0x040 ≤ n && n ≤ 0x062)

/-- LANEID, SLICEID and RNGSEED are lane scope (R54). -/
def spLane (n : Nat) : Bool := n == 0x000 || n == 0x001 || n == 0x012

/-- Registers that a PUT may write: access RW, or H marked for PUT (R54, R418). -/
def spPut (n : Nat) : Bool := n == 0x010 || n == 0x011 || n == 0x012 || n == 0x021

/-- Registers of access H (R54). -/
def spHandler (n : Nat) : Bool := 0x020 ≤ n && n ≤ 0x027

/-! ### Runs of BFPACK and BFUNPK (R200, R201, R228) -/

/-- Elements of a block record. -/
def BlockFmt.elems : BlockFmt → Nat
  | .b32m4 | .b32m6 | .b32m8 => 32
  | _ => 64

/-- Mantissa bits. -/
def BlockFmt.bits : BlockFmt → Nat
  | .b32m4 | .b64m4 => 4
  | .b32m6 => 6
  | .b32m8 => 8
  | .b64m2 => 2
  | .b64m3 => 3

/-- Bytes of a record: the scale byte and the payload. -/
def BlockFmt.bytes (f : BlockFmt) : Nat := 1 + f.elems * f.bits / 8

/-- Registers of a record (R201). -/
def BlockFmt.regs (f : BlockFmt) : Nat := (f.bytes + 3) / 4

def recCount (two : Bool) : Nat := if two then 2 else 1

/-- Two v runs that share a register. -/
def runsMeet (a : Reg) (n : Nat) (b : Reg) (m : Nat) : Bool :=
  match a, b with
  | .v x, .v y => decide (x.val < y.val + m) && decide (y.val < x.val + n)
  | _, _ => false

/-! ### Escort sets (R95) -/

/-- The escort offsets that a mask selects. -/
def maskBits (m : BitVec 24) : List Nat := (List.range 24).filter m.getLsbD

/-- The v registers that an escorted request carries, as field values. -/
def escortRegs (b : Reg) (m : BitVec 24) : List Nat :=
  match b with
  | .v k => (maskBits m).map (k.val + ·)
  | _ => []

/-- The registers of a run that lie in v, as field values. -/
def vRegs (r : Reg) (n : Nat) : List Nat :=
  match r with
  | .v k => (List.range n).map (k.val + ·)
  | _ => []

/-- R95: an escort register past v95 is a run that crosses (reason 4; DEDUCED, log 20); one that overlaps the d run or a
v pair a is reason 5. -/
def escortReason (b d a : Reg) (n : Nat) (m : BitVec 24) : Option Nat :=
  lowestOf [vRun 1 b, bad ((escortRegs b m).any (95 < ·)) 4,
    bad ((escortRegs b m).any fun r => (vRegs d n).contains r || (vRegs a 2).contains r) 5]

/-! ### The rows -/

/-- Operands of the three-register arithmetic rows: every operand of kind T (R79). -/
def Alu3.reasonT (ok : Ty → Bool) (o : Alu3) : Option Nat :=
  lowestOf [bad (!ok o.ty) 3, runReason o.ty.regs o.d, runReason o.ty.regs o.a, runReason o.ty.regs o.b,
    uniformInputs o.d [o.a, o.b]]

/-- The rows whose b is one register (R79): shifts, BFE and BFI. -/
def Alu3.reasonOne (ok : Ty → Bool) (o : Alu3) : Option Nat :=
  lowestOf [bad (!ok o.ty) 3, runReason o.ty.regs o.d, runReason o.ty.regs o.a, uniformInputs o.d [o.a, o.b]]

/-- The unary rows whose d is of kind T (R80). -/
def Alu2.reasonT (ok : Ty → Bool) (o : Alu2) : Option Nat :=
  lowestOf [bad (!ok o.ty) 3, runReason o.ty.regs o.d, runReason o.ty.regs o.a, uniformInputs o.d [o.a]]

/-- The unary rows whose d is one register (R80). -/
def Alu2.reasonOne (ok : Ty → Bool) (o : Alu2) : Option Nat :=
  lowestOf [bad (!ok o.ty) 3, runReason o.ty.regs o.a, uniformInputs o.d [o.a]]

def ImmOps.reason (o : ImmOps) : Option Nat := uniformInputs o.d [o.a]
def ShImmOps.reason (o : ShImmOps) : Option Nat := uniformInputs o.d [o.a]

/-- A load: w and sz, semantics, runs, and R76. -/
def MemOps.reasonLoad (ok : Sem → Bool) (addr : Nat) (o : MemOps) : Option Nat :=
  lowestOf [bad (!loadShape o.w o.sz || !ok o.sc) 3, runReason o.w.regs o.d, runReason addr o.a, uniformInputs o.d [o.a]]

/-- A store: as a load, with x bit 3 clear for the sub-word sizes (R88). -/
def MemOps.reasonStore (ok : Sem → Bool) (addr : Nat) (o : MemOps) : Option Nat :=
  lowestOf [bad (!loadShape o.w o.sz || !ok o.sc || (o.sz.isSub && o.x.getLsbD 3)) 3, runReason o.w.regs o.d,
    runReason addr o.a]

def AtomOps.reason (ok : Scope → Bool) (addr : Nat) (o : AtomOps) : Option Nat :=
  lowestOf [bad (!ok o.sc) 3, runReason (atomRegs o.wide) o.d, runReason addr o.a, uniformInputs o.d [o.a]]

/-- RED returns nothing, so R76 does not bear on it. -/
def AtomOps.reasonRed (o : AtomOps) : Option Nat :=
  lowestOf [runReason (atomRegs o.wide) o.d, runReason 2 o.a]

def CasOps.reason (ok : Scope → Bool) (addr : Nat) (o : CasOps) : Option Nat :=
  lowestOf [bad (!ok o.sc) 3, runReason (if o.wide then 4 else 2) o.d, runReason addr o.a, uniformInputs o.d [o.a]]

/-- SEL and the like: one register each, with R76. -/
def SelOps.reason (o : SelOps) : Option Nat := uniformInputs o.d [o.a, o.b]

/-- COMPRESS and EXPAND (R79, R356, R371). -/
def SelOps.reasonPack (o : SelOps) : Option Nat := lowestOf [vRun 1 o.d, vRun 1 o.a, sOrZ o.b]

def AccOps.reason (o : AccOps) : Option Nat := sRun 1 o.b

/-- BFPACK and BFUNPK: dn and an are the lengths of the d and a runs (R228, R338). -/
def BfOps.reason (o : BfOps) (rmOk : Bool) (dn an : Nat) : Option Nat :=
  lowestOf [bad (!rmOk) 3, wideRun o.d, wideRun o.a, bad (runsMeet o.d dn o.a an) 5]

def BfOps.recRegs (o : BfOps) : Nat := recCount o.two * o.fmt.regs
def BfOps.f32Regs (o : BfOps) : Nat := recCount o.two * o.fmt.elems

/-- The rounding codes of BFPACK (R94): 110 and 111 are illegal. -/
def Rm.okPack : Rm → Bool
  | .rnsat => false
  | _ => true

/-- The lowest of the reasons 3, 4 and 5 of R100 that the operands of an instruction meet; none for a legal one. Events
are no encodings; the two that carry a record of 64 bytes carry all of it (R32, R174). -/
def Instr.reason : Instr → Option Nat
  | .add o | .sub o | .mul o | .min o | .max o => o.reasonT (fun _ => true)
  | .mulh o | .and o | .or o | .xor o | .andn o | .rem o => o.reasonT Ty.isInt
  | .fma o => o.reasonT Ty.isFma
  | .shl o | .shr o | .rot o | .bfe o | .bfi o => o.reasonOne Ty.isInt
  | .div o => o.reasonT Ty.isWhole
  | .cmp o => lowestOf [bad (!o.ty.isWhole || (o.c.isNan && o.ty.isInt)) 3, runReason o.ty.regs o.a, runReason o.ty.regs o.b]
  | .sel o => o.reason
  | .cvt o => lowestOf [bad (o.dt.isInt && o.st.isInt && !(o.rm == .rn || o.rm == .rnsat)) 3,
      (runReason o.dt.regs o.d).map (fun _ => 4), (runReason o.st.regs o.a).map (fun _ => 4), uniformInputs o.d [o.a]]
  | .abs o | .neg o => o.reasonT Ty.isSignedOrFloat
  | .not o | .brev o => o.reasonT Ty.isInt
  | .popc o | .clz o => o.reasonOne Ty.isInt
  | .sqrt o | .rcp o | .rndiRn o | .rndiRz o | .rndiRd o | .rndiRu o => o.reasonT Ty.isFloat
  | .rsq o | .ex2 o | .lg2 o | .sin o | .cos o | .tanh o => o.reasonT Ty.isFn
  | .fclass o => o.reasonOne (fun t => t.isFloat && t.isWhole)
  | .lea o => lowestOf [runReason 2 o.d, runReason 2 o.a, uniformInputs o.d [o.a, o.b]]
  | .mov o => lowestOf [runReason o.w.regs o.d, runReason o.w.regs o.a, uniformInputs o.d [o.a]]
  | .shfl o => lowestOf [vRun 1 o.d, vRun 1 o.a]
  | .reduce o => lowestOf [bad (!o.ty.isWhole || (o.ty.isFloat && o.op.isBit)) 3, bad (o.d == .z) 5, runReason o.ty.regs o.d,
      vRun o.ty.regs o.a]
  | .scan o => lowestOf [bad (!o.ty.isWhole || (o.ty.isFloat && o.op.isBit)) 3, vRun o.ty.regs o.d, vRun o.ty.regs o.a]
  | .vote _ => none
  | .compress o | .expand o => o.reasonPack
  | .trn8 o => lowestOf [vRun 8 o.d, vRun 8 o.a]
  | .dot4 o => uniformInputs o.d [o.a, o.b]
  | .addi o | .andi o | .ori o | .xori o => o.reason
  | .shli o | .shri o | .sari o => o.reason
  | .cmpi _ | .movi .. | .bra _ | .regang | .guard _ | .exit | .trap _ | .nop | .plop _ | .waitc _ | .rft => none
  | .call d _ => sRun 2 d
  | .winb base => bad (base == 15) 3
  | .get d n => lowestOf [bad (!spListed n.toNat) 3, bad (spLane n.toNat && d.isS) 5]
  | .put _ n => bad (!spPut n.toNat) 3
  | .pmov o => match o.m with
      | .pv => lowestOf [bad (o.d != .z) 5, vRun 1 o.a]
      | .vp => lowestOf [vRun 1 o.d, bad (o.a != .z) 5]
      | .sp => lowestOf [sRun 1 o.d, bad (o.a != .z) 5]
      | .ps => lowestOf [bad (o.d != .z) 5, sRun 1 o.a]
  | .rqxfer o => bad (o.src == o.dst || o.cnt == 0 || decide (48 < o.cnt.toNat)) 3
  | .ret a | .brx a _ => sRun 2 a
  | .ld o => o.reasonLoad Sem.okLd 2
  | .st o => o.reasonStore Sem.okSt 2
  | .lds o => o.reasonLoad Sem.okLds 1
  | .sts o => o.reasonStore Sem.okSts 1
  | .ldp o => o.reasonLoad Sem.okPriv 1
  | .stp o => o.reasonStore Sem.okPriv 1
  | .atom o => o.reason (fun _ => true) 2
  | .red o => o.reasonRed
  | .atoms o => o.reason Scope.isTeam 1
  | .pref a | .cctlLine a => runReason 2 a
  | .cctlAll | .fenceFull _ | .fenceAcq _ | .fenceRel _ | .phasePub _ | .phaseRef _ | .phaseBoth _ | .phasePubDur _ => none
  | .barinit d _ | .barwait d _ | .bartest d _ => runReason 2 d
  | .bararr _ | .barexp .. | .barbrk _ => none
  | .armw _ a => runReason 2 a
  | .cpyp d => runReason 8 d
  | .claim o => lowestOf [bad (!loadShape o.w o.sz) 3, runReason 2 o.a]
  | .wave .. | .rloop .. | .rldone _ => none
  | .rlitem d _ => vRun 1 d
  | .movl .. => none
  | .lde o => lowestOf [bad (!loadShape o.w o.sz || !o.sc.okLd) 3, vRun o.w.regs o.d, runReason 2 o.a,
      escortReason o.b o.d o.a o.w.regs o.mask]
  | .atome o => lowestOf [vRun (atomRegs o.wide) o.d, runReason 2 o.a, escortReason o.b o.d o.a (atomRegs o.wide) o.mask]
  | .rld o => lowestOf [bad (!loadShape o.w o.sz || !o.sc.okRld) 3, runReason o.w.regs o.d, runReason 2 o.a,
      uniformInputs o.d [o.a, o.b]]
  | .rst o => lowestOf [bad (!loadShape o.w o.sz || !o.sc.okSt) 3, runReason o.w.regs o.d, runReason 2 o.a]
  | .ratom o => lowestOf [bad (!o.sc.isRemote) 3, runReason (atomRegs o.wide) o.d, runReason 2 o.a,
      uniformInputs o.d [o.a, o.b]]
  | .rflush _ => none
  | .rfencef d a _ => lowestOf [runReason 2 d, runReason 2 a]
  | .cas o => o.reason (fun _ => true) 2
  | .cass o => o.reason Scope.isTeam 1
  | .mma o => lowestOf [wideRun o.a, sRun 1 o.b, sRun 1 o.nreg, sRun 4 o.fmt]
  | .accld o | .accst o => o.reason
  | .accz _ => none
  | .bfpack o => o.reason o.rm.okPack o.recRegs o.f32Regs
  | .bfunpk o => o.reason (o.rm == .rn) o.f32Regs o.recRegs
  | .gath d | .coll d | .rshard d => sRun 8 d
  | .sealo d a => lowestOf [sRun 1 d, sRun 1 a]
  | .seala a => sRun 4 a
  | .sealc a b => lowestOf [sRun 1 a, sRun 2 b]
  | .lnch d a _ => lowestOf [sRun 1 d, sRun 2 a]
  | .launchRecord _ _ bytes _ => bad (bytes.length != 64) 3
  | .partitionDescriptorWrite bytes => bad (bytes.length != 64) 3
  | .deviceMemoryWrite .. | .deviceMemoryReadRequest .. | .hostMemoryReadReply .. | .trapReply .. | .killRequest ..
  | .completionCredit .. | .lockInterface _ | .getDeviceInterfaceReport _ | .startInterface _ | .stopInterface _
  | .functionLevelReset _ | .spdmKeyExchange .. | .qcfgWrite .. | .routeTableLoad .. | .mgmtRegisterWrite ..
  | .teamPlacement .. | .groupEnd .. | .teamEnd _ | .teamRetire _ | .escfaultTaken | .remoteTrapTaken
  | .sliceEnd _ | .throttleReport .. | .contextSwitch _ | .rollback _ | .teamSave _ | .parktoExpiry _
  | .publishComplete .. | .quietReport .. | .quietReportSend .. | .barwaitWake .. | .loadComplete .. | .escortLanding ..
  | .copyEntryTake _ | .copyEntryComplete _ | .reflectiveStoreLanding .. | .mxOperationComplete _
  | .remoteRequestReceipt _ | .remoteReply _ | .remoteResendTimeout _ | .fabricForward _ | .rfencefFlagWrite _
  | .linkFailure _ | .linkRetrain _ | .collExecute _ | .collComplete .. | .gathComplete .. | .rshardStart _
  | .rshardChunkComplete .. | .rshardStop _ | .sealaAbsorb .. | .sealcRecord .. | .lnchComplete ..
  | .sramEccError .. | .cacheEccError .. | .dramEccError .. | .verticalBusParityFail .. | .nocCrcFail .. | .cxlPoison _
  | .coreLoss _ | .plannedCoreRetirement _ | .plannedChannelRetirement .. | .channelLoss .. | .dieFailure _
  | .verticalLaneRecalibration .. | .imageWrite .. | .imageActivation .. | .thermalLimit .. | .powerOn
  | .timeSliceStart _ => none

/-- A well-formed instruction breaks no encoding check (R98). -/
def Instr.wf (i : Instr) : Bool := i.reason.isNone

end Sys2Proof
end

