-- ==== Sys2Proof/Decode.lean ====
section
/-!
DEFINITION. The decoder and the encoder of instruction words (chapter 03). `decode w e` reads the first word `w`, and the
extension word `e` of a class 11 instruction; it answers the instruction, or the lowest reason code of R100 (1 to 5).
The field positions are those of R77, R83, R87 and R93 and of the rows that repurpose fields. `encode` is written from the
same tables. A word is a natural number below 2^32; bit 0 is its least significant bit (R8).
-/
namespace Sys2Proof

/-- Bits `lo + n - 1` to `lo` of a word. -/
def bits (w lo n : Nat) : Nat := w / 2 ^ lo % 2 ^ n

/-! ### Codes of the fields, in both directions -/

/-- R45. -/
def Reg.ofNat (n : Nat) : Reg :=
  if h : n < 96 then .v ⟨n, h⟩ else if h : n - 96 < 31 then .s ⟨n - 96, h⟩ else .z

/-- R45. -/
def Reg.toNat : Reg → Nat
  | .v n => n.val
  | .s n => 96 + n.val
  | .z => 127

/-- R78. -/
def Ty.toNat : Ty → Nat
  | .s32 => 0
  | .n32 => 1
  | .s64 => 2
  | .n64 => 3
  | .f32 => 4
  | .f64 => 5
  | .f16x2 => 6
  | .bf16x2 => 7

/-- R78. -/
def Ty.ofCode : Nat → Ty
  | 0 => .s32
  | 1 => .n32
  | 2 => .s64
  | 3 => .n64
  | 4 => .f32
  | 5 => .f64
  | 6 => .f16x2
  | _ => .bf16x2

/-- R82. -/
def NumTy.toNat : NumTy → Nat
  | .s8 => 0
  | .n8 => 1
  | .s16 => 2
  | .n16 => 3
  | .s32 => 4
  | .n32 => 5
  | .s64 => 6
  | .n64 => 7
  | .f64 => 8
  | .f32 => 9
  | .f16 => 10
  | .bf16 => 11
  | .e4m3 => 12
  | .e5m2 => 13

/-- R82. -/
def NumTy.ofCode? : Nat → Option NumTy
  | 0 => some .s8
  | 1 => some .n8
  | 2 => some .s16
  | 3 => some .n16
  | 4 => some .s32
  | 5 => some .n32
  | 6 => some .s64
  | 7 => some .n64
  | 8 => some .f64
  | 9 => some .f32
  | 10 => some .f16
  | 11 => some .bf16
  | 12 => some .e4m3
  | 13 => some .e5m2
  | _ => none

/-- R82. -/
def Rm.toNat : Rm → Nat
  | .rn => 0
  | .rz => 1
  | .rd => 2
  | .ru => 3
  | .rna => 4
  | .sr => 5
  | .rnsat => 6

/-- R82. -/
def Rm.ofCode? : Nat → Option Rm
  | 0 => some .rn
  | 1 => some .rz
  | 2 => some .rd
  | 3 => some .ru
  | 4 => some .rna
  | 5 => some .sr
  | 6 => some .rnsat
  | _ => none

/-- R81. -/
def Cond.toNat : Cond → Nat
  | .eq => 0
  | .ne => 1
  | .lt => 2
  | .le => 3
  | .gt => 4
  | .ge => 5
  | .num => 6
  | .nan => 7

/-- R81. -/
def Cond.ofCode? : Nat → Option Cond
  | 0 => some .eq
  | 1 => some .ne
  | 2 => some .lt
  | 3 => some .le
  | 4 => some .gt
  | 5 => some .ge
  | 6 => some .num
  | 7 => some .nan
  | _ => none

/-- R85. -/
def CondI.toNat : CondI → Nat
  | .eq => 0
  | .ne => 1
  | .lt => 2
  | .le => 3
  | .gt => 4
  | .ge => 5
  | .lo => 6
  | .hs => 7

/-- R85. -/
def CondI.ofCode? : Nat → Option CondI
  | 0 => some .eq
  | 1 => some .ne
  | 2 => some .lt
  | 3 => some .le
  | 4 => some .gt
  | 5 => some .ge
  | 6 => some .lo
  | 7 => some .hs
  | _ => none

/-- R21. -/
def BraMode.toNat : BraMode → Nat
  | .always => 0
  | .any => 1
  | .all => 2
  | .none => 3

/-- R21. -/
def BraMode.ofCode : Nat → BraMode
  | 0 => .always
  | 1 => .any
  | 2 => .all
  | _ => .none

/-- R79. -/
def ShflMode.toNat : ShflMode → Nat
  | .idx => 0
  | .up => 1
  | .down => 2
  | .xor => 3

/-- R79. -/
def ShflMode.ofCode? : Nat → Option ShflMode
  | 0 => some .idx
  | 1 => some .up
  | 2 => some .down
  | 3 => some .xor
  | _ => none

/-- R79. -/
def RedOp.toNat : RedOp → Nat
  | .add => 0
  | .min => 1
  | .max => 2
  | .and => 3
  | .or => 4
  | .xor => 5

/-- R79. -/
def RedOp.ofCode? : Nat → Option RedOp
  | 0 => some .add
  | 1 => some .min
  | 2 => some .max
  | 3 => some .and
  | 4 => some .or
  | 5 => some .xor
  | _ => none

/-- R79. -/
def VoteMode.toNat : VoteMode → Nat
  | .any => 0
  | .all => 1
  | .ballot => 2
  | .count => 3

/-- R79. -/
def VoteMode.ofCode? : Nat → Option VoteMode
  | 0 => some .any
  | 1 => some .all
  | 2 => some .ballot
  | 3 => some .count
  | _ => none

/-- R79. -/
def TrnSize.toNat : TrnSize → Nat
  | .e32 => 0
  | .e16 => 1
  | .e8 => 2

/-- R79. -/
def TrnSize.ofCode? : Nat → Option TrnSize
  | 0 => some .e32
  | 1 => some .e16
  | 2 => some .e8
  | _ => none

/-- R79. -/
def DotMode.toNat : DotMode → Nat
  | .ss => 0
  | .nn => 1
  | .sn => 2

/-- R79. -/
def DotMode.ofCode? : Nat → Option DotMode
  | 0 => some .ss
  | 1 => some .nn
  | 2 => some .sn
  | _ => none

/-- R87. -/
def RunW.toNat : RunW → Nat
  | .w1 => 0
  | .w2 => 1
  | .w4 => 2
  | .w8 => 3

/-- R87. -/
def RunW.ofCode : Nat → RunW
  | 0 => .w1
  | 1 => .w2
  | 2 => .w4
  | _ => .w8

/-- R87. -/
def ElSz.toNat : ElSz → Nat
  | .b8 => 0
  | .b16 => 1
  | .b32 => 2
  | .b64 => 3

/-- R87. -/
def ElSz.ofCode : Nat → ElSz
  | 0 => .b8
  | 1 => .b16
  | 2 => .b32
  | _ => .b64

/-- R89. -/
def Sem.toNat : Sem → Nat
  | .default => 0
  | .inv => 1
  | .nt => 2
  | .acq => 3
  | .rel => 4
  | .vol => 5

/-- R89. -/
def Sem.ofCode? : Nat → Option Sem
  | 0 => some .default
  | 1 => some .inv
  | 2 => some .nt
  | 3 => some .acq
  | 4 => some .rel
  | 5 => some .vol
  | _ => none

/-- R90. -/
def Scope.toNat : Scope → Nat
  | .group => 0
  | .team => 1
  | .part => 2
  | .device => 3
  | .domain => 4
  | .system => 5

/-- R90. -/
def Scope.ofCode? : Nat → Option Scope
  | 0 => some .group
  | 1 => some .team
  | 2 => some .part
  | 3 => some .device
  | 4 => some .domain
  | 5 => some .system
  | _ => none

/-- R91. -/
def AtomOp.toNat : AtomOp → Nat
  | .add => 0
  | .smin => 1
  | .smax => 2
  | .nmin => 3
  | .nmax => 4
  | .and => 5
  | .or => 6
  | .xor => 7
  | .exch => 8
  | .fadd => 9
  | .fmin => 10
  | .fmax => 11

/-- R91. -/
def AtomOp.ofCode? : Nat → Option AtomOp
  | 0 => some .add
  | 1 => some .smin
  | 2 => some .smax
  | 3 => some .nmin
  | 4 => some .nmax
  | 5 => some .and
  | 6 => some .or
  | 7 => some .xor
  | 8 => some .exch
  | 9 => some .fadd
  | 10 => some .fmin
  | 11 => some .fmax
  | _ => none

/-- R13. -/
def Role.toNat : Role → Nat
  | .copy => 0
  | .matrix => 1
  | .vector => 2

/-- R13. -/
def Role.ofCode? : Nat → Option Role
  | 0 => some .copy
  | 1 => some .matrix
  | 2 => some .vector
  | _ => none

/-- R86. -/
def PmovMode.toNat : PmovMode → Nat
  | .pv => 0
  | .vp => 1
  | .sp => 2
  | .ps => 3

/-- R86. -/
def PmovMode.ofCode : Nat → PmovMode
  | 0 => .pv
  | 1 => .vp
  | 2 => .sp
  | _ => .ps

/-- MOV takes widths 0 to 3 only (R79). -/
def RunW.ofCode? (n : Nat) : Option RunW := if n < 4 then some (RunW.ofCode n) else none

/-- R200, R94: the formats of BFPACK and BFUNPK. -/
def BlockFmt.toNat : BlockFmt → Nat
  | .b32m4 => 0x10
  | .b32m6 => 0x11
  | .b32m8 => 0x12
  | .b64m2 => 0x13
  | .b64m3 => 0x14
  | .b64m4 => 0x15

def BlockFmt.ofCode? : Nat → Option BlockFmt
  | 0x10 => some .b32m4
  | 0x11 => some .b32m6
  | 0x12 => some .b32m8
  | 0x13 => some .b64m2
  | 0x14 => some .b64m3
  | 0x15 => some .b64m4
  | _ => none

/-- A predicate, loop or other 3-bit number. -/
def fin8 (n : Nat) : Fin 8 := ⟨n % 8, Nat.mod_lt _ (by decide)⟩
def fin16 (n : Nat) : Fin 16 := ⟨n % 16, Nat.mod_lt _ (by decide)⟩

/-- R88 and R91: the w and sz of an atomic; `none` for any other pair. -/
def wideOf (w sz : Nat) : Option Bool :=
  if w = 0 ∧ sz = 2 then some false else if w = 1 ∧ sz = 3 then some true else none

/-- What a decoder answers: an instruction, or a reason code of R100. -/
abbrev Decoded := Except Nat Instr

/-- Reserved fields come first (reason 2), then the codes (reason 3): the lowest reason decides (R100). -/
def fields (reserved : Bool) (i : Option Instr) : Decoded :=
  if reserved then .error 2 else
    match i with
    | none => .error 3
    | some i => .ok i

/-! ### Class 00 (R77 to R82) -/

/-- The unary family, op 19 (R80). -/
def decodeUnary (o : Alu2) : Nat → Option Instr
  | 0 => some (.abs o) | 1 => some (.neg o) | 2 => some (.not o) | 3 => some (.popc o) | 4 => some (.clz o)
  | 5 => some (.brev o) | 6 => some (.sqrt o) | 7 => some (.rcp o) | 8 => some (.rsq o) | 9 => some (.ex2 o)
  | 10 => some (.lg2 o) | 11 => some (.sin o) | 12 => some (.cos o) | 13 => some (.tanh o)
  | 14 => some (.rndiRn o) | 15 => some (.rndiRz o) | 16 => some (.rndiRd o) | 17 => some (.rndiRu o)
  | 18 => some (.fclass o) | _ => none

/-- CVT: the type codes and the rounding of R82. -/
def decodeCvt (dt st rm d a : Nat) : Option Instr := do
  let dt ← NumTy.ofCode? dt
  let st ← NumTy.ofCode? st
  let rm ← Rm.ofCode? rm
  return .cvt ⟨dt, st, rm, Reg.ofNat d, Reg.ofNat a⟩

/-- R79. -/
def decode00 (op ty d a b r : Nat) : Decoded :=
  let rb := r == 1
  let o3 : Alu3 := ⟨Ty.ofCode ty, Reg.ofNat d, Reg.ofNat a, Reg.ofNat b, rb⟩
  let o2 : Alu2 := ⟨Ty.ofCode ty, Reg.ofNat d, Reg.ofNat a, rb⟩
  let os : SelOps := ⟨fin8 ty, Reg.ofNat d, Reg.ofNat a, Reg.ofNat b, rb⟩
  match op with
  | 0 => .ok (.add o3) | 1 => .ok (.sub o3) | 2 => .ok (.mul o3) | 3 => .ok (.mulh o3) | 4 => .ok (.fma o3)
  | 5 => .ok (.min o3) | 6 => .ok (.max o3)
  | 7 => .ok (.and o3) | 8 => .ok (.or o3) | 9 => .ok (.xor o3) | 10 => .ok (.andn o3)
  | 11 => .ok (.shl o3) | 12 => .ok (.shr o3) | 13 => .ok (.rot o3)
  | 14 => fields false ((Cond.ofCode? (d % 16)).map fun c =>
      .cmp ⟨Ty.ofCode ty, fin8 (d / 16), c, Reg.ofNat a, Reg.ofNat b, rb⟩)
  | 15 => .ok (.sel os)
  | 16 => fields false (decodeCvt (2 * ty + r) (b / 8) (b % 8) d a)
  | 17 => .ok (.div o3) | 18 => .ok (.rem o3)
  | 19 => fields false (decodeUnary o2 b)
  | 20 => .ok (.bfe o3) | 21 => .ok (.bfi o3)
  | 22 => .ok (.lea ⟨fin8 ty, Reg.ofNat d, Reg.ofNat a, Reg.ofNat b, rb⟩)
  | 23 => fields (b != 127) ((RunW.ofCode? ty).map fun w => .mov ⟨w, Reg.ofNat d, Reg.ofNat a, rb⟩)
  | 24 => fields false ((ShflMode.ofCode? ty).map fun m => .shfl ⟨m, Reg.ofNat d, Reg.ofNat a, Reg.ofNat b, rb⟩)
  | 25 => fields false ((RedOp.ofCode? b).map fun p => .reduce ⟨Ty.ofCode ty, p, Reg.ofNat d, Reg.ofNat a, rb⟩)
  | 26 => fields (b / 16 != 0) ((RedOp.ofCode? (b % 8)).map fun p =>
      .scan ⟨Ty.ofCode ty, p, b / 8 % 2 == 1, Reg.ofNat d, Reg.ofNat a, rb⟩)
  | 27 => fields (b != 127 || rb) (if a < 8 then (VoteMode.ofCode? ty).map fun m => .vote ⟨m, Reg.ofNat d, fin8 a⟩ else none)
  | 28 => .ok (.compress os) | 29 => .ok (.expand os)
  | 30 => fields (b != 127) ((TrnSize.ofCode? ty).map fun m => .trn8 ⟨m, Reg.ofNat d, Reg.ofNat a, rb⟩)
  | 31 => fields false ((DotMode.ofCode? ty).map fun m => .dot4 ⟨m, Reg.ofNat d, Reg.ofNat a, Reg.ofNat b, rb⟩)
  | _ => .error 1

/-! ### Class 01 (R83 to R86) -/

/-- {a, imm}, 18 bits. -/
def val18 (a imm : Nat) : BitVec 18 := BitVec.ofNat 18 (a * 2048 + imm)

/-- The eight thresholds of WAITC (R72), in bits 23:0. -/
def decodeWaitc (n : Nat) : WaitcOps where
  ld := BitVec.ofNat 3 n
  st := BitVec.ofNat 3 (n / 8)
  cp := BitVec.ofNat 3 (n / 64)
  mx := BitVec.ofNat 3 (n / 512)
  ga := BitVec.ofNat 3 (n / 4096)
  co := BitVec.ofNat 3 (n / 32768)
  es := BitVec.ofNat 3 (n / 262144)
  rm := BitVec.ofNat 3 (n / 2097152)

/-- R84. -/
def decode01 (op d a imm : Nat) : Decoded :=
  let oi : ImmOps := ⟨Reg.ofNat d, Reg.ofNat a, BitVec.ofNat 11 imm⟩
  let os : ShImmOps := ⟨Reg.ofNat d, Reg.ofNat a, BitVec.ofNat 5 imm⟩
  let zz := d != 127 || a != 127
  match op with
  | 0 => .ok (.addi oi) | 1 => .ok (.andi oi) | 2 => .ok (.ori oi) | 3 => .ok (.xori oi)
  | 4 => fields (imm / 32 != 0) (some (.shli os))
  | 5 => fields (imm / 32 != 0) (some (.shri os))
  | 6 => fields (imm / 32 != 0) (some (.sari os))
  | 7 => fields false ((CondI.ofCode? (d % 16)).map fun c => .cmpi ⟨fin8 (d / 16), c, Reg.ofNat a, BitVec.ofNat 11 imm⟩)
  | 8 => .ok (.movi (Reg.ofNat d) (val18 a imm))
  | 9 => fields (d % 4 != 0 || (d / 4 % 4 == 0 && d / 16 != 0))
      (some (.bra ⟨fin8 (d / 16), BraMode.ofCode (d / 4 % 4), val18 a imm⟩))
  | 10 => .ok (.call (Reg.ofNat d) (val18 a imm))
  | 11 => fields (d != 0 || a != 0 || imm != 0) (some .regang)
  | 12 => fields (d % 8 != 0 || a != 0 || imm / 4 != 0) (some (.guard ⟨fin8 (d / 16), d / 8 % 2 == 1, BitVec.ofNat 2 imm⟩))
  | 13 => fields (zz || imm / 16 != 0) (some (.winb (BitVec.ofNat 4 imm)))
  | 14 => fields (zz || imm != 0) (some .exit)
  | 15 => fields zz (some (.trap (BitVec.ofNat 11 imm)))
  | 16 => fields (zz || imm != 0) (some .nop)
  | 17 => fields (a != 127) (some (.get (Reg.ofNat d) (BitVec.ofNat 11 imm)))
  | 18 => fields (d != 127) (some (.put (Reg.ofNat a) (BitVec.ofNat 11 imm)))
  | 19 => fields (d % 16 != 0 || a % 16 != 0 || imm % 16 != 0)
      (some (.plop ⟨fin8 (d / 16), fin8 (a / 16), fin8 (imm / 256), BitVec.ofNat 4 (imm / 16)⟩))
  | 20 => fields (imm / 8 % 64 != 0) (some (.pmov ⟨PmovMode.ofCode (imm / 512), fin8 imm, Reg.ofNat d, Reg.ofNat a⟩))
  | 21 => fields (zz || imm / 64 % 2 != 0) (do
      let src ← Role.ofCode? (imm / 512)
      let dst ← Role.ofCode? (imm / 128 % 4)
      return .rqxfer ⟨src, dst, BitVec.ofNat 6 imm⟩)
  | 22 => fields (d / 64 != 0) (some (.waitc (decodeWaitc (d % 64 * 262144 + a * 2048 + imm))))
  | 23 => fields (d != 127 || imm != 0) (some (.ret (Reg.ofNat a)))
  | 24 => fields (d != 127) (some (.brx (Reg.ofNat a) (BitVec.ofNat 11 imm)))
  | 25 => fields (zz || imm != 0) (some .rft)
  | _ => .error 1

/-! ### Class 10 (R87 to R92) -/

/-- Loads and stores. -/
def decodeMem (d a w sz sc x : Nat) : Option MemOps :=
  (Sem.ofCode? sc).map fun sc => ⟨Reg.ofNat d, Reg.ofNat a, RunW.ofCode w, ElSz.ofCode sz, sc, BitVec.ofNat 4 x⟩

/-- Atomics (R91). -/
def decodeAtom (d a w sz sc x : Nat) : Option AtomOps := do
  let wide ← wideOf w sz
  let sc ← Scope.ofCode? sc
  let op ← AtomOp.ofCode? x
  return ⟨Reg.ofNat d, Reg.ofNat a, wide, sc, op⟩

/-- R92. CCTL ALL with an a other than z is reason 5 (R347); a non-zero w, sz, sc or x in a row that fixes it at zero is reason 3
(DESIGN CHOICE, log 101). -/
def decode10 (op d a w sz sc x : Nat) : Decoded :=
  let zz := d != 127 || a != 127
  let rd := Reg.ofNat d
  let ra := Reg.ofNat a
  let plain := w == 0 && sz == 0 && sc == 0
  match op with
  | 0 => fields false ((decodeMem d a w sz sc x).map .ld)
  | 1 => fields false ((decodeMem d a w sz sc x).map .st)
  | 2 => fields false ((decodeMem d a w sz sc x).map .lds)
  | 3 => fields false ((decodeMem d a w sz sc x).map .sts)
  | 4 => fields false ((decodeMem d a w sz sc x).map .ldp)
  | 5 => fields false ((decodeMem d a w sz sc x).map .stp)
  | 6 => fields false ((decodeAtom d a w sz sc x).map .atom)
  | 7 => fields false ((decodeAtom d a w sz sc x).map .red)
  | 8 => fields false ((decodeAtom d a w sz sc x).map .atoms)
  | 9 => fields (d != 127) (if plain && x == 0 then some (.pref ra) else none)
  | 10 => if d == 127 && plain && x == 1 && a != 127 then .error 5
    else fields (d != 127) (if plain && x == 0 then some (.cctlLine ra) else if plain && x == 1 then some .cctlAll
      else none)
  | 11 => fields zz (if w == 0 && sz == 0 then
      match Scope.ofCode? sc, x with
      | some s, 0 => some (.fenceFull s)
      | some s, 1 => some (.fenceAcq s)
      | some s, 2 => some (.fenceRel s)
      | _, _ => none
      else none)
  | 12 => fields zz (if w == 0 && sz == 0 then
      match Scope.ofCode? sc, x with
      | some s, 0 => some (.phasePub s)
      | some s, 1 => some (.phaseRef s)
      | some s, 2 => some (.phaseBoth s)
      | some s, 3 => some (.phasePubDur s)
      | _, _ => none
      else none)
  | 13 => fields false (if w == 1 && sz == 0 && sc == 0 && x == 0 then some (.barinit rd ra) else none)
  | 14 => fields (d != 127) (if plain && x == 0 then some (.bararr ra) else none)
  | 15 => fields false (if plain && x == 0 then some (.barexp rd ra) else none)
  | 16 => fields false (if w == 1 && sz == 0 && sc == 0 && x == 0 then some (.barwait rd ra) else none)
  | 17 => fields false (if w == 1 && sz == 0 && sc == 0 && x == 0 then some (.bartest rd ra) else none)
  | 18 => fields (d != 127) (if plain && x == 0 then some (.barbrk ra) else none)
  | 19 => fields false (if plain && x == 0 then some (.armw rd ra) else none)
  | 20 => fields (a != 127) (if w == 3 && sz == 0 && sc == 0 && x == 0 then some (.cpyp rd) else none)
  | 21 => fields (d != 127) (if sc == 0 && x < 8 then some (.claim ⟨ra, RunW.ofCode w, ElSz.ofCode sz, fin8 x⟩) else none)
  | 22 => fields (d % 16 != 0 || a != 127) (if plain && x < 8 then some (.wave (fin8 (d / 16)) (fin8 x)) else none)
  | 23 => fields (d != 127) (if w == 0 && sz == 0 && sc < 2 && x < 8 then some (.rloop ra (sc == 1) (fin8 x)) else none)
  | 24 => fields (a != 127) (if plain && x < 8 then some (.rlitem rd (fin8 x)) else none)
  | 25 => fields zz (if plain && x < 8 then some (.rldone (fin8 x)) else none)
  | _ => .error 1

/-! ### Class 11 (R93 to R97) -/

/-- LDE (R95). -/
def decodeLde (d a b f e : Nat) : Option LdeOps :=
  (Sem.ofCode? f).map fun sc =>
    ⟨fin8 (bits e 29 3), Reg.ofNat d, RunW.ofCode (bits e 27 2), ElSz.ofCode (bits e 25 2), Reg.ofNat a, Reg.ofNat b, sc,
      BitVec.ofNat 24 e⟩

/-- ATOME (R95): the operation is {e 24, f}. -/
def decodeAtome (d a b f e : Nat) : Option AtomeOps := do
  let wide ← wideOf (bits e 27 2) (bits e 25 2)
  let op ← AtomOp.ofCode? (8 * bits e 24 1 + f)
  return ⟨fin8 (bits e 29 3), Reg.ofNat d, wide, Reg.ofNat a, Reg.ofNat b, op, BitVec.ofNat 24 e⟩

/-- The reserved bits of e in R96. -/
def remReserved (e : Nat) : Bool := bits e 29 3 != 0 || bits e 12 13 != 0 || bits e 7 1 != 0 || bits e 0 4 != 0

/-- RLD and RST (R96): OP is 0; another value is reason 3 (DESIGN CHOICE, log 101). -/
def decodeRem (d a b e : Nat) : Option RemOps :=
  if bits e 8 4 = 0 then
    (Sem.ofCode? (bits e 4 3)).map fun sc =>
      ⟨Reg.ofNat d, Reg.ofNat a, Reg.ofNat b, RunW.ofCode (bits e 27 2), ElSz.ofCode (bits e 25 2), sc⟩
  else none

/-- RATOM (R96). -/
def decodeRatom (d a b e : Nat) : Option RatomOps := do
  let wide ← wideOf (bits e 27 2) (bits e 25 2)
  let sc ← Scope.ofCode? (bits e 4 3)
  let op ← AtomOp.ofCode? (bits e 8 4)
  return ⟨Reg.ofNat d, Reg.ofNat a, Reg.ofNat b, wide, sc, op⟩

/-- CAS and CASS: sz 10 or 11 in e bits 26:25 (R94). -/
def decodeCas (d a f e : Nat) : Option CasOps :=
  if bits e 25 2 < 2 then none
  else (Scope.ofCode? f).map fun sc => ⟨Reg.ofNat d, Reg.ofNat a, bits e 25 2 == 3, sc⟩

/-- MMA (R97). -/
def decodeMma (d a b f e : Nat) : MmaOps :=
  ⟨fin16 (d / 8), d / 4 % 2 == 1, Reg.ofNat a, Reg.ofNat b, f / 2 % 2 == 1, f % 2 == 1, Reg.ofNat (bits e 25 7),
    Reg.ofNat (bits e 18 7), bits e 17 1 == 1⟩

/-- BFPACK and BFUNPK (R94). -/
def decodeBf (d a e : Nat) : Option BfOps := do
  let rm ← Rm.ofCode? (bits e 9 3)
  let fmt ← BlockFmt.ofCode? (bits e 0 8)
  return ⟨Reg.ofNat d, Reg.ofNat a, rm, bits e 8 1 == 1, fmt⟩

/-- R94. -/
def decode11 (op d a b f e : Nat) : Decoded :=
  let rd := Reg.ofNat d
  let ra := Reg.ofNat a
  let rb := Reg.ofNat b
  let f0 := f != 0
  let e0 := e != 0
  match op with
  | 0 => fields (a != 127 || b != 127 || f0) (some (.movl rd (BitVec.ofNat 32 e)))
  | 1 => fields (bits e 24 1 != 0) ((decodeLde d a b f e).map .lde)
  | 2 => fields false ((decodeAtome d a b f e).map .atome)
  | 3 => fields (f0 || remReserved e) ((decodeRem d a b e).map .rld)
  | 4 => fields (f0 || remReserved e) ((decodeRem d a b e).map .rst)
  | 5 => fields (f0 || remReserved e) ((decodeRatom d a b e).map .ratom)
  | 6 => fields (d != 127 || a != 127 || f0 || e0) (some (.rflush rb))
  | 7 => fields (f0 || e0) (some (.rfencef rd ra rb))
  | 8 => fields (b != 127 || bits e 27 5 != 0 || bits e 0 25 != 0) ((decodeCas d a f e).map .cas)
  | 9 => fields (b != 127 || bits e 27 5 != 0 || bits e 0 25 != 0) ((decodeCas d a f e).map .cass)
  | 10 => fields (d % 4 != 0 || f / 4 != 0 || bits e 0 17 != 0) (some (.mma (decodeMma d a b f e)))
  | 11 => fields (d % 8 != 0 || f0 || e0) (some (.accld ⟨fin16 (d / 8), ra, rb⟩))
  | 12 => fields (d % 8 != 0 || f0 || e0) (some (.accst ⟨fin16 (d / 8), ra, rb⟩))
  | 13 => fields (d % 8 != 0 || a != 127 || b != 127 || f0 || e0) (some (.accz (fin16 (d / 8))))
  | 14 => fields (b != 127 || f0 || bits e 12 20 != 0) ((decodeBf d a e).map .bfpack)
  | 15 => fields (b != 127 || f0 || bits e 12 20 != 0 || bits e 9 3 != 0) ((decodeBf d a e).map .bfunpk)
  | 16 => fields (a != 127 || b != 127 || f0 || e0) (some (.gath rd))
  | 17 => fields (a != 127 || b != 127 || f0 || e0) (some (.coll rd))
  | 18 => fields (a != 127 || b != 127 || f0 || e0) (some (.rshard rd))
  | 19 => fields (b != 127 || f0 || e0) (some (.sealo rd ra))
  | 20 => fields (d != 127 || b != 127 || f0 || e0) (some (.seala ra))
  | 21 => fields (d != 127 || f0 || e0) (some (.sealc ra rb))
  | 22 => fields (b != 127 || f0 || bits e 6 26 != 0) (some (.lnch rd ra (BitVec.ofNat 6 e)))
  | _ => .error 1

/-! ### Whole words -/

/-- The row and the fields' codes of an instruction word (R77, R83, R87, R93), before the operand checks. -/
def decodeFields (w e : Nat) : Decoded :=
  match bits w 30 2 with
  | 0 => decode00 (bits w 25 5) (bits w 22 3) (bits w 15 7) (bits w 8 7) (bits w 1 7) (bits w 0 1)
  | 1 => decode01 (bits w 25 5) (bits w 18 7) (bits w 11 7) (bits w 0 11)
  | 2 => decode10 (bits w 25 5) (bits w 18 7) (bits w 11 7) (bits w 9 2) (bits w 7 2) (bits w 4 3) (bits w 0 4)
  | _ => decode11 (bits w 24 6) (bits w 17 7) (bits w 10 7) (bits w 3 7) (bits w 0 3) e

/-- The decoder: an instruction that breaks no encoding check, or the lowest reason of R100. -/
def decode (w e : Nat) : Decoded :=
  match decodeFields w e with
  | .error r => .error r
  | .ok i => match i.reason with
    | some r => .error r
    | none => .ok i

/-- R73: the class of the first word alone sets the length. -/
def wordCount (w : Nat) : Nat := if bits w 30 2 = 3 then 2 else 1

/-- A word from its bytes, little-endian (R8, R73). -/
def wordOfBytes (b0 b1 b2 b3 : Byte) : Nat := b0.toNat + 256 * b1.toNat + 65536 * b2.toNat + 16777216 * b3.toNat

/-- A word's bytes, the least significant first (R8). -/
def bytesOfWord (w : Nat) : List Byte :=
  [BitVec.ofNat 8 w, BitVec.ofNat 8 (w / 256), BitVec.ofNat 8 (w / 65536), BitVec.ofNat 8 (w / 16777216)]

/-- The decoder over bytes as they lie in memory: the instruction and the bytes after it. Too few bytes are no
instruction: reason 1, as for an unassigned word. -/
def decodeBytes : List Byte → Except Nat (Instr × List Byte)
  | b0 :: b1 :: b2 :: b3 :: rest =>
    let w := wordOfBytes b0 b1 b2 b3
    if wordCount w = 1 then (decode w 0).map (·, rest)
    else match rest with
      | c0 :: c1 :: c2 :: c3 :: rest => (decode w (wordOfBytes c0 c1 c2 c3)).map (·, rest)
      | _ => .error 1
  | _ => .error 1

/-- The host's question: the instruction whose bits, numbered as the opcode table numbers them, are `w`. -/
def decodeTableWord (_nbits w : Nat) : Option Instr :=
  match decodeBytes (bytesOfWord (w % 4294967296) ++ bytesOfWord (w / 4294967296 % 4294967296)) with
  | .ok (i, _) => some i
  | .error _ => none

/-! ### The encoder -/

def bit (b : Bool) : Nat := if b then 1 else 0

/-- R77. -/
def enc00 (op ty d a b r : Nat) : List Nat := [op * 33554432 + ty * 4194304 + d * 32768 + a * 256 + b * 2 + r]

/-- R83. -/
def enc01 (op d a imm : Nat) : List Nat := [1073741824 + op * 33554432 + d * 262144 + a * 2048 + imm]

/-- R87. -/
def enc10 (op d a w sz sc x : Nat) : List Nat :=
  [2147483648 + op * 33554432 + d * 262144 + a * 2048 + w * 512 + sz * 128 + sc * 16 + x]

/-- R93. -/
def enc11 (op d a b f e : Nat) : List Nat :=
  [3221225472 + op * 16777216 + d * 131072 + a * 1024 + b * 8 + f, e]

def Alu3.enc (o : Alu3) (op : Nat) : List Nat := enc00 op o.ty.toNat o.d.toNat o.a.toNat o.b.toNat (bit o.r)
def Alu2.enc (o : Alu2) (fn : Nat) : List Nat := enc00 19 o.ty.toNat o.d.toNat o.a.toNat fn (bit o.r)
def SelOps.enc (o : SelOps) (op : Nat) : List Nat := enc00 op o.p.val o.d.toNat o.a.toNat o.b.toNat (bit o.r)
def ImmOps.enc (o : ImmOps) (op : Nat) : List Nat := enc01 op o.d.toNat o.a.toNat o.imm.toNat
def ShImmOps.enc (o : ShImmOps) (op : Nat) : List Nat := enc01 op o.d.toNat o.a.toNat o.amt.toNat
def enc18 (op d : Nat) (v : BitVec 18) : List Nat := enc01 op d (v.toNat / 2048) (v.toNat % 2048)
def MemOps.enc (o : MemOps) (op : Nat) : List Nat :=
  enc10 op o.d.toNat o.a.toNat o.w.toNat o.sz.toNat o.sc.toNat o.x.toNat
/-- w and sz of an atomic (R91), as one number {w, sz}. -/
def wideW (b : Bool) : Nat := if b then 1 else 0
def wideSz (b : Bool) : Nat := if b then 3 else 2
def AtomOps.enc (o : AtomOps) (op : Nat) : List Nat :=
  enc10 op o.d.toNat o.a.toNat (wideW o.wide) (wideSz o.wide) o.sc.toNat o.op.toNat
def RemOps.enc (o : RemOps) (op : Nat) : List Nat :=
  enc11 op o.d.toNat o.a.toNat o.b.toNat 0 (o.w.toNat * 134217728 + o.sz.toNat * 33554432 + o.sc.toNat * 16)
def CasOps.enc (o : CasOps) (op : Nat) : List Nat :=
  enc11 op o.d.toNat o.a.toNat 127 o.sc.toNat (wideSz o.wide * 33554432)
def AccOps.enc (o : AccOps) (op : Nat) : List Nat := enc11 op (o.tile.val * 8) o.a.toNat o.b.toNat 0 0
def BfOps.enc (o : BfOps) (op : Nat) : List Nat :=
  enc11 op o.d.toNat o.a.toNat 127 0 (o.rm.toNat * 512 + bit o.two * 256 + o.fmt.toNat)
def WaitcOps.toNat (o : WaitcOps) : Nat :=
  o.rm.toNat * 2097152 + o.es.toNat * 262144 + o.co.toNat * 32768 + o.ga.toNat * 4096 + o.mx.toNat * 512 +
    o.cp.toNat * 64 + o.st.toNat * 8 + o.ld.toNat

/-- The words of an instruction; an event has none. -/
def encode : Instr → List Nat
  | .add o => o.enc 0 | .sub o => o.enc 1 | .mul o => o.enc 2 | .mulh o => o.enc 3 | .fma o => o.enc 4
  | .min o => o.enc 5 | .max o => o.enc 6 | .and o => o.enc 7 | .or o => o.enc 8 | .xor o => o.enc 9
  | .andn o => o.enc 10 | .shl o => o.enc 11 | .shr o => o.enc 12 | .rot o => o.enc 13
  | .cmp o => enc00 14 o.ty.toNat (o.p.val * 16 + o.c.toNat) o.a.toNat o.b.toNat (bit o.r)
  | .sel o => o.enc 15
  | .cvt o => enc00 16 (o.dt.toNat / 2) o.d.toNat o.a.toNat (o.st.toNat * 8 + o.rm.toNat) (o.dt.toNat % 2)
  | .div o => o.enc 17 | .rem o => o.enc 18
  | .abs o => o.enc 0 | .neg o => o.enc 1 | .not o => o.enc 2 | .popc o => o.enc 3 | .clz o => o.enc 4
  | .brev o => o.enc 5 | .sqrt o => o.enc 6 | .rcp o => o.enc 7 | .rsq o => o.enc 8 | .ex2 o => o.enc 9
  | .lg2 o => o.enc 10 | .sin o => o.enc 11 | .cos o => o.enc 12 | .tanh o => o.enc 13 | .rndiRn o => o.enc 14
  | .rndiRz o => o.enc 15 | .rndiRd o => o.enc 16 | .rndiRu o => o.enc 17 | .fclass o => o.enc 18
  | .bfe o => o.enc 20 | .bfi o => o.enc 21
  | .lea o => enc00 22 o.sh.val o.d.toNat o.a.toNat o.b.toNat (bit o.r)
  | .mov o => enc00 23 o.w.toNat o.d.toNat o.a.toNat 127 (bit o.r)
  | .shfl o => enc00 24 o.m.toNat o.d.toNat o.a.toNat o.b.toNat (bit o.r)
  | .reduce o => enc00 25 o.ty.toNat o.d.toNat o.a.toNat o.op.toNat (bit o.r)
  | .scan o => enc00 26 o.ty.toNat o.d.toNat o.a.toNat (o.op.toNat + 8 * bit o.excl) (bit o.r)
  | .vote o => enc00 27 o.m.toNat o.d.toNat o.p.val 127 0
  | .compress o => o.enc 28 | .expand o => o.enc 29
  | .trn8 o => enc00 30 o.m.toNat o.d.toNat o.a.toNat 127 (bit o.r)
  | .dot4 o => enc00 31 o.m.toNat o.d.toNat o.a.toNat o.b.toNat (bit o.r)
  | .addi o => o.enc 0 | .andi o => o.enc 1 | .ori o => o.enc 2 | .xori o => o.enc 3
  | .shli o => o.enc 4 | .shri o => o.enc 5 | .sari o => o.enc 6
  | .cmpi o => enc01 7 (o.p.val * 16 + o.c.toNat) o.a.toNat o.imm.toNat
  | .movi d v => enc18 8 d.toNat v
  | .bra o => enc18 9 (o.p.val * 16 + o.m.toNat * 4) o.off
  | .call d v => enc18 10 d.toNat v
  | .regang => enc01 11 0 0 0
  | .guard o => enc01 12 (o.p.val * 16 + bit o.neg * 8) 0 o.cnt.toNat
  | .winb base => enc01 13 127 127 base.toNat
  | .exit => enc01 14 127 127 0
  | .trap n => enc01 15 127 127 n.toNat
  | .nop => enc01 16 127 127 0
  | .get d n => enc01 17 d.toNat 127 n.toNat
  | .put a n => enc01 18 127 a.toNat n.toNat
  | .plop o => enc01 19 (o.pd.val * 16) (o.pa.val * 16) (o.pb.val * 256 + o.tt.toNat * 16)
  | .pmov o => enc01 20 o.d.toNat o.a.toNat (o.m.toNat * 512 + o.p.val)
  | .rqxfer o => enc01 21 127 127 (o.src.toNat * 512 + o.dst.toNat * 128 + o.cnt.toNat)
  | .waitc o => enc01 22 (o.toNat / 262144) (o.toNat / 2048 % 128) (o.toNat % 2048)
  | .ret a => enc01 23 127 a.toNat 0
  | .brx a n => enc01 24 127 a.toNat n.toNat
  | .rft => enc01 25 127 127 0
  | .ld o => o.enc 0 | .st o => o.enc 1 | .lds o => o.enc 2 | .sts o => o.enc 3 | .ldp o => o.enc 4 | .stp o => o.enc 5
  | .atom o => o.enc 6 | .red o => o.enc 7 | .atoms o => o.enc 8
  | .pref a => enc10 9 127 a.toNat 0 0 0 0
  | .cctlLine a => enc10 10 127 a.toNat 0 0 0 0
  | .cctlAll => enc10 10 127 127 0 0 0 1
  | .fenceFull sc => enc10 11 127 127 0 0 sc.toNat 0
  | .fenceAcq sc => enc10 11 127 127 0 0 sc.toNat 1
  | .fenceRel sc => enc10 11 127 127 0 0 sc.toNat 2
  | .phasePub sc => enc10 12 127 127 0 0 sc.toNat 0
  | .phaseRef sc => enc10 12 127 127 0 0 sc.toNat 1
  | .phaseBoth sc => enc10 12 127 127 0 0 sc.toNat 2
  | .phasePubDur sc => enc10 12 127 127 0 0 sc.toNat 3
  | .barinit d a => enc10 13 d.toNat a.toNat 1 0 0 0
  | .bararr a => enc10 14 127 a.toNat 0 0 0 0
  | .barexp d a => enc10 15 d.toNat a.toNat 0 0 0 0
  | .barwait d a => enc10 16 d.toNat a.toNat 1 0 0 0
  | .bartest d a => enc10 17 d.toNat a.toNat 1 0 0 0
  | .barbrk a => enc10 18 127 a.toNat 0 0 0 0
  | .armw d a => enc10 19 d.toNat a.toNat 0 0 0 0
  | .cpyp d => enc10 20 d.toNat 127 3 0 0 0
  | .claim o => enc10 21 127 o.a.toNat o.w.toNat o.sz.toNat 0 o.loop.val
  | .wave p l => enc10 22 (p.val * 16) 127 0 0 0 l.val
  | .rloop a free l => enc10 23 127 a.toNat 0 0 (bit free) l.val
  | .rlitem d l => enc10 24 d.toNat 127 0 0 0 l.val
  | .rldone l => enc10 25 127 127 0 0 0 l.val
  | .movl d lit => enc11 0 d.toNat 127 127 0 lit.toNat
  | .lde o => enc11 1 o.d.toNat o.a.toNat o.b.toNat o.sc.toNat
      (o.sp.val * 536870912 + o.w.toNat * 134217728 + o.sz.toNat * 33554432 + o.mask.toNat)
  | .atome o => enc11 2 o.d.toNat o.a.toNat o.b.toNat (o.op.toNat % 8)
      (o.sp.val * 536870912 + wideW o.wide * 134217728 + wideSz o.wide * 33554432 + o.op.toNat / 8 * 16777216 +
        o.mask.toNat)
  | .rld o => o.enc 3 | .rst o => o.enc 4
  | .ratom o => enc11 5 o.d.toNat o.a.toNat o.b.toNat 0
      (wideW o.wide * 134217728 + wideSz o.wide * 33554432 + o.op.toNat * 256 + o.sc.toNat * 16)
  | .rflush b => enc11 6 127 127 b.toNat 0 0
  | .rfencef d a b => enc11 7 d.toNat a.toNat b.toNat 0 0
  | .cas o => o.enc 8 | .cass o => o.enc 9
  | .mma o => enc11 10 (o.tile.val * 8 + bit o.zf * 4) o.a.toNat o.b.toNat (bit o.t * 2 + bit o.r)
      (o.nreg.toNat * 33554432 + o.fmt.toNat * 262144 + bit o.sat * 131072)
  | .accld o => o.enc 11 | .accst o => o.enc 12
  | .accz t => enc11 13 (t.val * 8) 127 127 0 0
  | .bfpack o => o.enc 14 | .bfunpk o => o.enc 15
  | .gath d => enc11 16 d.toNat 127 127 0 0
  | .coll d => enc11 17 d.toNat 127 127 0 0
  | .rshard d => enc11 18 d.toNat 127 127 0 0
  | .sealo d a => enc11 19 d.toNat a.toNat 127 0 0
  | .seala a => enc11 20 127 a.toNat 127 0 0
  | .sealc a b => enc11 21 127 a.toNat b.toNat 0 0
  | .lnch d a q => enc11 22 d.toNat a.toNat 127 0 q.toNat
  | .launchRecord .. | .deviceMemoryWrite .. | .deviceMemoryReadRequest .. | .hostMemoryReadReply .. | .trapReply ..
  | .killRequest .. | .completionCredit .. | .lockInterface _ | .getDeviceInterfaceReport _ | .startInterface _
  | .stopInterface _ | .functionLevelReset _ | .spdmKeyExchange .. | .qcfgWrite .. | .partitionDescriptorWrite _
  | .routeTableLoad .. | .mgmtRegisterWrite .. | .teamPlacement .. | .groupEnd .. | .teamEnd _ | .teamRetire _
  | .escfaultTaken | .remoteTrapTaken | .sliceEnd _ | .throttleReport .. | .contextSwitch _ | .rollback _ | .teamSave _
  | .parktoExpiry _ | .publishComplete .. | .quietReport .. | .quietReportSend .. | .barwaitWake .. | .loadComplete ..
  | .escortLanding .. | .copyEntryTake _ | .copyEntryComplete _ | .reflectiveStoreLanding .. | .mxOperationComplete _
  | .remoteRequestReceipt _ | .remoteReply _ | .remoteResendTimeout _ | .fabricForward _ | .rfencefFlagWrite _
  | .linkFailure _ | .linkRetrain _ | .collExecute _ | .collComplete .. | .gathComplete .. | .rshardStart _
  | .rshardChunkComplete .. | .rshardStop _ | .sealaAbsorb .. | .sealcRecord .. | .lnchComplete ..
  | .sramEccError .. | .cacheEccError .. | .dramEccError .. | .verticalBusParityFail .. | .nocCrcFail .. | .cxlPoison _
  | .coreLoss _ | .plannedCoreRetirement _ | .plannedChannelRetirement .. | .channelLoss .. | .dieFailure _
  | .verticalLaneRecalibration .. | .imageWrite .. | .imageActivation .. | .thermalLimit .. | .powerOn
  | .timeSliceStart _ => []

/-- The rows of the table that are instructions are those with words; the others are events of the part. -/
def Instr.isEvent (i : Instr) : Bool := (encode i).isEmpty

end Sys2Proof
end

