-- ==== Sys2Proof/Machine/State.lean ====
section
/-!
DEFINITION. The machine's state: one device, seen whole, as plain data. Every piece names the rule of spec/ that gives it.
Pieces that are the model's own (the schedule, the free-value counter, names for operations) say so. `State.reset` is the
device after power-on: no function configured, nothing launched (R157, R170, R248, R251, R286, R294).
-/
namespace Sys2Proof.Machine

/-- A sparse table of words: pairs of a key and a value, keys strictly rising, no value 0. An unlisted key holds 0. -/
abbrev Store (w : Nat) := List (Nat × BitVec w)

/-- The classes of outstanding operations (R71). -/
inductive OpClass where
  | ld | st | cp | mx | ga | co | es | rm
  deriving DecidableEq, Repr

/-- One lane's access to global memory: `addr` is a physical address; `inv` where its page is INV, so that the lane reads as
LD.INV (R62, R134). -/
structure LaneAcc where
  lane : Nat
  addr : Nat
  inv : Bool
  deriving DecidableEq, Repr

/-- One entry of the Phase Buffer (R129): a store of bytes at a physical address; a private store of one lane (R60), seen
by that lane only; a pending reduction (R422), with the group that issued it (0xFFFF when groups combined, R214) and whether it
is of GROUP or TEAM scope. -/
inductive PbItem where
  | st (addr : Nat) (data : List Byte)
  | prv (lane addr : Nat) (data : List Byte)
  | red (addr : Nat) (wide : Bool) (op : AtomOp) (val : DWord) (group : Nat) (team : Bool)
  deriving DecidableEq, Repr

/-- A remote store that has not left (R252): peer, offset of each lane, the slices of the instruction (R254), the RST's group, and its
operation's name, which is its place in the order of issue (R188). -/
structure RstItem where
  peer : Nat
  lanes : List MsgLane
  group : Nat
  slices : Nat
  len : Nat
  op : Nat
  deriving DecidableEq, Repr

/-- What a load does when it completes (R386): the destination registers by name (`vName`, R49), how
wide its elements and its transfer are, the lanes that are still to be read, the lanes whose bytes were settled at issue
(own unpublished writes, the snapshot, the scratchpad), the version of memory at issue, the last version that it may read once a
later effect of its group has been seen elsewhere (R148), and whether a lane settled at issue met a poisoned line (R299). -/
structure LoadOp where
  dst : List Nat
  lanes : List LaneAcc
  vals : List (Nat × List Byte)
  elem : Nat
  nb : Nat
  sx : Bool
  sem : Sem
  ver : Nat
  hi : Option Nat
  mchk : Bool
  deriving DecidableEq, Repr

/-- A value for each lane that has landed or is about to land (returning atomics, R321, R345); `scr` are the lanes' places in the
scratchpad, for ATOMS and CASS (R323). -/
structure LandOp where
  dst : List Nat
  vals : List (Nat × List Byte)
  boundary : Bool
  scope : Scope
  scr : List (Nat × Nat)
  deriving DecidableEq, Repr

/-- The four Matrix Array operations; MMA with its Z, T and sat fields, the address of B and the format block. -/
inductive MxWhat where
  | mma (zf t sat : Bool) (b fb : Nat)
  | accld | accst | accz
  deriving DecidableEq, Repr

/-- A Matrix Array operation (R223, R227) with its operands as it read them at issue: the active lanes with their row
addresses and A runs, and the scratchpad bytes of the ranges in `reads`. It takes effect when the array completes it, in issue
order (R224). -/
structure MxOp where
  what : MxWhat
  tile : Nat
  wide : Bool
  nmax : Nat
  n : Nat
  rows : List (Nat × Nat × Nat)
  src : Store 8
  reads : List (Nat × Nat)
  core : Nat
  order : Nat
  deriving DecidableEq, Repr

/-- The payload of an outstanding operation. -/
inductive OpKind where
  | load (o : LoadOp)
  | land (o : LandOp)
  | refl (addr : Nat) (data : List (Nat × List Byte)) (left : List Nat)
  | copy (seq : Nat)
  | seala (handle : Nat) (glob : Bool) (addr len ver : Nat) (data : List Byte)
  | sealc (handle addr : Nat)
  | mx (o : MxOp)
  | gath (cmd : Nat)
  | coll (cmd : Nat)
  | rshard (cmd : Nat)
  | esc (handle : Nat)
  | remote (o : LoadOp) (reqs : List Nat) (atom : Option Scope)
  | stored
  deriving DecidableEq, Repr

/-- An outstanding operation of a group (R71): a name, its class, the phase it was issued in (R141), whether it has
finished (it retires once every older one of its class has), and what it is to do. -/
structure Op where
  id : Nat
  cls : OpClass
  phase : Nat
  fin : Bool
  kind : OpKind
  deriving DecidableEq, Repr

/-- A fault of an escorted request (R187, R188). -/
structure EscFault where
  cause : Nat
  lanes : BitVec 32
  addr : Nat
  deriving DecidableEq, Repr

/-- An escorted request (R182 to R191): in flight until it lands; a retained record once it has faulted. `lanes` are lane and
virtual address, `carried` register name, lane and value; `vals` are the lanes settled at departure and `pas` those still to be
read; `hi` and `mchk` are as for a load; `bad` is what the checks in flight found. -/
structure Escort where
  handle : Nat
  op : Nat
  phase : Nat
  lanes : List (Nat × Nat)
  operand : List (Nat × DWord)
  carried : List (Nat × Nat × Word)
  regs : List Nat
  dst : List Nat
  slices : Nat
  elem : Nat
  nb : Nat
  sem : Sem
  atom : Option (Bool × AtomOp)
  wbase : Nat
  cost : Nat
  words : Nat × Nat
  pas : List LaneAcc
  vals : List (Nat × List Byte)
  ver : Nat
  hi : Option Nat
  mchk : Bool
  bad : Option EscFault
  faulted : Bool
  deriving DecidableEq, Repr

/-- A pending trap of a group (R188, R254); a REMOTE one with the phase of its request. `ord` is the place of its request in the
order of issue, in which a group's pending traps are kept. -/
inductive Pending where
  | esc (ord handle slices : Nat)
  | remote (ord phase cause peer addr slices : Nat) (lanes : BitVec 32)
  deriving DecidableEq, Repr

/-- The trap registers (R54): TRAPCODE, TRAPPC, TRAPADDR:TRAPADDRH, TRAPLANES, TRAPAUX0 to 2. -/
structure TrapRegs where
  code : Nat
  pc : VAddr
  addr : VAddr
  lanes : Word
  aux0 : Word
  aux1 : Word
  aux2 : Word
  deriving DecidableEq, Repr

/-- A running trap handler (R165, R167, R170): the lowest slice of the fragment in it, the instruction and the window it stood at (where a rollback
resumes, R172), the save area (s23 to s30, p6, p7), the suspended guard window (R429), the event's TOKEN while it is parked for the host, whether
the host answered RETRY, the retained request of an ESCFAULT, and the firmware instructions it still runs. -/
structure Handler where
  slice : Nat
  back : VAddr
  backGuard : Option (LaneMask × Nat)
  saved : List Word
  savedP : List LaneMask
  guard : Option (LaneMask × Nat)
  token : Option Word
  retry : Bool
  esc : Option Nat
  todo : List Instr
  deriving DecidableEq, Repr

/-- What a fragment waits on outside its own interlocks. -/
inductive FragWait where
  | run
  | regang                                   -- parked at a REGANG (R26)
  /-- In BARWAIT (R153): barrier, target, status register, lanes, and the status once an update has met the target or broken the
  barrier (R329). -/
  | bar (addr target : Nat) (dst : Option Nat) (lanes : LaneMask) (met : Option Nat)
  | pub                                      -- waits for its publish to complete (R136)
  | lnch (addr queue : Nat) (d : Reg)        -- LNCH waits for the front end (R394)
  | host                                     -- handler parked on the handler barrier (R170)
  deriving DecidableEq, Repr

/-- One entry of the Split Table (R19): pc, slice mask, age stamp; guard mask and remaining count (R29, R31); starvation
count (R163); `stage`: how far its instruction has come, where one acts in stages (its own publish before an atomic, R138;
one issue for each peer, R253). -/
structure Frag where
  pc : VAddr
  slices : BitVec 8
  age : Nat
  guard : Option (LaneMask × Nat)
  wait : FragWait
  starve : Nat
  stage : Nat
  replay : Bool := false
  deriving DecidableEq, Repr

/-- An item slot of the Claim Table (R234, R238, R241): PENDING or ADMITTED, the item, its claimed granules in the order of their posting
and each once (the claim count is their number, the exact slots hold the first two, and the signature is theirs), and the deferral
count. A slot in state NONE is absent. -/
structure Slot where
  lane : Nat
  admitted : Bool
  item : Nat
  claims : List Nat
  defer : Nat
  deriving DecidableEq, Repr

/-- A loop instance (R233): id, mode, item count, counter. A FREE instance stands in the team, under the id and epoch that the
groups taking part in it name. -/
structure LoopInst where
  id : Nat
  free : Bool
  n : Nat
  ctr : Nat
  epoch : Nat
  deriving DecidableEq, Repr

/-- The reuse latch (R51): register by name, 0 for z, width, and the values read, by lane. -/
structure Latch where
  reg : Nat
  width : Nat
  vals : List (Nat × Word)
  deriving DecidableEq, Repr

/-- A group (R19, R45 to R54, R71, R164, R234). Registers stand in `v` under 32 × number + lane; `winNext` is the base that the next clock
brings, where fragments of the group still issue on the clock of a WINB (R461). -/
structure Group where
  role : Role
  win : Nat
  alloc : Nat
  v : Store 32
  s : Store 32
  p : Store 32
  live : LaneMask
  frags : List Frag
  tilew : Nat
  cflags : BitVec 2
  rng : Store 32
  latch : Option Latch
  sb : List Nat
  ops : List Op
  escs : List Escort
  escu : Nat
  pend : List Pending
  trap : TrapRegs
  handler : Option Handler
  slots : List Slot
  loop : Option LoopInst
  epochs : List (Nat × Nat)
  xferDone : Bool
  ended : Bool
  winNext : Option Nat := none
  deriving DecidableEq, Repr

/-- A barrier object of the registry (R150, R156): address and stage flag. Its 16 bytes stand in the scratchpad. -/
structure BarReg where
  addr : Nat
  stage : Bool
  deriving DecidableEq, Repr

/-- A sealing context (R290, R291); `closing` once a SEALC of it is under way. -/
structure SealCtx where
  alg : Nat
  slot : Nat
  seq : Option Nat
  bytes : List Byte
  failed : Bool
  closing : Bool
  deriving DecidableEq, Repr

/-- The quota word (R15). -/
structure Quota where
  src : Role
  dst : Role
  cnt : Nat
  count : Nat
  deriving DecidableEq, Repr

/-- What the team holds that its checkpoint covers (R138, R173): groups, budgets and quota word, scratchpad, tiles, loops,
seal contexts. -/
structure TeamData where
  groups : List Group
  budgets : List Nat
  quota : Option Quota
  scr : Store 8
  tiles : List (Nat × Store 64)
  loops : List LoopInst
  seals : List (Nat × SealCtx)
  deriving DecidableEq, Repr, Inhabited

/-- An item of the Undo Log's first-write records (R140). -/
inductive UndoKey where
  | vreg (group reg : Nat)
  | sreg (group reg : Nat)
  | line (line : Nat)
  | seg (tile row seg : Nat)
  | pred (group p : Nat)
  deriving DecidableEq, Repr

/-- A publish in progress (R136): the phase whose lines it publishes, its scope, whether the checkpoint is to reach two
dies (PUB.DUR), whether a refresh follows (BOTH), the fragment that waits, and a flag write that follows it (RFENCEF). -/
structure Pub where
  phase : Nat
  scope : Scope
  dur : Bool
  refresh : Bool
  waiter : Option (Nat × Nat)
  deriving DecidableEq, Repr

/-- A line or part of it that the drain owns, with the phase it was written in (R136). -/
structure DrainItem where
  phase : Nat
  item : PbItem
  deriving DecidableEq, Repr

/-- Messages of one peer and tag that the team has sent, had failed, and seen reported (R145). -/
structure Quiet where
  peer : Nat
  tag : Bool
  sent : Nat
  failed : Nat
  seen : Nat
  deriving DecidableEq, Repr

/-- Where a team that is ending stands (R370). -/
inductive Ending where
  | no | publishing | ended | killed
  deriving DecidableEq, Repr

/-- A team (R36, R159, R128 to R156, R173). `live` is what it holds now, `ckpt` its latest checkpoint (R138), `dur` its latest durable one (R6);
`rb` while a rollback is asked for, `leave` while it is to leave its core (R173); `torn` are scratchpad bytes that the team wrote under ring entries
that the Copy Engine has yet to take (R141). It was taken at the end of the phase before `durPhase`, and `durDies` hold it (R6, R303); `avoid` is
the physical core that the team has lost its state on and is not to restart on (R6); `rstOut` are the remote stores that a publish has handed over
and that have not left, with their phase (R136); `ntLines` the lines that an ST.NT has written, with the phase (R133); `durChans` the DRAM channels,
16 × die + channel, on which the copies of the durable checkpoint stand (R303); `area` where the context save area holds the checkpoint of a team
that has left its core, and its bytes (R173); `lost` that the checkpoint is lost, so that a durable launch restarts the team (R171). -/
structure Team where
  id : Nat
  launch : Nat
  idx : Nat
  core : Nat
  stamp : Nat
  saved : Bool
  ready : Bool
  gen : Nat
  phasen : Nat
  live : TeamData
  ckpt : TeamData
  dur : TeamData
  durPhase : Nat
  pb : List PbItem
  rsts : List RstItem
  drain : List DrainItem
  pub : Option Pub
  sent : List Quiet
  snap : Store 9
  snapMark : Nat
  undo : List UndoKey
  undoAfter : Bool
  bars : List BarReg
  binds : List (Nat × Nat)
  sealKept : List (Nat × Nat × List Byte)
  torn : List Nat
  rb : Bool
  leave : Bool
  ending : Ending
  durDies : List Nat := [0, 1]
  avoid : Option Nat := none
  rstOut : List (Nat × RstItem) := []
  ntLines : List (Nat × Nat) := []
  durChans : List Nat := []
  area : Option (Nat × List Byte) := none
  lost : Bool := false
  deriving DecidableEq, Repr

/-- The metadata record of a kernel (R124), as the dispatcher read it. -/
structure Meta where
  dur : Bool
  coop : Bool
  entry : VAddr
  n : List Nat
  tset : Nat
  regs : List Nat
  und : Nat
  acc : Nat
  scr : Nat
  reg : Nat
  dim : List Nat
  escq : Nat
  cpring : Nat
  slots : Nat
  bars : List (Nat × Nat × Nat)
  mirOff : Nat
  mirSize : Nat
  seed : Word
  tiles : List (Nat × Bool × Nat)
  deriving DecidableEq, Repr

/-- Where a launch stands. -/
inductive LStatus where
  | accepted | placing | parked | failed (code : Nat) | done
  deriving DecidableEq, Repr

/-- An accepted launch (R2, R32, R40 to R43): its entry in the Launch Journal. `placed` is how many teams have been placed, `retired` the next index
to retire, `ended` the finished teams that wait for their index, `fpev` the thirty counters (R54), `hit` whether a unit of its footprint has failed
since its latest durable checkpoint (R303), `copies` the dies whose Launch Journal holds the record (R2) and `copyChans` their DRAM channels as 16 ×
die + channel (R302), `prio` its queue's PRIO as it stood when the launch was first placed (R157). -/
structure Launch where
  id : Nat
  vf : Nat
  q : Nat
  seq : Nat
  meta_ : Nat
  grid : Nat × Nat × Nat
  flags : Nat
  args : Nat
  arglen : Nat
  tag : Word
  parkto : Nat
  recOk : Bool
  acc : Nat
  fpthr : Nat
  posted : List Nat
  md : Option Meta
  status : LStatus
  placed : Nat
  retired : Nat
  ended : List Nat
  count : Nat
  fteam : Word
  fcode : Nat
  fpev : Store 32
  ver0 : Nat
  hit : Bool
  instances : List (Nat × Nat)
  copies : List Nat := [0, 1]
  prio : Nat := 0
  copyChans : List Nat := []
  deriving DecidableEq, Repr

/-- The content of an interface report (R283): VFID and PARTID; the frozen registers of R282 (queues with their EN, PRIO and FPTHR, the
fabric registers, the descriptors of the partition, its ancestors and TS siblings, DGTBASE, SEALOUT, the KSBIND entries); logical and
physical cores; memory ranges; bound slots with TYPE and public key; measurements. The spec gives it no layout. -/
structure Report where
  vf : Nat
  part : Nat
  queues : List (Nat × Bool × Nat × Nat)
  xw : Nat × Nat × Word
  descs : List (List Byte)
  dgtbase : Nat
  sealout : DWord
  binds : List (Nat × Nat)
  cores : List (Nat × Nat)
  ranges : List (Nat × Nat)
  slots : List (Nat × Nat × List Byte)
  images : List (Nat × List Byte)
  deriving DecidableEq, Repr

/-- A message that a function sends to its host (R278). -/
inductive HostMsg where
  | ack (q seq : Nat)
  | record (bytes : List Byte)
  | memWrite (addr : Nat) (data : List Byte)
  | readReq (addr len : Nat)
  | readReply (data : List Byte)
  | readError (code : Nat)
  | report (r : Report) (signature : List Byte)
  | refused
  deriving DecidableEq, Repr

/-- The states of the interface (R281). -/
inductive IfState where
  | unlocked | locked | run | error
  deriving DecidableEq, Repr

/-- A launch queue (R157, R214, R3). -/
structure Queue where
  q : Nat
  en : Bool
  prio : Nat
  fpthr : Nat
  seq : Option Nat
  deriving DecidableEq, Repr

/-- A virtual function (R278 to R288, R251, R157, R214, R137, R60, R61); `report` is the interface report since its lock (R283);
`chanKey` names the key of the bounce channel, the last of `keyings` derivations, `waiting` are the messages that a channel in ERROR holds, and
`wire` the channel records that have left (R287, R288). -/
structure Func where
  vf : Nat
  part : Nat
  ifst : IfState
  session : Bool
  chanErr : Bool
  rxCtr : Nat
  txCtr : Nat
  root : Nat
  privBase : Nat
  privStride : Nat
  privLimit : Nat
  xwbase : Nat
  xwsize : Nat
  xwkey : Word
  policy : Nat
  token : Word
  credits : Nat
  held : List (List Byte)
  out : List HostMsg
  queues : List Queue
  report : Option Report
  chanKey : Option Nat := none
  keyings : Nat := 0
  waiting : List HostMsg := []
  wire : List (List Byte) := []
  deriving DecidableEq, Repr

/-- Where a time-shared partition stands in its turn (R175): outside its slice, in it, or past its end with teams still to roll
back. One that is not time-shared is always in its slice. -/
inductive SliceState where
  | off | on | leaving
  deriving DecidableEq, Repr

/-- A partition (R173 to R178, R258, R285, R294): its descriptor, DGTBASE, SEALOUT, the SEALOUT producer count, the throttle step, where
its time slice stands, the memory controllers whose queues were at least half full at their last report (`busy`), the bandwidth that its guarantee
is short of, its context-save key slot, and the ranges of its save area that hold checkpoints. -/
structure Part where
  id : Nat
  parent : Nat
  level : Nat
  rank : Nat
  ts : Bool
  prot : Bool
  tenant : Bool
  cores : BitVec 192
  bwmin : Nat
  tperiod : Nat
  tbudget : Nat
  poolsh : Nat
  csave : Nat
  dgtbase : Nat
  sealout : DWord
  sealCount : Nat
  step : Nat
  slice : SliceState
  busy : List Nat := []
  short : Nat := 0
  ctxKey : Option Nat := none
  saves : List (Nat × Nat) := []
  deriving DecidableEq, Repr

/-- A logical core: CLK (R54), the free bytes of its Escort Landing Buffer (R182), its placement counter (R159), the team
the Copy Engine served last (R67), the order of its Matrix Array (R224), the lines it keeps for LD.INV and NT (R348), its
physical core and whether it works (R302), and the landings it is to drop with the escort bytes they hold (R184, R191). -/
structure Core where
  id : Nat
  clk : Nat
  elb : Nat
  placed : Nat
  rot : Nat
  mxNext : Nat
  inv : List Nat
  phys : Nat
  alive : Bool
  late : List (Nat × Nat)
  deriving DecidableEq, Repr

/-- A copy-ring entry that the Copy Engine has taken and not completed (R66, R67); `torn` are the bytes of its scratchpad target
that the team wrote meanwhile (R141); its sources are read between the versions `ver` and `cap`, the latter open until a publish holds that
the engine has finished reading (R136). -/
structure CopyCmd where
  id : Nat
  team : Nat
  gen : Nat
  core : Nat
  phase : Nat
  group : Nat
  op : Nat
  seq : Nat
  src : Nat
  dst : DWord
  len : Nat
  ctl : Word
  rows : Nat
  stride : Nat
  code : Nat
  ver : Nat
  cap : Option Nat
  torn : List Nat
  deriving DecidableEq, Repr

/-- A posted GATH (R379, R380), with the indices read at issue. -/
structure GathCmd where
  id : Nat
  team : Nat
  gen : Nat
  phase : Nat
  group : Nat
  op : Nat
  src : Nat
  idx : List Nat
  count : Nat
  rowb : Nat
  stride : Nat
  dst : Nat
  ctl : Word
  left : List Nat
  credited : Nat
  ver : Nat
  cap : Option Nat
  torn : List Nat
  deriving DecidableEq, Repr

/-- A posted COLL (R259, R354). `inst` is its instance number once the engine has served it, `code` the status found; `landed` once DST
has been written and credited, and the status word is still to come (R355). -/
structure CollCmd where
  id : Nat
  team : Nat
  gen : Nat
  phase : Nat
  group : Nat
  op : Nat
  launch : Nat
  ctl : Word
  count : Nat
  src : Nat
  dst : Nat
  bar : Word
  stat : Nat
  served : Bool
  inst : Nat
  rank : Nat
  members : Nat
  code : Nat
  landed : Bool
  ver : Nat
  cap : Option Nat
  deriving DecidableEq, Repr

/-- A piece of an RSHARD plan (R264): the source device, the box in the tensor, the source box and its device's base,
its chunk count, the prefix done, and the chunks completed above it. -/
structure Piece where
  dev : Nat
  lo : List Nat
  hi : List Nat
  slo : List Nat
  shi : List Nat
  total : Nat
  done : Nat
  ahead : List Nat
  deriving DecidableEq, Repr

/-- A posted RSHARD (R264 to R266); `ver` is the version of memory at its start. -/
structure RseCmd where
  id : Nat
  team : Nat
  gen : Nat
  phase : Nat
  group : Nat
  op : Nat
  src : Nat
  dst : Nat
  prog : Nat
  progPa : Nat
  bar : Word
  ver : Nat
  running : Bool
  elem : Nat
  dlo : List Nat
  dhi : List Nat
  sbase : Nat
  dbase : Nat
  pieces : List Piece
  flight : List (Nat × Nat)
  credited : Nat
  stop : Option (Nat × Nat)
  deriving DecidableEq, Repr

/-- A remote request that this device has sent and that nothing has answered yet (R250, R253, R255), with the operation
it belongs to, its slices (R254) and its resends; `held` while a flag write waits for its publish (R256). -/
structure RemReq where
  id : Nat
  msg : Msg
  team : Nat
  gen : Nat
  group : Nat
  op : Nat
  slices : Nat
  phase : Nat
  resends : Nat
  held : Bool
  deriving DecidableEq, Repr

/-- A RATOM that the replay table holds (R255). -/
structure Replay where
  src : Nat
  seq : Nat
  data : List MsgLane
  ev : List Nat
  deriving DecidableEq, Repr

/-- A count of messages received from a source under a tag (R145), and the requests already counted (R250). -/
structure RxCount where
  src : Nat
  team : Nat
  tag : Bool
  count : Nat
  reqs : List Nat
  deriving DecidableEq, Repr

/-- A key slot (R286, R291): V, TYPE, PART, its seal sequence, and which derivation its key comes from. -/
structure KeySlot where
  slot : Nat
  v : Bool
  type : Nat
  part : Nat
  seq : Nat
  gen : Nat
  deriving DecidableEq, Repr

/-- An entry of an error log (R301). -/
structure LogEntry where
  cyc : Nat
  src : Nat
  kind : Nat
  unit : Nat
  detail : Nat
  deriving DecidableEq, Repr

/-- A die: management clock and log (R301), temperature limit passed (R306), failed (R303), free spare cores (R178). -/
structure Die where
  id : Nat
  clock : Nat
  log : List LogEntry
  count : Nat
  hot : Bool
  failed : Bool
  spares : List Nat
  deriving DecidableEq, Repr

/-- A DRAM channel that no longer stands as at power-on (R300, R302): spare lanes still free; retired; `lost` where it was retired
without warning, so that its lines read as poisoned; otherwise the ranges that hold its lines now. -/
structure Chan where
  die : Nat
  chan : Nat
  spare : Nat
  retired : Bool
  lost : Bool
  ranges : List (Nat × Nat) := []
  deriving DecidableEq, Repr

/-- The images of an engine or core sequencer (R305): the active and the standby version, the anti-rollback counter,
and whether the standby image is verified. -/
structure Image where
  engine : Nat
  active : Nat
  standby : Option Nat
  floor : Nat
  deriving DecidableEq, Repr

/-- Physical ranges that are not bonded DRAM (R136, R144, R185). -/
inductive RegionKind where
  | host | cxl
  deriving DecidableEq, Repr

structure Region where
  base : Nat
  size : Nat
  kind : RegionKind
  deriving DecidableEq, Repr

/-- A value that a write of memory replaced: when, by which team's own store (0: another writer), where, what (R131, R134).
The model's own bookkeeping. -/
structure HistRec where
  ver : Nat
  src : Nat
  addr : Nat
  old : Byte
  deriving DecidableEq, Repr

/-- A deficit event (R178): the partition, whether it is short of a core or of bandwidth, and by how much (cores, or 1/4096 of the
device's bandwidth). -/
structure Deficit where
  part : Nat
  core : Bool
  amount : Nat
  deriving DecidableEq, Repr

/-- A fragment named by its team, group and lowest slice. -/
structure FragRef where
  team : Nat
  group : Nat
  slice : Nat
  deriving DecidableEq, Repr

/-- One device. `poison` lists the poisoned lines, but on a lost channel the lines that have been rewritten since (R299, R302); `deficits` are the
events of R178 that have been posted. `hostWait` are the lines of host memory that an engine's command has asked the host for (R278). -/
structure State where
  devId : Nat
  mem : List Host.Cell
  hist : List HistRec
  ver : Nat
  poison : List Nat
  cache : List (Nat × Bool)
  regions : List Region
  hostWait : List (Nat × Nat)
  parts : List Part
  funcs : List Func
  launches : List Launch
  teams : List Team
  cores : List Core
  copies : List CopyCmd
  gaths : List GathCmd
  colls : List CollCmd
  rses : List RseCmd
  routes : Store 64
  netOut : List (Nat × Nat × Msg)
  netReplies : List (Nat × Nat × Reply)
  ownReplies : List Reply
  rreqs : List RemReq
  ratomSeq : List (Nat × Nat)
  replay : List Replay
  rxCounts : List RxCount
  quietOut : List (Nat × Nat × Bool × Nat)
  keySlots : List KeySlot
  dies : List Die
  chans : List Chan
  images : List Image
  deficits : List Deficit
  plan : List FragRef
  cur : Option FragRef
  agenda : List Instr
  freeCtr : Nat
  uid : Nat
  deriving DecidableEq, Repr

/-- The one reason the machine stops. Raised by an instruction that is executed where no fragment issues (`step` never
does so): safe, because the spec gives an instruction without an issuing fragment no meaning. -/
inductive Fault where
  /-- Raised by the meaning of an instruction when `cur` names no fragment of a team. Safe. -/
  | noIssuer
  deriving DecidableEq, Repr

/-- What the model declines to do. -/
inductive Refusal where
  /-- Raised by the dispatch of an instruction without a meaning, under its mnemonic. Safe. -/
  | notModelled (mnemonic : String)
  deriving DecidableEq, Repr

/-- A core as it stands at power-on (R1, R182): the whole Escort Landing Buffer reserve free, CLK 0 (log 5). -/
def Core.reset (id : Nat) : Core where
  id := id
  clk := 0
  elb := 262144
  placed := 0
  rot := 0
  mxNext := 0
  inv := []
  phys := id / 36 * 40 + id % 36
  alive := true
  late := []

/-- A die as it stands at power-on: 40 physical cores, 36 enabled and 4 spares (R1). -/
def Die.reset (d : Nat) : Die where
  id := d
  clock := 0
  log := []
  count := 0
  hot := false
  failed := false
  spares := [d * 40 + 36, d * 40 + 37, d * 40 + 38, d * 40 + 39]

/-- The device after power-on. The reset values that the spec gives are R157, R170, R214, R248, R251, R286 and R294 (all
0) and R3 (no SEQ accepted); the others are named in the log (1 to 12). -/
def State.reset : State where
  devId := 0
  mem := []
  hist := []
  ver := 0
  poison := []
  cache := []
  regions := []
  hostWait := []
  parts := []
  funcs := []
  launches := []
  teams := []
  cores := (List.range 144).map Core.reset
  copies := []
  gaths := []
  colls := []
  rses := []
  routes := []
  netOut := []
  netReplies := []
  ownReplies := []
  rreqs := []
  ratomSeq := []
  replay := []
  rxCounts := []
  quietOut := []
  keySlots := []
  dies := (List.range 4).map Die.reset
  chans := []
  images := []
  deficits := []
  plan := []
  cur := none
  agenda := []
  freeCtr := 0
  uid := 0

end Sys2Proof.Machine
end

