-- ==== Sys2Proof/Machine/Store.lean ====
section
/-!
DEFINITION. Sparse tables in canonical form, and the byte-order helpers (R8). `look` reads a key, `put` writes one: writing 0
removes the entry, so equal tables are equal lists.
-/
namespace Sys2Proof.Machine

/-- The value under a key; 0 where it is not listed. -/
def look {w : Nat} : Store w → Nat → BitVec w
  | [], _ => 0
  | (a, x) :: r, k => if a = k then x else look r k

/-- An entry put in its place. -/
def ins {w : Nat} (k : Nat) (v : BitVec w) : Store w → Store w
  | [] => [(k, v)]
  | (a, x) :: r => if k < a then (k, v) :: (a, x) :: r else (a, x) :: ins k v r

/-- The table without a key. -/
def without {w : Nat} (k : Nat) : Store w → Store w
  | [] => []
  | (a, x) :: r => if a = k then without k r else (a, x) :: without k r

/-- Writing a key. -/
def put {w : Nat} (m : Store w) (k : Nat) (v : BitVec w) : Store w := if v = 0 then without k m else ins k v (without k m)

/-- Writing several keys, the later over the earlier. -/
def putAll {w : Nat} (m : Store w) (l : List (Nat × BitVec w)) : Store w := l.foldl (fun m c => put m c.1 c.2) m

/-- The canonical form: keys strictly rising, none holding 0. -/
def storeWf {w : Nat} : Store w → Bool
  | [] => true
  | [(_, x)] => x != 0
  | (a, x) :: (b, y) :: r => x != 0 && decide (a < b) && storeWf ((b, y) :: r)

/-- The canonical form of memory (the host's requirement): addresses strictly rising, no entry 0, which is what an unlisted
address reads as (log 1). -/
def Memory.wf (m : List Host.Cell) : Bool := storeWf m

/-! ### Bytes (R8) -/

/-- `n` bytes from an address. -/
def readBytes (m : Store 8) (a n : Nat) : List Byte := (List.range n).map fun i => look m (a + i)

/-- Bytes laid from an address, as writes. -/
def cells (a : Nat) (bs : List Byte) : List (Nat × Byte) := bs.zipIdx.map fun p => (a + p.2, p.1)

def writeBytes (m : Store 8) (a : Nat) (bs : List Byte) : Store 8 := putAll m (cells a bs)

/-- Little-endian value of bytes. -/
def leNat : List Byte → Nat
  | [] => 0
  | b :: bs => b.toNat + 256 * leNat bs

/-- `n` little-endian bytes of a number. -/
def leBytes : Nat → Nat → List Byte
  | 0, _ => []
  | n + 1, x => BitVec.ofNat 8 x :: leBytes n (x / 256)

def readNat (m : Store 8) (a n : Nat) : Nat := leNat (readBytes m a n)

/-! ### Lists of records -/

/-- The first record that satisfies `p`. -/
def findBy {α : Type} (p : α → Bool) (l : List α) : Option α := l.find? p

/-- Changing every record that satisfies `p`. -/
def modBy {α : Type} (p : α → Bool) (f : α → α) (l : List α) : List α := l.map fun x => if p x then f x else x

/-- Changing one entry by its index. -/
def modAt {α : Type} (n : Nat) (f : α → α) (l : List α) : List α := l.modify n f

/-- A map over a list that threads a value. -/
def mapAcc {α β σ : Type} (f : σ → α → β × σ) : σ → List α → List β × σ
  | x, [] => ([], x)
  | x, a :: r =>
    let y := f x a
    let z := mapAcc f y.2 r
    (y.1 :: z.1, z.2)

def insertNat (x : Nat) : List Nat → List Nat
  | [] => [x]
  | y :: r => if x ≤ y then x :: y :: r else y :: insertNat x r

/-- Numbers in ascending order. -/
def sortNat (l : List Nat) : List Nat := l.foldr insertNat []

/-- A set kept as a list without repeats. -/
def addNew {α : Type} [BEq α] (x : α) (l : List α) : List α := if l.contains x then l else l ++ [x]

def addAllNew {α : Type} [BEq α] (xs l : List α) : List α := xs.foldl (fun l x => addNew x l) l

/-- The lanes of a mask, ascending. -/
def lanesOf (m : LaneMask) : List Nat := (List.range 32).filter m.getLsbD

/-- The mask of some lanes. -/
def maskOf (l : List Nat) : LaneMask := l.foldl (fun m i => m ||| (1#32 <<< i)) 0

/-- The lanes of a slice mask: slice i holds lanes 4i to 4i + 3 (R19). -/
def sliceLanes (m : BitVec 8) : LaneMask := maskOf ((List.range 32).filter fun l => m.getLsbD (l / 4))

/-- The slices that hold a lane of a mask, as a mask. -/
def laneSlices (m : LaneMask) : Nat :=
  ((List.range 8).filter fun i => (List.range 4).any fun j => m.getLsbD (4 * i + j)).foldl (fun a i => a + 2 ^ i) 0

/-- A list cut or filled with zeros to `n`. -/
def fit (n : Nat) (l : List Byte) : List Byte := (l ++ List.replicate (n - l.length) 0).take n

end Sys2Proof.Machine
end

