-- ==== Sys2Proof/Config.lean ====
section
/-!
DEFINITION. What the spec leaves open or gives only a bound for (free values: opaque constants without a body, so that no
proof can see what they are), and the constants of the part (R1). A statement about a free value holds for every value.
-/
namespace Sys2Proof

/-! ### Free values -/

/-- A free choice, applied to the counter `State.freeCtr` (log 10): which published value a read returns (R131, R134), what
a byte holds that the spec leaves unspecified (R141, R254, R312, R323). -/
opaque Config.freeChoice : Nat → Nat

/-- The bits a unary function returns for an operand, where they lie within the bound of R206: function code, operand. -/
opaque Config.unaryPick : Nat → Nat → Nat

/-- AES-256-XTS of one 64-byte data unit (R285): key slot, derivation of its key, tweak, encrypt or decrypt, data. The key
never leaves the Root of Trust (R286). -/
opaque Config.xts : Nat → Nat → Nat → Bool → List Byte → List Byte

/-- The signature over a seal record's bytes 0 to 79 (R293): algorithm, slot, derivation, bytes. -/
opaque Config.signature : Nat → Nat → Nat → List Byte → List Byte

/-- The public key of a sealing slot that an interface report lists (R283): slot, derivation. -/
opaque Config.publicKey : Nat → Nat → List Byte

/-- The firmware measurement of an engine's active image (R283): engine, version. -/
opaque Config.measurement : Nat → Nat → List Byte

/-- Which channel holds a line of memory, as 16 × die + channel: the spec gives no interleaving. -/
opaque Config.channelOf : Nat → Fin 64

/-- The number of a line among the 2^26 of its channel, by which a planned retirement moves it (R300, R302): the 64 channels hold 256 GiB
(R1). -/
opaque Config.lineIndex : Nat → Fin 67108864

/-- The CXL port behind which a line of CXL memory lies (R1, R301): the spec gives no interleaving. -/
opaque Config.cxlPort : Nat → Fin 8

/-- Two physical cores of a die are neighbours in its mesh (R37, R267): the spec does not place the cores. -/
opaque Config.meshNeighbour : Nat → Nat → Bool

/-- Which pair of working dies holds a launch record or a durable checkpoint (R2, R6). -/
opaque Config.copyPick : Nat → Nat

/-- Which channel of a die holds such a copy: the number of the pick, the die. -/
opaque Config.copyChan : Nat → Nat → Nat

/-- AES-GCM under a function's channel key (R287): function, key derivation, IV, then the plaintext; or the additional data and the
ciphertext, whose tag it is. -/
opaque Config.gcmText : Nat → Nat → List Byte → List Byte → List Byte
opaque Config.gcmTag : Nat → Nat → List Byte → List Byte → List Byte → List Byte

/-- The content of a host message whose layout the spec does not give (R278): KIND, numbers, data. -/
opaque Config.hostContent : Nat → List Nat → List Byte → List Byte

/-- A signature in the SPDM session (R283): function, the report's numbers, its byte strings. -/
opaque Config.spdmSignature : Nat → List Nat → List (List Byte) → List Byte

/-- The quota word that TRAPAUX0 receives (R17): src, dst, cnt, count. The spec gives it no layout. -/
opaque Config.quotaWord : Nat → Nat → Nat → Nat → Word

/-! ### Constants of the part (R1) -/

def Config.cores : Nat := 144
def Config.dies : Nat := 4
def Config.coresPerDie : Nat := 36
def Config.channels : Nat := 16
def Config.domain : Nat := 9216
def Config.elb : Nat := 262144
def Config.poolUnits : Nat := 256
def Config.unit : Nat := 16384

/-- The bytes of a DRAM channel (R300); four dies of sixteen channels hold the device's 256 GiB. -/
def Config.channelBytes : Nat := 2 ^ 32

/-- The most CXL memory that the device takes: 8 TiB. -/
def Config.cxlBytes : Nat := 2 ^ 43

/-- The 64-byte lines of a die's 64 MiB of memory-side cache. -/
def Config.cacheLines : Nat := 1048576

/-! ### Mathematical constants, rounded down -/

/-- π × 2^360. -/
def Config.pi360 : Nat := 0x3243f6a8885a308d313198a2e03707344a4093822299f31d0082efa98ec4e6c89452821e638d01377be5466cf34

/-- ln 2 × 2^200. -/
def Config.ln2_200 : Nat := 0xb17217f7d1cf79abc9e3b39803f2f6af40f343267298b62d8a

end Sys2Proof
end

