-- ==== Sys2Proof/Machine/Numeric.lean ====
section
/-!
DEFINITION. Number formats and arithmetic (chapter 09). A value is exact (a dyadic number, an infinity or a NaN) until
one of the rounding functions narrows it once, as the Round functions of R102 do. Results come with the events of R212:
0 NaN produced, 1 infinity produced, 2 overflow, 3 underflow, 4 invalid.
-/
namespace Sys2Proof.Machine

/-- A floating-point format (R196): exponent bits, fraction bits, bias, and whether it has infinities (E4M3 has none). -/
structure Fmt where
  eb : Nat
  fb : Nat
  bias : Nat
  inf : Bool
  deriving DecidableEq, Repr

def Fmt.f64 : Fmt := ⟨11, 52, 1023, true⟩
def Fmt.f32 : Fmt := ⟨8, 23, 127, true⟩
def Fmt.f16 : Fmt := ⟨5, 10, 15, true⟩
def Fmt.bf16 : Fmt := ⟨8, 7, 127, true⟩
def Fmt.e4m3 : Fmt := ⟨4, 3, 7, false⟩
def Fmt.e5m2 : Fmt := ⟨5, 2, 15, true⟩

/-- The format number of the FPEV counters (R54). -/
def Fmt.code (f : Fmt) : Nat :=
  if f = .f64 then 0 else if f = .f32 then 1 else if f = .f16 then 2 else if f = .bf16 then 3
  else if f = .e4m3 then 4 else 5

/-- An exact value: (−1)^neg × m × 2^e, an infinity, or a NaN (signalling or not). -/
inductive FVal where
  | nan (sig : Bool)
  | inf (neg : Bool)
  | fin (neg : Bool) (m : Nat) (e : Int)
  deriving DecidableEq, Repr

/-- A result pattern with the events it counts. -/
abbrev FRes := Nat × List Nat

def Fmt.width (f : Fmt) : Nat := 1 + f.eb + f.fb
def Fmt.emin (f : Fmt) : Int := 1 - f.bias

/-- The canonical NaN (R197). -/
def Fmt.nan (f : Fmt) : Nat :=
  if f.inf then (2 ^ f.eb - 1) * 2 ^ f.fb + 2 ^ (f.fb - 1) else 0x7F

/-- The pattern of an infinity. E4M3 has none: there it is the NaN pattern (R203). -/
def Fmt.infBits (f : Fmt) (neg : Bool) : Nat :=
  if f.inf then (if neg then 2 ^ (f.eb + f.fb) else 0) + (2 ^ f.eb - 1) * 2 ^ f.fb else 0x7F

/-- The magnitude pattern of the largest finite value (R196). -/
def Fmt.maxBits (f : Fmt) : Nat := if f.inf then (2 ^ f.eb - 1) * 2 ^ f.fb - 1 else 0x7E

def Fmt.signBit (f : Fmt) (neg : Bool) : Nat := if neg then 2 ^ (f.eb + f.fb) else 0

/-- The exact value of a pattern (R196). -/
def Fmt.val (f : Fmt) (b : Nat) : FVal :=
  let neg := b / 2 ^ (f.eb + f.fb) % 2 = 1
  let ex := b / 2 ^ f.fb % 2 ^ f.eb
  let fr := b % 2 ^ f.fb
  if f.inf && ex = 2 ^ f.eb - 1 then
    if fr = 0 then .inf neg else .nan (fr / 2 ^ (f.fb - 1) = 0)
  else if !f.inf && b % 128 = 127 then .nan false
  else if ex = 0 then .fin neg fr (f.emin - f.fb)
  else .fin neg (2 ^ f.fb + fr) ((ex : Int) - f.bias - f.fb)

/-- `m` scaled by 2^k, rounded to an integer under a mode (R203); `rnd` is the draw of SR (R204). The Bool says inexact. -/
def roundInt (rm : Rm) (rnd : Nat) (neg : Bool) (m : Nat) (k : Int) : Nat × Bool :=
  if 0 ≤ k then (m * 2 ^ k.toNat, false)
  else
    let d := 2 ^ (-k).toNat
    let n := m / d
    let r := m % d
    let up : Bool := match rm with
      | .rn | .rnsat => decide (d < 2 * r) || (2 * r == d && n % 2 == 1)
      | .rz => false
      | .rd => neg && r != 0
      | .ru => !neg && r != 0
      | .rna => decide (d ≤ 2 * r)
      | .sr => decide (65536 * d ≤ 65536 * r + rnd * d)
    (if up then n + 1 else n, r != 0)

/-- The overflow results of R203. -/
def Fmt.overflow (f : Fmt) (rm : Rm) (neg : Bool) : FRes :=
  let inf : FRes := (f.infBits neg, if f.inf then [2, 1] else [2, 0])
  let max : FRes := (f.signBit neg + f.maxBits, [2])
  match rm with
  | .rn | .rna => inf
  | .rz | .sr | .rnsat => max
  | .rd => if neg then inf else max
  | .ru => if neg then max else inf

/-- A finite value m × 2^e with its sign, rounded once to the format (R203, R204), with overflow and underflow (R212). -/
def Fmt.round (f : Fmt) (rm : Rm) (rnd : Nat) (neg : Bool) (m : Nat) (e : Int) : FRes :=
  if m = 0 then (f.signBit neg, [])
  else
    let top : Int := e + Nat.log2 m
    let q : Int := max (top - f.fb) (f.emin - f.fb)
    let (n, inexact) := roundInt rm rnd neg m (e - q)
    let (n, q) := if n = 2 ^ (f.fb + 1) then (2 ^ f.fb, q + 1) else (n, q)
    let bits := if n < 2 ^ f.fb then n else (q + f.fb + f.bias).toNat * 2 ^ f.fb + (n - 2 ^ f.fb)
    if f.maxBits < bits then f.overflow rm neg
    else
      let tiny := decide (top < f.emin) && decide ((roundInt rm rnd neg m (e - (top - f.fb))).1 < 2 ^ (f.fb + 1) ∨
        top + 1 < f.emin)
      (f.signBit neg + bits, if inexact && tiny then [3] else [])

def nanRes (f : Fmt) (ev : List Nat) : FRes := (f.nan, 0 :: ev)
def infRes (f : Fmt) (neg : Bool) : FRes := (f.infBits neg, [1])

/-- Any exact value rounded to a format: NaN is canonical (R197); an infinity is kept, but in E4M3 (R203). -/
def Fmt.ofVal (f : Fmt) (rm : Rm) (rnd : Nat) : FVal → FRes
  | .nan sig => nanRes f (if sig then [4] else [])
  | .inf neg =>
    if rm = .rnsat then (f.signBit neg + f.maxBits, [])
    else if f.inf then infRes f neg else (f.nan, [4, 0])
  | .fin neg m e => f.round rm rnd neg m e

def FVal.isSig : FVal → Bool
  | .nan s => s
  | _ => false

def FVal.isNan : FVal → Bool
  | .nan _ => true
  | _ => false

def sigEv (xs : List FVal) : List Nat := if xs.any FVal.isSig then [4] else []

def FVal.neg : FVal → FVal
  | .nan s => .nan s
  | .inf n => .inf (!n)
  | .fin n m e => .fin (!n) m e

/-- A finite value as an integer multiple of 2^e. -/
def scaled (neg : Bool) (m : Nat) (e e' : Int) : Int :=
  let n : Int := (m * 2 ^ (e - e').toNat : Nat)
  if neg then -n else n

/-- The exact sum; an exact zero is −0 only when both terms are −0 (R198, RN). -/
def exactAdd (n1 : Bool) (m1 : Nat) (e1 : Int) (n2 : Bool) (m2 : Nat) (e2 : Int) : FVal :=
  let e := min e1 e2
  let s := scaled n1 m1 e1 e + scaled n2 m2 e2 e
  if s = 0 then .fin (n1 && n2) 0 e else .fin (decide (s < 0)) s.natAbs e

/-- The exact product, with 0 × ∞ invalid. -/
def FVal.mul : FVal → FVal → FVal
  | .nan s, .nan t => .nan (s || t)
  | .nan s, _ => .nan s
  | _, .nan s => .nan s
  | .inf a, .inf b => .inf (a != b)
  | .inf a, .fin b m _ => if m = 0 then .nan true else .inf (a != b)
  | .fin a m _, .inf b => if m = 0 then .nan true else .inf (a != b)
  | .fin a m e, .fin b n k => .fin (a != b) (m * n) (e + k)

/-- The exact sum, with ∞ − ∞ invalid. A NaN that arises is marked as signalling, so that it counts invalid. -/
def FVal.add : FVal → FVal → FVal
  | .nan s, .nan t => .nan (s || t)
  | .nan s, _ => .nan s
  | _, .nan s => .nan s
  | .inf a, .inf b => if a = b then .inf a else .nan true
  | .inf a, _ => .inf a
  | _, .inf b => .inf b
  | .fin a m e, .fin b n k => exactAdd a m e b n k

/-- ADD, SUB, MUL of the class 00 floats: exact, then rounded RN once (R198, R314, R405, R451). -/
def Fmt.add (f : Fmt) (x y : Nat) : FRes := f.ofVal .rn 0 ((f.val x).add (f.val y))
def Fmt.sub (f : Fmt) (x y : Nat) : FRes := f.ofVal .rn 0 ((f.val x).add (f.val y).neg)
def Fmt.mul (f : Fmt) (x y : Nat) : FRes := f.ofVal .rn 0 ((f.val x).mul (f.val y))

/-- FMA: one rounding; 0 × ∞ is invalid even when the addend is NaN (R378). -/
def Fmt.fma (f : Fmt) (x y z : Nat) : FRes := f.ofVal .rn 0 (((f.val x).mul (f.val y)).add (f.val z))

/-- DIV (R364): a quotient with a sticky last bit, rounded RN once. -/
def FVal.div : FVal → FVal → FVal
  | .nan s, .nan t => .nan (s || t)
  | .nan s, _ => .nan s
  | _, .nan s => .nan s
  | .inf _, .inf _ => .nan true
  | .inf a, .fin b _ _ => .inf (a != b)
  | .fin a _ _, .inf b => .fin (a != b) 0 0
  | .fin a m e, .fin b n k =>
    if n = 0 then (if m = 0 then .nan true else .inf (a != b))
    else
      let sh := 70 + Nat.log2 n
      let q := m * 2 ^ sh / n
      let r := m * 2 ^ sh % n
      .fin (a != b) (2 * q + (if r = 0 then 0 else 1)) (e - k - sh - 1)

def Fmt.div (f : Fmt) (x y : Nat) : FRes := f.ofVal .rn 0 ((f.val x).div (f.val y))

/-- One digit at a time: the integer square root of `n`, from `bits` down. -/
def isqrtFrom (n : Nat) : Nat → Nat → Nat
  | 0, r => r
  | k + 1, r => let c := r + 2 ^ k; isqrtFrom n k (if c * c ≤ n then c else r)

/-- The integer square root. -/
def isqrt (n : Nat) : Nat := isqrtFrom n (Nat.log2 n / 2 + 1) 0

/-- SQRT (R206, R446): correctly rounded. -/
def FVal.sqrt : FVal → FVal
  | .nan s => .nan s
  | .inf true => .nan true
  | .inf false => .inf false
  | .fin neg m e =>
    if m = 0 then .fin neg 0 0
    else if neg then .nan true
    else
      let m2 := m * 2 ^ (128 + (e % 2).toNat)
      let r := isqrt m2
      .fin false (2 * r + (if r * r = m2 then 0 else 1)) ((e - (e % 2) - 128) / 2 - 1)

def Fmt.sqrt (f : Fmt) (x : Nat) : FRes := f.ofVal .rn 0 (f.val x).sqrt
def Fmt.rcp (f : Fmt) (x : Nat) : FRes := f.ofVal .rn 0 ((FVal.fin false 1 0).div (f.val x))

/-- Exact order of two numbers (neither a NaN): negative, zero or positive difference; −0 equals +0. -/
def FVal.diff : FVal → FVal → Int
  | .inf a, .inf b => (if a then (-1 : Int) else 1) - (if b then -1 else 1)
  | .inf a, _ => if a then -1 else 1
  | _, .inf b => if b then 1 else -1
  | .fin a m e, .fin b n k => let q := min e k; scaled a m e q - scaled b n k q
  | _, _ => 0

/-- The conditions of R81 on floats; NE is true and every other order is false when unordered. -/
def fcond (c : Cond) (x y : FVal) : Bool :=
  let un := x.isNan || y.isNan
  let d := x.diff y
  match c with
  | .eq => !un && d == 0
  | .ne => un || d != 0
  | .lt => !un && decide (d < 0)
  | .le => !un && decide (d ≤ 0)
  | .gt => !un && decide (0 < d)
  | .ge => !un && decide (0 ≤ d)
  | .num => !un
  | .nan => un

/-- MIN and MAX (R207): minimumNumber and maximumNumber with −0 < +0; the result is the operand's own bits. -/
def Fmt.minmax (f : Fmt) (mx : Bool) (x y : Nat) : FRes :=
  let a := f.val x
  let b := f.val y
  let ev := sigEv [a, b]
  if a.isNan && b.isNan then nanRes f ev
  else
    let r := if a.isNan then y else if b.isNan then x
      else
        let d := a.diff b
        let xLow := decide (d < 0) || (d == 0 && x / 2 ^ (f.eb + f.fb) % 2 == 1)
        if xLow != mx then x else y
    (r, if f.val r = .inf true ∨ f.val r = .inf false then 1 :: ev else ev)

/-- RNDI (R407): an integral value in the same format; only a signalling NaN counts. -/
def Fmt.rndi (f : Fmt) (rm : Rm) (x : Nat) : FRes :=
  match f.val x with
  | .nan s => (f.nan, if s then [4] else [])
  | .inf _ => (x, [])
  | .fin neg m e =>
    if 0 ≤ e then (x, []) else ((f.round .rn 0 neg (roundInt rm 0 neg m e).1 0).1, [])

/-- FCLASS (R374). -/
def Fmt.classify (f : Fmt) (x : Nat) : Nat :=
  match f.val x with
  | .nan s => if s then 1 else 2
  | .inf n => if n then 4 else 0x200
  | .fin neg m _ =>
    if m = 0 then (if neg then 0x20 else 0x40)
    else if x / 2 ^ f.fb % 2 ^ f.eb = 0 then (if neg then 0x10 else 0x80)
    else if neg then 8 else 0x100

/-! ### Integers (R199) -/

/-- Reading an n-bit pattern as signed. -/
def toSigned (n x : Nat) : Int := if x % 2 ^ n < 2 ^ (n - 1) then ((x % 2 ^ n : Nat) : Int) else ((x % 2 ^ n : Nat) : Int) - 2 ^ n

/-- The n-bit pattern of an integer, wrapping. -/
def wrapTo (n : Nat) (x : Int) : Nat := (x % (2 ^ n : Nat)).toNat

def asInt (signed : Bool) (n x : Nat) : Int := if signed then toSigned n x else (x % 2 ^ n : Nat)

def intMin (signed : Bool) (n : Nat) : Int := if signed then -(2 ^ (n - 1) : Nat) else 0
def intMax (signed : Bool) (n : Nat) : Int := if signed then (2 ^ (n - 1) : Nat) - 1 else (2 ^ n : Nat) - 1
def clampInt (signed : Bool) (n : Nat) (x : Int) : Int := max (intMin signed n) (min x (intMax signed n))

/-- DIV and REM with the cases of R199. -/
def intDiv (signed : Bool) (n x y : Nat) : Nat :=
  let b := asInt signed n y
  if b = 0 then 2 ^ n - 1 else wrapTo n ((asInt signed n x).tdiv b)

def intRem (signed : Bool) (n x y : Nat) : Nat :=
  let b := asInt signed n y
  if b = 0 then x % 2 ^ n else wrapTo n ((asInt signed n x).tmod b)

def intMulh (signed : Bool) (n x y : Nat) : Nat := wrapTo n ((asInt signed n x * asInt signed n y) / (2 ^ n : Nat))

/-! ### Conversions (R82, R205, R361) -/

/-- Width in bits of a CVT type. -/
def numBits : NumTy → Nat
  | .s8 | .n8 | .e4m3 | .e5m2 => 8
  | .s16 | .n16 | .f16 | .bf16 => 16
  | .s32 | .n32 | .f32 => 32
  | .s64 | .n64 | .f64 => 64

def numSigned : NumTy → Bool
  | .s8 | .s16 | .s32 | .s64 => true
  | _ => false

def numFmt : NumTy → Fmt
  | .f64 => .f64
  | .f16 => .f16
  | .bf16 => .bf16
  | .e4m3 => .e4m3
  | .e5m2 => .e5m2
  | _ => .f32

/-- A result of CVT as its register or pair holds it: S8 and S16 are sign-extended (R82). -/
def numStore (t : NumTy) (y : Nat) : Nat :=
  match t with
  | .s8 | .s16 => wrapTo 32 (toSigned (numBits t) y)
  | _ => y % 2 ^ (numBits t)

/-- The result pattern of a conversion with its events, and the format number they count under (R205, R212, R361). -/
def cvt (dt st : NumTy) (rm : Rm) (rnd x : Nat) : Nat × List Nat × Nat :=
  let x := x % 2 ^ (numBits st)
  if st.isInt then
    let n := asInt (numSigned st) (numBits st) x
    if dt.isInt then
      (numStore dt (if rm = .rnsat then wrapTo (numBits dt) (clampInt (numSigned dt) (numBits dt) n) else wrapTo (numBits dt) n), [], 0)
    else
      let r := (numFmt dt).round rm rnd (decide (n < 0)) n.natAbs 0
      (r.1, r.2, (numFmt dt).code)
  else
    let v := (numFmt st).val x
    if dt.isInt then
      match v with
      | .nan _ => (0, [4], (numFmt st).code)
      | .inf neg => (numStore dt (wrapTo (numBits dt) (if neg then intMin (numSigned dt) (numBits dt) else intMax (numSigned dt) (numBits dt))), [4], (numFmt st).code)
      | .fin neg m e =>
        let a := (roundInt rm rnd neg m e).1
        let n : Int := if neg then -(a : Int) else a
        if n < intMin (numSigned dt) (numBits dt) ∨ intMax (numSigned dt) (numBits dt) < n then
          (numStore dt (wrapTo (numBits dt) (clampInt (numSigned dt) (numBits dt) n)), [4], (numFmt st).code)
        else (numStore dt (wrapTo (numBits dt) n), [], (numFmt st).code)
    else
      let r := (numFmt dt).ofVal rm rnd v
      (r.1, r.2, (numFmt dt).code)

/-- One step of a lane's xorshift32 generator (R204). -/
def xorshift (s : Word) : Word :=
  let s := s ^^^ (s <<< 13)
  let s := s ^^^ (s >>> 17)
  s ^^^ (s <<< 5)

/-- The draw of SR: bits 31:16 of the new state (R204). -/
def draw (s : Word) : Nat := s.toNat / 65536

/-! ### Block records (R200 to R202) -/

/-- floor(log2(m × 2^e)). -/
def ilog2 (m : Nat) (e : Int) : Int := e + Nat.log2 m

/-- The scale byte of R202. -/
def blockScale (xs : List FVal) : Nat :=
  if xs.any (fun x => match x with | .fin .. => false | _ => true) then 255
  else
    let tops := xs.filterMap fun x => match x with | .fin _ m e => if m = 0 then none else some (ilog2 m e) | _ => none
    match tops with
    | [] => 0
    | t :: ts => (min (max (ts.foldl max t + 128) 0) 254).toNat

/-- One element's q, as an m-bit pattern (R202). -/
def blockElem (bits scale : Nat) (rm : Rm) (rnd : Nat) : FVal → Nat
  | .fin neg m e =>
    let a := (roundInt rm rnd neg m (e + (bits - 1 : Nat) - ((scale : Int) - 127))).1
    wrapTo bits (clampInt true bits (if neg then -(a : Int) else a))
  | _ => 0

/-- The elements of a record under SR step the generator once each, in order (R202, R204): q's and the new state. With an
E of 0xFF no element is rounded, so no step is drawn. -/
def blockElems (bits scale : Nat) (rm : Rm) : List FVal → Word → List Nat × Word
  | [], s => ([], s)
  | x :: xs, s =>
    let s' := if rm = .sr then xorshift s else s
    let r := blockElems bits scale rm xs s'
    (blockElem bits scale rm (draw s') x :: r.1, r.2)

/-- Fields of `n` bits, the first in the low bits, as one number. -/
def packBits (n : Nat) : List Nat → Nat
  | [] => 0
  | x :: xs => x % 2 ^ n + 2 ^ n * packBits n xs

/-- A record as one number (little-endian by bit, R200), and the generator's new state. -/
def blockPack (f : BlockFmt) (rm : Rm) (xs : List Nat) (s : Word) : Nat × Word :=
  let vs := xs.map Fmt.f32.val
  let e := blockScale vs
  if e = 255 then (255, s)
  else
    let r := blockElems f.bits e rm vs s
    (e + 256 * packBits f.bits r.1, r.2)

/-- The exact value of element `j` of a record. -/
def blockVal (f : BlockFmt) (rec : Nat) (j : Nat) : FVal :=
  let e := rec % 256
  let q := toSigned f.bits (rec / 256 / 2 ^ (j * f.bits))
  if e = 255 then .nan false else .fin (decide (q < 0)) q.natAbs ((e : Int) - 127 - (f.bits - 1 : Nat))

end Sys2Proof.Machine
end

