-- ==== Sys2Proof/Machine/Transcend.lean ====
section
/-!
DEFINITION. The unary functions that R206 gives only within a bound: RSQ, EX2, LG2, SIN, COS and TANH. Each returns the
special values and exact cases of R206, R230, R343, R368 and R407. Elsewhere the value is FREE within the bound: the pattern
`Config.unaryPick` names, when it lies within the bound, and the correctly rounded value when it does not (log 21). The
true value is computed in fixed point with some 2^-90 of relative error.
-/
namespace Sys2Proof.Machine

/-- The six functions, with the codes of R80. -/
inductive Fn where
  | rsq | ex2 | lg2 | sin | cos | tanh
  deriving DecidableEq, Repr

def Fn.code : Fn → Nat
  | .rsq => 8
  | .ex2 => 9
  | .lg2 => 10
  | .sin => 11
  | .cos => 12
  | .tanh => 13

/-- A number x = m × 2^e as an integer multiple of 2^-p, rounded down. -/
def fixed (p : Nat) (neg : Bool) (m : Nat) (e : Int) : Int :=
  let k := e + p
  let n : Int := if 0 ≤ k then (m * 2 ^ k.toNat : Nat) else (m / 2 ^ (-k).toNat : Nat)
  if neg then -n else n

/-- Σ x^i / i! for i below `n`, in multiples of 2^-p, by Horner's rule from the last term. -/
def expSeries (p : Nat) (x : Int) : Nat → Nat → Int
  | 0, _ => 2 ^ p
  | n + 1, i => 2 ^ p + x * expSeries p x n (i + 1) / ((i : Int) * 2 ^ p)

/-- 2^f for 0 ≤ f < 1 in multiples of 2^-p (p at most 190). -/
def exp2Frac (p : Nat) (f : Int) : Int := expSeries p (f * (Config.ln2_200 : Int) / 2 ^ 200) 46 1

/-- Fraction bits of log2(m), for m in [1, 2) as a multiple of 2^-p: square, and take the carry as the next bit. -/
def log2Bits (p : Nat) : Nat → Nat → Nat → Nat
  | 0, _, acc => acc
  | n + 1, m, acc =>
    let s := m * m / 2 ^ p
    if 2 ^ (p + 1) ≤ s then log2Bits p n (s / 2) (2 * acc + 1) else log2Bits p n s (2 * acc)

/-- Alternating series Σ (−1)^i r^(2i) / ((2i+a)…) for sine (a = 1) and cosine (a = 0), in multiples of 2^-p. -/
def trigSeries (p : Nat) (r2 : Int) (a : Nat) : Nat → Nat → Int
  | 0, _ => 2 ^ p
  | n + 1, i => 2 ^ p - r2 * trigSeries p r2 a n (i + 1) / (((2 * i + a - 1) * (2 * i + a) : Nat) * 2 ^ p)

/-- The operand reduced modulo 2π, in multiples of 2^-200. -/
def reduce2pi (neg : Bool) (m : Nat) (e : Int) : Int :=
  let x := fixed 358 neg m e
  (x % (2 * (Config.pi360 : Int) / 4)) / 2 ^ 158

/-- The true value as a dyadic number with a sticky last bit: sign, m, e. The operand is finite and not a special case. -/
def fnApprox (fn : Fn) (neg : Bool) (m : Nat) (e : Int) : Bool × Nat × Int :=
  match fn with
  | .rsq =>
    let odd := (e % 2).toNat
    let r := isqrt (2 ^ 320 / (m * 2 ^ odd))
    (false, 2 * r + 1, -160 - (e - odd) / 2 - 1)
  | .ex2 =>
    let x := fixed 180 neg m e
    let n := x / 2 ^ 180
    (false, 2 * (exp2Frac 180 (x % 2 ^ 180)).natAbs + 1, n - 181)
  | .lg2 =>
    let k := Nat.log2 m
    let f := log2Bits 140 130 (m * 2 ^ 140 / 2 ^ k) 0
    let v : Int := (e + k) * 2 ^ 130 + f
    (decide (v < 0), 2 * v.natAbs + 1, -131)
  | .sin =>
    if e + Nat.log2 m < -40 then (neg, 2 * (m * 2 ^ 60) - 1, e - 61)
    else
      let r := reduce2pi neg m e
      let v := r * trigSeries 200 (r * r / 2 ^ 200) 1 60 1 / 2 ^ 200
      (decide (v < 0), 2 * v.natAbs + 1, -201)
  | .cos =>
    let r := reduce2pi neg m e
    let v := trigSeries 200 (r * r / 2 ^ 200) 0 60 1
    (decide (v < 0), 2 * v.natAbs + 1, -201)
  | .tanh =>
    let top := e + Nat.log2 m
    if top < -40 then (neg, 2 * (m * 2 ^ 60) - 1, e - 61)
    else if 6 ≤ top then (neg, 2 ^ 101 - 1, -101)
    else
      -- t = 2^(2x / ln 2), then (t − 1) / (t + 1)
      let y := 2 * (fixed 180 false m e) * 2 ^ 200 / (Config.ln2_200 : Int)
      let n := (y / 2 ^ 180).toNat
      let t := (exp2Frac 180 (y % 2 ^ 180)).natAbs * 2 ^ n
      (neg, 2 * ((t - 2 ^ 180) * 2 ^ 180 / (t + 2 ^ 180)) + 1, -181)

/-- |a − b| ≤ 2^k for two finite values. -/
def within (a b : FVal) (k : Int) : Bool :=
  match a, b with
  | .fin n1 m1 e1, .fin n2 m2 e2 =>
    let q := min (min e1 e2) k
    decide ((scaled n1 m1 e1 q - scaled n2 m2 e2 q).natAbs ≤ 2 ^ (k - q).toNat)
  | _, _ => false

/-- The exponent of the bound of R206 at a value: two units in the last place of F32, or 2^-21 for SIN and COS. -/
def fnBound (fn : Fn) (m : Nat) (e : Int) : Int :=
  match fn with
  | .sin | .cos => -21
  | _ => max (e + Nat.log2 m - 23) (-149) + 1

/-- The special values and exact cases; `none` where the value is free within the bound. -/
def fnSpecial (fn : Fn) (x : Nat) : Option FVal :=
  match fn, Fmt.f32.val x with
  | _, .nan s => some (.nan s)
  | .rsq, .inf neg => some (if neg then .nan true else .fin false 0 0)
  | .rsq, .fin neg m e =>
    if m = 0 then some (.inf neg)
    else if neg then some (.nan true)
    else
      let k := Nat.log2 m
      if m = 2 ^ k ∧ (e + k) % 2 = 0 then some (.fin false 1 (-((e + k) / 2))) else none
  | .ex2, .inf neg => some (if neg then .fin false 0 0 else .inf false)
  | .ex2, .fin neg m e =>
    if m = 0 then some (.fin false 1 0)
    else if 0 ≤ e ∨ m % 2 ^ (-e).toNat = 0 then
      let a : Int := if 0 ≤ e then (m * 2 ^ (min e 20).toNat : Nat) else (m / 2 ^ (-e).toNat : Nat)
      some (.fin false 1 (max (-400) (min 400 (if neg then -a else a))))
    else if 8 ≤ e + Nat.log2 m then some (.fin false 1 (if neg then -400 else 400))
    else none
  | .lg2, .inf neg => some (if neg then .nan true else .inf false)
  | .lg2, .fin neg m e =>
    if m = 0 then some (.inf true)
    else if neg then some (.nan true)
    else
      let k := Nat.log2 m
      if m = 2 ^ k then some (.fin (decide (e + k < 0)) (e + k).natAbs 0) else none
  | .sin, .inf _ | .cos, .inf _ => some (.nan true)
  | .sin, .fin neg m _ => if m = 0 then some (.fin neg 0 0) else none
  | .cos, .fin _ m _ => if m = 0 then some (.fin false 1 0) else none
  | .tanh, .inf neg => some (.fin neg 1 0)
  | .tanh, .fin neg m _ => if m = 0 then some (.fin neg 0 0) else none

/-- The events that a result pattern of F32 shows, when it is not exact: infinity produced with overflow, underflow. -/
def freeEvents (r : Nat) : List Nat :=
  match Fmt.f32.val r with
  | .inf _ => [2, 1]
  | .nan _ => [0]
  | .fin .. => if r % 2 ^ 31 < 2 ^ 23 then [3] else []

/-- The F32 function of an F32 pattern. -/
def fnF32 (fn : Fn) (x : Nat) : FRes :=
  match fnSpecial fn x with
  | some v => Fmt.f32.ofVal .rn 0 v
  | none =>
    match Fmt.f32.val x with
    | .fin neg m e =>
      let (sn, sm, se) := fnApprox fn neg m e
      let pick := Config.unaryPick fn.code x % 2 ^ 32
      if within (Fmt.f32.val pick) (.fin sn sm se) (fnBound fn sm se) then (pick, freeEvents pick)
      else Fmt.f32.round .rn 0 sn sm se
    | _ => (x, [])

/-- An element of a packed type: the F32 function of its exact value, rounded once to the element format (R206, R368).
The events are those of the element's result; an invalid operand counts invalid. -/
def fnElem (fn : Fn) (f : Fmt) (x : Nat) : FRes :=
  if f = .f32 then fnF32 fn x
  else
    let v := f.val x
    let r := fnF32 fn (Fmt.f32.ofVal .rn 0 v).1
    let inv := (r.2.contains 4) || v.isSig
    match Fmt.f32.val r.1 with
    | .nan _ => (f.nan, if inv then [4, 0] else [0])
    | w =>
      let o := f.ofVal .rn 0 w
      (o.1, if r.2.contains 2 then [2, 1] else if o.2.isEmpty && r.2.contains 3 && o.1 % 2 ^ (f.eb + f.fb) < 2 ^ f.fb then [3] else o.2)

end Sys2Proof.Machine
end

