-- ==== Sys2Proof/Machine/Memory.lean ====
section
/-!
DEFINITION. Device memory: barrier objects (R150, R151), posting of records (R41, R170), the floating-point event counters
(R212, R214), writes that take effect at memory with the arrivals they count (R319), address translation (R61, R62, R64),
and the versions of memory that a read may return (R131, R134).
-/
namespace Sys2Proof.Machine

/-! ### Barrier objects (R150, R151) -/

structure BarObj where
  expa : Nat
  arr : Nat
  expb : Nat
  land : Nat
  gen : Nat
  brk : Bool
  deriving DecidableEq, Repr

/-- The object whose 16 bytes stand at an offset. -/
def barRead (scr : Store 8) (a : Nat) : BarObj :=
  let g := readNat scr (a + 12) 4
  ⟨readNat scr a 2, readNat scr (a + 2) 2, readNat scr (a + 4) 4, readNat scr (a + 8) 4, g % 2 ^ 31, g / 2 ^ 31 % 2 == 1⟩

def barBytes (o : BarObj) : List Byte :=
  leBytes 2 o.expa ++ leBytes 2 o.arr ++ leBytes 4 o.expb ++ leBytes 4 o.land ++
    leBytes 4 (o.gen + (if o.brk then 2 ^ 31 else 0))

/-- How many generations complete at a check (R151): while both counts reach what is expected; one when nothing is. -/
def barTurns (o : BarObj) : Nat :=
  if o.brk then 0
  else if o.expa = 0 then (if o.expb = 0 then 1 else o.land / o.expb)
  else if o.expb = 0 then o.arr / o.expa
  else min (o.arr / o.expa) (o.land / o.expb)

/-- The completion check of R151. -/
def barCheck (o : BarObj) : BarObj :=
  let k := barTurns o
  { o with arr := o.arr - k * o.expa, land := o.land - k * o.expb, gen := (o.gen + k) % 2 ^ 31 }

/-- One arrival: discarded while broken; one past 65,535 breaks (R151). -/
def barArrive (o : BarObj) : BarObj :=
  if o.brk then o else if 65535 < o.arr + 1 then { o with brk := true } else { o with arr := o.arr + 1 }

/-- A credit of bytes (R151). -/
def barCredit (n : Nat) (o : BarObj) : BarObj :=
  if o.brk then o else if 2 ^ 32 - 1 < o.land + n then { o with brk := true } else { o with land := o.land + n }

def barBreak (o : BarObj) : BarObj := { o with brk := true }

/-- A barrier update followed by its check (R329), on the scratchpad bytes. -/
def barStore (scr : Store 8) (a : Nat) (f : BarObj → BarObj) : Store 8 := writeBytes scr a (barBytes (barCheck (f (barRead scr a))))

/-- A generation is complete for target `t` (R153). -/
def barDone (o : BarObj) (t : Nat) : Bool := decide ((o.gen + (2 ^ 31 - t % 2 ^ 31)) % 2 ^ 31 < 2 ^ 30)

def Team.onScr (t : Team) (f : Store 8 → Store 8) : Team := { t with live := { t.live with scr := f t.live.scr } }

/-- A target's status (R153): 0 complete, 1 broken, 3 neither. -/
def barStatus (o : BarObj) (t : Nat) : Nat := if barDone o t then 0 else if o.brk then 1 else 3

/-- A fragment parked in BARWAIT tests its target against an object (R329, R332). -/
def FragWait.retest (a : Nat) (o : BarObj) : FragWait → FragWait
  | .bar b t d l none => .bar b t d l (if b = a ∧ barStatus o t ≠ 3 then some (barStatus o t) else none)
  | w => w

def Group.retest (a : Nat) (o : BarObj) (g : Group) : Group :=
  { g with frags := g.frags.map fun f => { f with wait := f.wait.retest a o } }

/-- Every fragment parked on the object tests its target (R329). -/
def Team.retest (t : Team) (a : Nat) : Team :=
  { t with live := { t.live with groups := t.live.groups.map (Group.retest a (barRead t.live.scr a)) } }

/-- A barrier update in a team: the object, its check, and the fragments parked on it (R329). -/
def Team.bar (t : Team) (a : Nat) (f : BarObj → BarObj) : Team := (t.onScr fun m => barStore m a f).retest a

/-- An update by an engine: registered objects only (R150). -/
def Team.engineBar (t : Team) (a : Nat) (f : BarObj → BarObj) : Team :=
  if t.bars.any (fun b => b.addr == a) then t.bar a f else t

def Team.breakAll (t : Team) : Team := t.bars.foldl (fun t b => t.bar b.addr barBreak) t

/-! ### Finding and changing the parts of the device -/

def State.team? (s : State) (id : Nat) : Option Team := findBy (fun t => t.id == id) s.teams
def State.launch? (s : State) (id : Nat) : Option Launch := findBy (fun l => l.id == id) s.launches
def State.func? (s : State) (vf : Nat) : Option Func := findBy (fun f => f.vf == vf) s.funcs
def State.part? (s : State) (id : Nat) : Option Part := findBy (fun p => p.id == id) s.parts
def State.core? (s : State) (id : Nat) : Option Core := findBy (fun c => c.id == id) s.cores

def State.modTeam (s : State) (id : Nat) (f : Team → Team) : State := { s with teams := modBy (fun t => t.id == id) f s.teams }
def State.modLaunch (s : State) (id : Nat) (f : Launch → Launch) : State :=
  { s with launches := modBy (fun l => l.id == id) f s.launches }
def State.modFunc (s : State) (vf : Nat) (f : Func → Func) : State := { s with funcs := modBy (fun x => x.vf == vf) f s.funcs }
def State.modPart (s : State) (id : Nat) (f : Part → Part) : State := { s with parts := modBy (fun x => x.id == id) f s.parts }
def State.modCore (s : State) (id : Nat) (f : Core → Core) : State := { s with cores := modBy (fun x => x.id == id) f s.cores }

/-- The launch of a team, its function and its partition. -/
def State.launchOf (s : State) (t : Team) : Option Launch := s.launch? t.launch
def State.funcOf (s : State) (t : Team) : Option Func := (s.launchOf t).bind fun l => s.func? l.vf
def State.partOf (s : State) (t : Team) : Option Part := (s.funcOf t).bind fun f => s.part? f.part

/-! ### Records to the host (R41, R170, R278) -/

/-- The KIND number of a message (R278); management has none. -/
def HostMsg.kind : HostMsg → Option Nat
  | .ack .. => some 2
  | .record _ => some 3
  | .memWrite .. => some 5
  | .readReq .. => some 6
  | .readReply _ | .readError _ => some 10
  | .report .. | .refused => none

/-- A message's content: a record's 32 bytes, or what stands in a layout that the spec does not give. -/
def HostMsg.content (m : HostMsg) : List Byte :=
  match m with
  | .record b => b
  | .ack q seq => Config.hostContent 2 [seq, q] []
  | .memWrite a d => Config.hostContent 5 [a] d
  | .readReq a n => Config.hostContent 6 [a, n] []
  | .readReply d => Config.hostContent 10 [] d
  | .readError c => Config.hostContent 10 [c] []
  | .report .. | .refused => []

/-- A record of the bounce channel (R287); `dir` is 1 from the host, 2 to the host. -/
def gcmRecord (dir vf key ctr kind : Nat) (plain : List Byte) : List Byte :=
  let iv : List Byte := leBytes 4 dir ++ leBytes 8 ctr
  let head := leBytes 2 kind ++ leBytes 2 vf ++ leBytes 4 plain.length
  let data := fit plain.length (Config.gcmText vf key iv plain)
  head ++ data ++ fit 16 (Config.gcmTag vf key iv head data)

/-- A record device to host. -/
def channelRecord (vf key ctr kind : Nat) (m : HostMsg) : List Byte := gcmRecord 2 vf key ctr kind m.content

/-- A message leaves; one of a confidential partition's function in a record of the channel, which counts it (R287). -/
def Func.put (sealed : Bool) (m : HostMsg) (f : Func) : Func :=
  let g := { f with out := f.out ++ [m] }
  match m.kind, f.chanKey with
  | some kind, some key =>
    if sealed then { g with wire := f.wire ++ [channelRecord f.vf key f.txCtr kind m], txCtr := (f.txCtr + 1) % 2 ^ 64 } else g
  | _, _ => g

/-- The function's partition is confidential (R285). -/
def State.confidential (s : State) (f : Func) : Bool := (s.part? f.part).any (·.prot)

/-- The function's host traffic may travel: a confidential partition's needs a keyed channel that is not in ERROR (R287, R288). -/
def State.channelUp (s : State) (f : Func) : Bool := !s.confidential f || (f.chanKey.isSome && !f.chanErr)

/-- A message to the host, which a channel that is down holds (R288). -/
def State.send (s : State) (vf : Nat) (m : HostMsg) : State :=
  match s.func? vf with
  | none => s
  | some f => s.modFunc vf fun f' =>
    if m.kind.isSome && !s.channelUp f then { f' with waiting := f'.waiting ++ [m] } else f'.put (s.confidential f) m

/-- A record goes out when a credit is left and the channel works; otherwise the function holds it in order (R278, R288). -/
def State.post (s : State) (vf : Nat) (bytes : List Byte) : State :=
  match s.func? vf with
  | none => s
  | some f => s.modFunc vf fun f' =>
    if f.credits = 0 ∨ !s.channelUp f ∨ f.held ≠ [] then { f' with held := f'.held ++ [bytes] }
    else { f' with credits := f'.credits - 1 }.put (s.confidential f) (.record bytes)

/-- Writes of single bytes, as runs of consecutive addresses. -/
def runsOf (l : List (Nat × Byte)) : List (Nat × List Byte) :=
  l.foldr (fun c r => match r with
    | (a, bs) :: t => if c.1 + 1 = a then (c.1, c.2 :: bs) :: t else (c.1, [c.2]) :: r
    | [] => [(c.1, [c.2])]) []

/-- An event record (R170). -/
def eventBytes (seq : Nat) (token : Word) (code kind addr team group aux : Nat) : List Byte :=
  leBytes 8 seq ++ leBytes 4 token.toNat ++ leBytes 2 code ++ leBytes 2 kind ++ leBytes 8 addr ++ leBytes 4 team ++
    leBytes 2 group ++ leBytes 2 aux

/-- Posting an event record takes the function's next TOKEN (R170). -/
def State.postEvent (s : State) (vf seq code kind addr team group aux : Nat) : State :=
  let token := ((s.func? vf).map (·.token)).getD 0
  (s.post vf (eventBytes seq token code kind addr team group aux)).modFunc vf fun f => { f with token := f.token + 1 }

/-! ### Floating-point events (R54, R212, R214) -/

/-- One event counted in a launch: the counter saturates; the first reach of FPTHR posts one record (R214). -/
def State.countOne (s : State) (launch teamIdx group idx : Nat) : State :=
  match s.launch? launch with
  | none => s
  | some l =>
    let v := look l.fpev idx
    let v' := if v = BitVec.allOnes 32 then v else v + 1
    let hit := decide (l.fpthr ≠ 0 ∧ v'.toNat = l.fpthr ∧ ¬ l.posted.contains idx)
    let s := s.modLaunch launch fun l => { l with fpev := put l.fpev idx v', posted := if hit then idx :: l.posted else l.posted }
    if hit then s.postEvent l.vf l.seq (0x40 + idx) 3 0 teamIdx group 0 else s

/-- Events of one format. -/
def State.countEv (s : State) (launch teamIdx group fmt : Nat) (evs : List Nat) : State :=
  evs.foldl (fun s e => s.countOne launch teamIdx group (5 * fmt + e)) s

/-! ### Memory that writes take effect at -/

def lineOf (a : Nat) : Nat := a / 64

/-- The kind of the region a physical address lies in; none for bonded DRAM. -/
def State.regionOf (s : State) (a : Nat) : Option RegionKind :=
  (findBy (fun r => decide (r.base ≤ a ∧ a < r.base + r.size)) s.regions).map (·.kind)

/-- A binding counts an arrival when a write covers any byte of its word (R319). -/
def touches (ws : List (Nat × Byte)) (word : Nat) : Bool := ws.any fun w => decide (word ≤ w.1 ∧ w.1 < word + 8)

/-- A line enters a die's part of the memory-side cache as the one used last; `Config.cacheLines` lines stand in a part, and the one used
longest ago leaves it, written back (R1, R133; log 104). -/
def cacheLine (dirty : Bool) (c : List (Nat × Bool)) (l : Nat) : List (Nat × Bool) :=
  let old := c.any fun x => x.1 == l && x.2
  let rest := c.filter fun x => x.1 != l
  let die := fun (x : Nat) => (Config.channelOf x).val / 16
  let full := decide (Config.cacheLines ≤ rest.countP fun x => die x.1 == die l)
  (match findBy (fun x : Nat × Bool => die x.1 == die l) rest with
    | some x => if full then rest.erase x else rest
    | none => rest) ++ [(l, dirty || old)]

def cacheAll (dirty : Bool) (ls : List Nat) (c : List (Nat × Bool)) : List (Nat × Bool) := ls.foldl (cacheLine dirty) c

/-- The lines that the memory-side cache serves: those of device and CXL memory. -/
def State.cacheable (s : State) (ls : List Nat) : List Nat := ls.filter fun l => s.regionOf (64 * l) != some .host

/-- One write that takes effect at memory: the bytes, their history, the dirty lines of the memory-side cache, and one arrival at the
barrier of every word bound by ARMW that it touches (R155, R319). `src` is the team whose store it is, or 0. -/
def State.write (s : State) (src : Nat) (ws : List (Nat × Byte)) : State :=
  if ws = [] then s
  else { s with
    ver := s.ver + 1
    hist := ws.reverse.map (fun w => ⟨s.ver + 1, src, w.1, look s.mem w.1⟩) ++ s.hist
    mem := putAll s.mem ws
    cache := cacheAll true (s.cacheable ((ws.map fun w => lineOf w.1).eraseDups)) s.cache
    teams := s.teams.map fun t => (t.binds.filter fun b => touches ws b.1).foldl (fun t b => t.bar b.2 barArrive) t }

/-- Bytes of host memory that the host has answered with (R278): what the device knows of them from now on. -/
def State.learn (s : State) (ws : List (Nat × Byte)) : State :=
  { s with mem := putAll s.mem ws, hist := s.hist.filter fun h => !ws.any fun w => w.1 == h.addr }

/-- An operation or command that waits for lines of host memory. -/
def State.awaitsHost (s : State) (id : Nat) : Bool := s.hostWait.any fun x => x.1 == id

/-- Line `i` of some physical ranges. -/
def lineIn : List (Nat × Nat) → Nat → Nat
  | [], _ => 0
  | (b, n) :: r, i => if i < n / 64 then b / 64 + i else lineIn r (i - n / 64)

/-- The channel that holds a line: a planned retirement has moved its channel's lines, in order, into the ranges that were named (R302). A line
in a named range of other memory lies on none, which is the number 64. -/
def chaseChan (other : Nat → Bool) (cs : List Chan) : Nat → Nat → Nat
  | 0, l => if other l then 64 else (Config.channelOf l).val
  | n + 1, l =>
    if other l then 64
    else match findBy (fun c : Chan => c.ranges != [] && (Config.channelOf l).val == 16 * c.die + c.chan) cs with
      | none => (Config.channelOf l).val
      | some c => chaseChan other cs n (lineIn c.ranges (Config.lineIndex l).val)

/-- Each of the 64 channels retires once, so no line moves more than 64 times. -/
def State.chanOf (s : State) (l : Nat) : Nat := chaseChan (fun k => (s.regionOf (64 * k)).isSome) s.chans 64 l

/-- A line of bonded DRAM lies on a channel that was lost (R302). -/
def State.lineLost (s : State) (l : Nat) : Bool :=
  s.chans.any fun c => c.lost && (s.regionOf (64 * l)).isNone && s.chanOf l == 16 * c.die + c.chan

/-- The launch is durable (R32). -/
def Launch.durable (l : Launch) : Bool := l.flags % 2 == 1 || (l.md.map (·.dur)).getD false

def State.durable (s : State) (launch : Nat) : Bool := (s.launch? launch).any Launch.durable

def State.workingDies (s : State) : List Nat := (s.dies.filter fun d => !d.failed).map (·.id)

/-- The dies that hold a Launch Journal copy or a durable checkpoint: some two that work (R2, R6; log 107). -/
def State.copyDies (s : State) : List Nat :=
  let ds := s.workingDies
  let pairs := ds.flatMap fun x => (ds.filter fun y => decide (x < y)).map fun y => [x, y]
  pairs.getD (Config.copyPick s.uid % max pairs.length 1) []

/-- Their channels: one of the die that still serves. -/
def State.copyChansOn (s : State) (dies : List Nat) : List Nat :=
  dies.map fun d =>
    let cs := (List.range 16).filter fun c => !s.chans.any fun x => x.die == d && x.chan == c && x.retired
    16 * d + cs.getD (Config.copyChan s.uid d % max cs.length 1) 0

/-- A line is poisoned (R299). -/
def State.isPoisoned (s : State) (l : Nat) : Bool := s.poison.contains l != s.lineLost l

/-- A line becomes poisoned, or its poison is cleared (R299). -/
def State.setPoison (s : State) (l : Nat) (p : Bool) : State :=
  { s with poison := if s.lineLost l == p then s.poison.filter (· != l) else addNew l s.poison }

/-- The lines of a physical range. -/
def linesOf (pa len : Nat) : List Nat := if len = 0 then [] else (List.range (lineOf (pa + len - 1) + 1 - lineOf pa)).map (lineOf pa + ·)

def State.poisoned (s : State) (a n : Nat) : Bool := (linesOf a n).any s.isPoisoned

/-- A byte of memory as it stood after version `v`. -/
def State.byteAt (s : State) (v a : Nat) : Byte :=
  s.hist.foldl (fun b r => if v < r.ver ∧ r.addr = a then r.old else b) (look s.mem a)

def State.bytesAt (s : State) (v a n : Nat) : List Byte := (List.range n).map fun i => s.byteAt v (a + i)

/-- The bytes that have taken effect now. -/
def State.bytesNow (s : State) (a n : Nat) : List Byte := readBytes s.mem a n

/-- A free choice among `n` values (log 10): nothing is drawn where there is no choice. -/
def State.choose (s : State) (n : Nat) : Nat × State :=
  if n ≤ 1 then (0, s) else (Config.freeChoice s.freeCtr % n, { s with freeCtr := s.freeCtr + 1 })

/-- `n` bytes of free value. -/
def State.freeBytes (s : State) (n : Nat) : List Byte × State :=
  ((List.range n).map (fun i => BitVec.ofNat 8 (Config.freeChoice (s.freeCtr + i))), { s with freeCtr := s.freeCtr + n })

/-! ### Translation (R61, R62) -/

structure Page where
  pa : Nat
  inv : Bool
  prot : Bool
  ro : Bool
  deriving DecidableEq, Repr

/-- A level of the walk (R61): the low VA bit it indexes by, how many bits, whether an entry may be a leaf, whether it must
be one, and the size of the tables that stand at the next level. -/
structure Level where
  lo : Nat
  n : Nat
  leaf : Bool
  must : Bool
  next : Nat
  deriving DecidableEq, Repr

def levels : List Level := [⟨39, 13, false, false, 4096⟩, ⟨30, 9, true, false, 4096⟩, ⟨21, 9, true, false, 256⟩, ⟨16, 5, true, true, 1⟩]

/-- One entry (R62): a page, the next table, or a translation fault. -/
def entry (lv : Level) (e : Nat) : Option (Page ⊕ Nat) :=
  if bits e 0 1 = 0 ∨ bits e 60 4 ≠ 0 ∨ bits e 48 9 ≠ 0 ∨ bits e 2 6 ≠ 0 then none
  else if bits e 1 1 = 1 then
    if !lv.leaf ∨ bits e 8 8 ≠ 0 ∨ (bits e 16 32 * 65536) % 2 ^ lv.lo ≠ 0 then none
    else some (.inl ⟨bits e 16 32 * 65536, bits e 59 1 == 1, bits e 58 1 == 1, bits e 57 1 == 1⟩)
  else
    if lv.must ∨ bits e 57 3 ≠ 0 ∨ (bits e 8 40 * 256) % lv.next ≠ 0 then none
    else some (.inr (bits e 8 40 * 256))

/-- The walk: the page that holds a virtual address, with the physical address of the address itself. -/
def walk (mem : Store 8) (va : Nat) : List Level → Nat → Option (Page × Nat)
  | [], _ => none
  | lv :: rest, table =>
    match entry lv (readNat mem (table + 8 * bits va lv.lo lv.n) 8) with
    | none => none
    | some (.inl p) => some (p, p.pa + va % 2 ^ lv.lo)
    | some (.inr t) => walk mem va rest t

/-- Translation of a 52-bit address in a context; higher bits of an 8-byte field are dropped (log 38). -/
def State.translate (s : State) (root va : Nat) : Option (Page × Nat) := walk s.mem (va % 2 ^ 52) levels root

/-- What an access needs of its page. -/
inductive Access where
  | load     -- PROT traps with PROT
  | store    -- as load; RO and INV trap with PERM (R62)
  | fetch    -- PROT is PERM (R74)
  deriving DecidableEq, Repr

/-- Trap codes (R169). -/
def tIllegal : Nat := 1
def tRole : Nat := 2
def tAlign : Nat := 3
def tPage : Nat := 4
def tProt : Nat := 5
def tPerm : Nat := 6
def tScratch : Nat := 7
def tRegrange : Nat := 8
def tAccrange : Nat := 9
def tEscfault : Nat := 10
def tRemote : Nat := 11
def tPriv : Nat := 12
def tStack : Nat := 13
def tMchk : Nat := 14

/-- The physical address of an access, or the code of its fault; INV of the page comes with it. -/
def State.access (s : State) (root : Nat) (k : Access) (va : Nat) : Except Nat (Nat × Bool) :=
  match s.translate root va with
  | none => .error tPage
  | some (p, pa) =>
    if p.prot then .error (if k = .fetch then tPerm else tProt)
    else if k = .store ∧ (p.ro ∨ p.inv) then .error tPerm
    else .ok (pa, p.inv)

/-- A range of bytes, page by page (64 KiB is the smallest page, R61): the physical address of each byte's page start. -/
def State.accessRange (s : State) (root : Nat) (k : Access) (va len : Nat) : Except Nat (List (Nat × Nat × Nat)) :=
  ((List.range (if len = 0 then 0 else (va % 65536 + len - 1) / 65536 + 1)).mapM fun i =>
    let lo := max va (va / 65536 * 65536 + i * 65536)
    let hi := min (va + len) (va / 65536 * 65536 + (i + 1) * 65536)
    (s.access root k lo).map fun r => (r.1, lo - va, hi - lo))

/-! ### The team's own view (R130, R131) -/

/-- The bytes of a pending item, as seen by a lane of the team (`none`: by the team at large). -/
def PbItem.seen (lane : Nat) : PbItem → Bool
  | .prv l _ _ => l == lane
  | _ => true

def PbItem.addr : PbItem → Nat
  | .st a _ => a
  | .prv _ a _ => a
  | .red a _ _ _ _ _ => a

def PbItem.size : PbItem → Nat
  | .st _ d => d.length
  | .prv _ _ d => d.length
  | .red _ w _ _ _ _ => if w then 8 else 4

def PbItem.meets (i : PbItem) (a n : Nat) : Bool := decide (i.addr < a + n) && decide (a < i.addr + i.size)

def PbItem.lines (i : PbItem) : List Nat :=
  (List.range (lineOf (i.addr + i.size - 1) + 1 - lineOf i.addr)).map (lineOf i.addr + ·)

/-- Laying a list of bytes at `b` over a window of bytes at `a`. -/
def overlay (a : Nat) (w : List Byte) (b : Nat) (d : List Byte) : List Byte :=
  w.zipIdx.map fun p => if b ≤ a + p.2 ∧ a + p.2 < b + d.length then d.getD (a + p.2 - b) 0 else p.1

/-- AtomicOp of R322: the value stored and the events of the float codes. -/
def atomicOp (op : AtomOp) (wide : Bool) (cur v : Nat) : FRes :=
  let n := if wide then 64 else 32
  let f := if wide then Fmt.f64 else Fmt.f32
  match op with
  | .add => ((cur + v) % 2 ^ n, [])
  | .smin => (if toSigned n v < toSigned n cur then v else cur, [])
  | .smax => (if toSigned n cur < toSigned n v then v else cur, [])
  | .nmin => (min cur v, [])
  | .nmax => (max cur v, [])
  | .and => (Nat.land cur v, [])
  | .or => (Nat.lor cur v, [])
  | .xor => (Nat.xor cur v, [])
  | .exch => (v, [])
  | .fadd => f.add cur v
  | .fmin => f.minmax false cur v
  | .fmax => f.minmax true cur v

def atomBytes (wide : Bool) : Nat := if wide then 8 else 4
def atomFmt (wide : Bool) : Nat := if wide then 0 else 1

/-- One pending item over a window: the team's own store, or its pending reduction combined (R422). The window holds whole 8-byte
granules, so that it holds the word of every reduction that it meets. -/
def applyItem (a : Nat) (w : List Byte) : PbItem → List Byte
  | .st b d => overlay a w b d
  | .prv _ b d => overlay a w b d
  | .red b wide op v _ _ =>
    if a ≤ b ∧ b + atomBytes wide ≤ a + w.length then
      overlay a w b (leBytes (atomBytes wide) (atomicOp op wide (leNat ((w.drop (b - a)).take (atomBytes wide))) v.toNat).1)
    else w

/-- The pending items of a team that a lane's read of `n` bytes at `a` meets, oldest first. -/
def Team.ownItems (t : Team) (lane a n : Nat) : List PbItem :=
  ((t.drain.map (·.item)) ++ t.pb).filter fun i => i.seen lane && i.meets a n

/-- The 8-byte granules of an access; each enters the snapshot whole (log 13). -/
def granules (a n : Nat) : List Nat := (List.range ((a + n - 1) / 8 + 1 - a / 8)).map (fun i => (a / 8 + i) * 8)

def snapHas (m : Store 9) (a : Nat) : Bool := (look m a).getLsbD 8
def snapGet (m : Store 9) (a : Nat) : Byte := (look m a).truncate 8
def snapPut (m : Store 9) (a : Nat) (b : Byte) : Store 9 := put m a (b.zeroExtend 9 ||| 256#9)

/-- The latest version that a load issued at `v0` may see of a granule: none of the team's own later stores there (R148 note 1), and
none past `hi`. -/
def State.cap (s : State) (team v0 : Nat) (hi : Option Nat) (g : Nat) : Nat :=
  min (hi.getD s.ver) (s.hist.foldl (fun m r => if v0 < r.ver ∧ r.src = team ∧ g ≤ r.addr ∧ r.addr < g + 8 then r.ver - 1 else m) s.ver)

/-- The lanes that an operation of a group has still to read in a granule. -/
def readsAt (g : Nat) (nb : Nat) (lanes : List LaneAcc) : Bool := lanes.any fun a => decide (a.addr < g + 8) && decide (g < a.addr + nb)

/-- The last versions that loads and escorts of the team under way may still return of a granule. -/
def Team.openCaps (t : Team) (g : Nat) : List Nat :=
  t.live.groups.flatMap fun x =>
    (x.ops.filterMap fun o => match o.kind with
      | .load l => if !o.fin && readsAt g l.nb l.lanes then l.hi else none
      | _ => none) ++
    x.escs.filterMap fun e => if !e.faulted && readsAt g e.nb e.pas then e.hi else none

/-- The latest version that a read of a granule may return. Where a read that is under way may return no later one than some version since
the last refresh, a read that enters the snapshot before it does not either, so that both return the same value (R131). -/
def State.capFor (s : State) (t : Team) (v0 : Nat) (hi : Option Nat) (g : Nat) : Nat :=
  ((t.openCaps g).filter (t.snapMark ≤ ·)).foldl min (s.cap t.id v0 hi g)

def snapBytes (m : Store 9) (g : Nat) : List Byte := (List.range 8).map fun i => snapGet m (g + i)

/-- The snapshot holds a granule, with a value that a read of it may return. -/
def State.snapServes (s : State) (t : Team) (v0 : Nat) (hi : Option Nat) (g : Nat) : Bool :=
  let cap := s.cap t.id v0 hi g
  let lo := min t.snapMark cap
  snapHas t.snap g && (cap == s.ver || (List.range (cap + 1 - lo)).any fun k => s.bytesAt (lo + k) g 8 == snapBytes t.snap g)

/-- A granule read for a team: its snapshot, or a value published since the last refresh, which then enters the snapshot (R131, R132). -/
def State.readGranule (s : State) (t : Team) (v0 : Nat) (hi : Option Nat) (g : Nat) : List Byte × State × Team :=
  if s.snapServes t v0 hi g then (snapBytes t.snap g, s, t)
  else
    let cap := s.capFor t v0 hi g
    let lo := min t.snapMark cap
    let (k, s) := s.choose (cap - lo + 1)
    let bs := s.bytesAt (lo + k) g 8
    (bs, s, if snapHas t.snap g || decide (cap < t.snapMark) then t
      else { t with snap := (cells g bs).foldl (fun m c => snapPut m c.1 c.2) t.snap })

/-- A snapshot read of `n` bytes, granule by granule. -/
def State.readSnap (s : State) (t : Team) (v0 : Nat) (hi : Option Nat) (a n : Nat) : List Byte × State × Team :=
  let r := (granules a n).foldl (fun (acc : List Byte × State × Team) g =>
    let x := acc.2.1.readGranule acc.2.2 v0 hi g
    (acc.1 ++ x.1, x.2.1, x.2.2)) ([], s, t)
  ((r.1.drop (a % 8)).take n, r.2.1, r.2.2)

/-- Bytes at `a` that may come from any version from `lo` to `hi`, element by element: a free choice where they differ. -/
def State.readWithin (s : State) (lo hi elem a n : Nat) : List Byte × State :=
  (List.range ((n + elem - 1) / max elem 1)).foldl (fun (acc : List Byte × State) i =>
    let k := min elem (n - i * elem)
    let same := (List.range (hi + 1 - lo)).all fun v => s.bytesAt (lo + v) (a + i * elem) k == s.bytesAt hi (a + i * elem) k
    if same then (acc.1 ++ s.bytesAt hi (a + i * elem) k, acc.2)
    else
      let c := acc.2.choose (hi + 1 - lo)
      (acc.1 ++ s.bytesAt (lo + c.1) (a + i * elem) k, c.2)) ([], s)

/-- A read under a semantics code (R133, R134): VOL takes what has taken effect; INV any value held since the launch began,
element by element; the others the snapshot. -/
def State.readSem (s : State) (t : Team) (sem : Sem) (v0 : Nat) (hi : Option Nat) (elem a n : Nat) : List Byte × State × Team :=
  match sem with
  | .vol => (s.bytesAt (min s.ver (s.cap t.id v0 hi (a / 8 * 8))) a n, s, t)
  | .inv =>
    let r := s.readWithin (((s.launch? t.launch).map (·.ver0)).getD s.ver) (hi.getD s.ver) elem a n
    (r.1, r.2, t)
  | _ => s.readSnap t v0 hi a n

/-- A refresh (R132): the snapshot is discarded. -/
def Team.refresh (t : Team) (s : State) : Team := { t with snap := [], snapMark := s.ver }

/-- After the team's own writes take effect, its snapshot holds them (R131). -/
def Team.snapOwn (t : Team) (ws : List (Nat × Byte)) : Team :=
  { t with snap := ws.foldl (fun m c => if snapHas m c.1 then snapPut m c.1 c.2 else m) t.snap }

/-- The snapshot mark may not lag so far behind that a team misses its own write. -/
def Team.pin (t : Team) (s : State) (ws : List (Nat × Byte)) : Team :=
  let gs := (ws.map (fun w => w.1 / 8 * 8)).eraseDups
  { t with snap := gs.foldl (fun m g => if snapHas m g then m else (cells g (readBytes s.mem g 8)).foldl (fun m c => snapPut m c.1 c.2) m) t.snap }

end Sys2Proof.Machine
end

