-- ==== Sys2Proof/Machine/Publish.lean ====
section
/-!
DEFINITION. What leaves a team: remote requests (R249, R250, R254), the drain (R136), boundaries and publishes (R138, R145),
and the closing of seal contexts (R293, R294).
-/
namespace Sys2Proof.Machine

/-! ### Routes and remote requests -/

/-- The valid alternates of a route entry: alternate number, hops, link (R248). -/
def alternates (e : Nat) : List (Nat × Nat × Nat) :=
  ((List.range 4).map fun j => (j, bits e (16 * j + 12) 3, bits e (16 * j) 5, bits e (16 * j + 15) 1)).filterMap fun x =>
    if x.2.2.2 = 1 ∧ 1 ≤ x.2.1 ∧ x.2.1 ≤ 4 then some (x.1, x.2.1, x.2.2.1) else none

/-- The route that the source picks: alternate number and link (R249). -/
def State.route (s : State) (dst : Nat) : Option (Nat × Nat) :=
  let v := alternates (look s.routes dst).toNat
  (v[Nat.xor s.devId dst % v.length]?).map fun x => (x.1, x.2.2)

/-- The peer is reached: this device, or a route exists (R249, R253). -/
def State.reachable (s : State) (dst : Nat) : Bool := dst == s.devId || (s.route dst).isSome

/-- A message leaves on its route; one to the device's own id never enters the fabric (R249). -/
def State.sendMsg (s : State) (m : Msg) : State :=
  if m.dst = s.devId then s
  else match s.route m.dst with
    | none => s
    | some (alt, link) => { s with netOut := s.netOut ++ [(link, 0, { m with alt := alt, hop := 0 })] }

/-- Counting a message of a team to a peer (R145). -/
def quietAdd (q : List Quiet) (peer : Nat) (tag : Bool) (f : Quiet → Quiet) : List Quiet :=
  if q.any (fun x => x.peer == peer && x.tag == tag) then modBy (fun x => x.peer == peer && x.tag == tag) f q
  else q ++ [f ⟨peer, tag, 0, 0, 0⟩]

def Team.modGroup (t : Team) (g : Nat) (f : Group → Group) : Team :=
  { t with live := { t.live with groups := modAt g f t.live.groups } }

/-- Operations retire in issue order within their class (R71). -/
def retireFrom (blocked : List OpClass) : List Op → List Op
  | [] => []
  | o :: r =>
    if o.fin && !blocked.contains o.cls then retireFrom blocked r
    else o :: retireFrom (if o.fin then blocked else o.cls :: blocked) r

/-- An operation has finished. -/
def Group.finish (g : Group) (id : Nat) : Group :=
  { g with ops := retireFrom [] (modBy (fun o => o.id == id) (fun o => { o with fin := true }) g.ops) }

def Group.clearSb (g : Group) (regs : List Nat) : Group := { g with sb := g.sb.filter fun r => !regs.contains r }

/-- A change of what an operation is to do. -/
def Group.setKind (g : Group) (id : Nat) (k : OpKind) : Group :=
  { g with ops := modBy (fun o => o.id == id) (fun o => { o with kind := k }) g.ops }

/-- A request of a group's remote operation is over; with its last one the operation finishes, and the registers that no other
request of the group is to write are free (R49). -/
def Group.endReq (g : Group) (op req : Nat) : Group :=
  match findBy (fun o => o.id == op) g.ops with
  | none => g
  | some o =>
    match o.kind with
    | .remote l reqs a =>
      let rest := reqs.filter fun r => r != req
      let g := g.setKind op (.remote l rest a)
      let held := (g.ops.filter fun x => x.id != op && !x.fin).flatMap fun x => match x.kind with
        | .remote k _ _ => k.dst
        | _ => []
      if rest = [] then (g.clearSb (l.dst.filter fun d => !held.contains d)).finish op else g
    | _ => g

def Pending.ord : Pending → Nat
  | .esc o .. => o
  | .remote o .. => o

/-- A pending trap joins those of the group in the order in which their requests were issued (R188). -/
def Group.hold (g : Group) (p : Pending) : Group :=
  { g with pend := (g.pend.filter fun q => q.ord ≤ p.ord) ++ p :: g.pend.filter fun q => !(q.ord ≤ p.ord) }

/-- A request has failed after it was sent (R254): its failure settles its message (R145) and the group holds a pending
REMOTE trap; the failing lanes are in ascending order. -/
def State.failReq (s : State) (r : RemReq) (fails : List (Nat × Nat)) : State :=
  let low := fails.headD (0, 6)
  let off := ((findBy (fun m : MsgLane => m.lane == low.1) r.msg.lanes).map (·.off)).getD 0
  let p := Pending.remote r.op r.phase low.2 r.msg.dst off r.slices (maskOf (fails.map (·.1)))
  let s := s.modTeam r.team fun t =>
    let t := { t with sent := quietAdd t.sent r.msg.dst r.msg.tag fun q => { q with failed := q.failed + 1 } }
    if t.gen = r.gen ∨ r.msg.kind = .rst ∨ r.msg.kind = .flag then t.modGroup r.group fun g => (g.endReq r.op r.id).hold p else t
  { s with rreqs := s.rreqs.filter fun x => x.id != r.id }

/-- Every lane of a request fails with one cause. -/
def State.failAll (s : State) (r : RemReq) (cause : Nat) : State := s.failReq r (r.msg.lanes.map fun l => (l.lane, cause))

/-- A request goes out and is counted (R145, R250); a function without a key sends nothing, and the request fails with cause 2 (R251,
R254); it fails with cause 6 when the peer cannot be reached. -/
def State.sendReq (s : State) (r : RemReq) : State :=
  let s := s.modTeam r.team fun t => { t with sent := quietAdd t.sent r.msg.dst r.msg.tag fun q => { q with sent := q.sent + 1 } }
  let s := { s with rreqs := s.rreqs ++ [r] }
  if r.msg.key = 0 then s.failAll r 2 else if s.reachable r.msg.dst then s.sendMsg r.msg else s.failAll r 6

/-- A message of a team of phase `phase` (R128, R251). -/
def State.message (s : State) (t : Team) (kind : MsgKind) (peer phase req seq : Nat) (op : AtomOp) (len : Nat)
    (lanes : List MsgLane) : Msg where
  kind := kind
  src := s.devId
  dst := peer
  key := ((s.funcOf t).map (·.xwkey)).getD 0
  team := t.id
  tag := phase % 2 == 1
  req := req
  seq := seq
  alt := 0
  hop := 0
  op := op
  len := len
  lanes := lanes

/-- A request record of a group. -/
def State.request (s : State) (t : Team) (group op slices phase : Nat) (m : Msg) : RemReq where
  id := s.uid
  msg := m
  team := t.id
  gen := t.gen
  group := group
  op := op
  slices := slices
  phase := phase
  resends := 0
  held := false

/-- Sending remote stores in issue order, each with its phase (R148 note 9, R252). -/
def State.sendRsts (s : State) (t : Team) (l : List (Nat × RstItem)) : State :=
  l.foldl (fun s x => { (s.sendReq (s.request t x.2.group x.2.op x.2.slices x.1 (s.message t .rst x.2.peer x.1 s.uid 0 .add x.2.len x.2.lanes)))
    with uid := s.uid + 1 }) s

/-! ### The drain (R136, R422) -/

/-- What one drain item does to memory: bytes, and the float events of a reduction with the group they belong to. A private store is written
like any other: the private region is memory of its context, where only a lane of another launch of the context can name its bytes (R60);
that such a lane then reads them is what the model makes of a case that the spec leaves to system software (DESIGN CHOICE, log 114). -/
def drainItem (acc : Store 8 × List (Nat × Nat × List Nat)) : PbItem → Store 8 × List (Nat × Nat × List Nat)
  | .st a d => (writeBytes acc.1 a d, acc.2)
  | .prv _ a d => (writeBytes acc.1 a d, acc.2)
  | .red a w op v g _ =>
    let r := atomicOp op w (readNat acc.1 a (atomBytes w)) v.toNat
    (writeBytes acc.1 a (leBytes (atomBytes w) r.1), acc.2 ++ [(g, atomFmt w, r.2)])

def PbItem.bytes (i : PbItem) : List Nat := (List.range i.size).map (i.addr + ·)

/-- The group that a pending reduction belongs to; 0xFFFF for several (R214). -/
def PbItem.redGroup : PbItem → Nat
  | .red _ _ _ _ g _ => g
  | _ => 0xFFFF

def PbItem.isRedItem : PbItem → Bool
  | .red .. => true
  | _ => false

/-- The team's own pending stores cover every byte of an access. -/
def ownCovers (l : List PbItem) (a n : Nat) : Bool :=
  (List.range n).all fun i => l.any fun x => !x.isRedItem && decide (x.addr ≤ a + i) && decide (a + i < x.addr + x.size)

/-- A reduction of the drain meets poison: its line is poisoned, and no store of the team covers its bytes. It is an atomic of a poisoned line:
it is not applied, and its group takes a machine check (R299). -/
def State.redPoison (s : State) (t : Team) (i : DrainItem) : Bool :=
  i.item.isRedItem && s.isPoisoned (lineOf i.item.addr) &&
    !ownCovers ((t.drain.filter fun j => j.phase == i.phase).map (·.item)) i.item.addr i.item.size

/-- What the loads of a group that were issued up to a phase may read ends at a version: a later effect of the group is seen from then
on (R148, row LD). -/
def Group.capLoads (g : Group) (phase ver : Nat) : Group :=
  { g with
    ops := g.ops.map fun o => match o.kind with
      | .load l => if o.phase ≤ phase then { o with kind := .load { l with hi := some (l.hi.getD ver) } } else o
      | _ => o
    escs := g.escs.map fun e => if e.phase ≤ phase then { e with hi := some (e.hi.getD ver) } else e }

def Team.capLoads (t : Team) (phase ver : Nat) : Team :=
  { t with live := { t.live with groups := t.live.groups.map fun g => g.capLoads phase ver } }

/-- The pending items of one line and phase take effect as one write of memory (R155); a reduction that meets poison is left out, and a write that
covers a whole poisoned line clears the poison (R299); a line of host memory goes out as a host-memory write (R278); a line that an ST.NT has
written is not kept in the memory-side cache (R133; log 104). -/
def State.drainLine (s : State) (tid phase line : Nat) : State :=
  match s.team? tid with
  | none => s
  | some t =>
    let mine := fun (i : DrainItem) => i.phase == phase && lineOf i.item.addr == line
    let items := (t.drain.filter fun i => mine i && !s.redPoison t i).map (·.item)
    let r := items.foldl drainItem (s.mem, [])
    let ws := ((items.flatMap PbItem.bytes).eraseDups).map fun a => (a, look r.1 a)
    let s := r.2.foldl (fun s e => s.countEv t.launch t.idx e.1 e.2.1 e.2.2) s
    let sts := ((t.drain.filter mine).filter fun i => !i.item.isRedItem).flatMap fun i => i.item.bytes
    let s := if 64 ≤ sts.eraseDups.length then s.setPoison line false else s
    let s := if s.regionOf (64 * line) = some .host then
        match s.launchOf t with
        | some l => (runsOf ((sortNat (ws.map (·.1))).map fun a => (a, look r.1 a))).foldl (fun s w =>
            s.send l.vf (.memWrite w.1 w.2)) s
        | none => s
      else s
    let ver := s.ver
    let cache := s.cache
    let s := s.write tid ws
    let hint := t.ntLines.contains (phase, line)
    let s := if hint then { s with cache := cache.filter fun x => x.1 != line } else s
    s.modTeam tid fun t => { ((t.pin s ws).snapOwn ws).capLoads phase ver with
      drain := t.drain.filter fun i => !mine i
      ntLines := t.ntLines.filter (· != (phase, line)) }

/-- The phases that a line of the drain still holds, ascending. -/
def Team.drainPhases (t : Team) (line : Nat) : List Nat :=
  ((t.drain.filter fun i => lineOf i.item.addr == line).map (·.phase)).eraseDups

/-- The team's traffic to the host may travel (R288). -/
def State.hostUp (s : State) (t : Team) : Bool := (s.funcOf t).all s.channelUp

/-- A line reaches memory, phase by phase, in the phases below `top`. Host lines wait while the channel is in ERROR (R288). -/
def State.drainOut (s : State) (tid top line : Nat) : State :=
  match s.team? tid with
  | none => s
  | some t =>
    if s.regionOf (64 * line) = some .host ∧ !s.hostUp t then s
    else ((t.drainPhases line).filter (· < top)).foldl (fun s k => s.drainLine tid k line) s

def Team.drainLines (t : Team) : List Nat := (t.drain.map fun i => lineOf i.item.addr).eraseDups

/-! ### Boundaries and publishes (R136, R138, R145) -/

/-- A group as a checkpoint records it: a handler is undone, so that its trap recurs (R172). -/
def Group.restart (g : Group) : Group :=
  match g.handler with
  | none => g
  | some h =>
    { g with
      handler := none
      s := putAll g.s (h.saved.zipIdx.map fun p => (23 + p.2, p.1))
      p := putAll g.p (h.savedP.zipIdx.map fun p => (6 + p.2, p.1))
      frags := g.frags.map fun f =>
        if (findBy f.slices.getLsbD (List.range 8)).getD 8 = h.slice then { f with pc := h.back, guard := h.backGuard, wait := .run } else f }

def TeamData.restart (d : TeamData) : TeamData := { d with groups := d.groups.map Group.restart }

/-- The checkpoint of a boundary (R138): PHASEN rises, the Undo Log empties. -/
def Team.takeBoundary (t : Team) : Team :=
  { t with ckpt := t.live.restart, phasen := t.phasen + 1, undo := [], undoAfter := false, sealKept := [] }

/-- A field of the metadata of a team's launch. -/
def State.metaOf (s : State) (t : Team) (f : Meta → Nat) : Nat := (((s.launchOf t).bind (·.md)).map f).getD 0

/-- The launch's scratchpad bytes of a team. -/
def State.scrSizeOf (s : State) (t : Team) : Nat := (((s.launchOf t).bind (·.md)).map (·.scr)).getD 0 * 16384

/-- The ring header as it stands in the scratchpad, and whether it is valid (R65). -/
structure Ring where
  base : Nat
  count : Nat
  head : Nat
  tail : Nat
  notify : Nat
  ok : Bool
  deriving DecidableEq, Repr

def ringOf (scr : Store 8) (off size : Nat) : Ring :=
  let base := readNat scr off 4
  let count := readNat scr (off + 4) 4
  { base := base, count := count, head := readNat scr (off + 8) 8, tail := readNat scr (off + 16) 8, notify := readNat scr (off + 24) 8,
    ok := base % 32 == 0 && decide (2 ≤ count ∧ count ≤ 256 ∧ base + 32 * count ≤ size) && count == 2 ^ Nat.log2 count }

/-- The CPYP operation of a sequence number: its group and itself. -/
def Team.copyOp (t : Team) (seq : Nat) : Option (Nat × Op) :=
  (t.live.groups.zipIdx.filterMap fun g => (findBy (fun o => o.kind == .copy seq && !o.fin) g.1.ops).map fun o => (g.2, o)).head?

/-- The phase that the next entry of a ring was posted in: its CPYP's, or an earlier one where the checkpoint's TAIL covers it. -/
def State.entryPhase (s : State) (t : Team) (seq : Nat) : Nat :=
  match t.copyOp seq with
  | some (_, o) => o.phase
  | none => if seq < (ringOf t.ckpt.scr (s.metaOf t (·.cpring)) (s.scrSizeOf t)).tail then t.phasen - 1 else t.phasen

/-- The next entry of a ring that the engine has yet to take, up to NOTIFY; its phase (R67, R69). -/
def State.untaken (s : State) (t : Team) : Option Nat :=
  let r := ringOf t.live.scr (s.metaOf t (·.cpring)) (s.scrSizeOf t)
  if r.ok ∧ r.head < r.notify then some (s.entryPhase t r.head) else none

/-- The engine has finished reading the sources of an operation's command, and the command writes nothing into the Phase Buffer. -/
def State.opRead (s : State) (tid : Nat) (o : Op) : Bool :=
  match o.kind with
  | .copy seq => s.copies.any fun c => c.team == tid && c.seq == seq && c.cap.isSome
  | .gath cmd => s.gaths.any fun c => c.id == cmd && c.cap.isSome
  | .coll cmd => s.colls.any fun c => c.id == cmd && c.cap.isSome
  | _ => false

/-- An engine command of a phase up to `k` is still to read, or to write into the Phase Buffer, one posted by STS included (R69, R136). -/
def State.engineBusy (s : State) (t : Team) (k : Nat) : Bool :=
  t.live.groups.any (fun g => g.ops.any fun o =>
      decide (o.phase ≤ k) && !o.fin && o.kind != .stored && (o.cls == .cp || o.cls == .ga || o.cls == .co) && !s.opRead t.id o) ||
    (s.copies.any fun c => c.team == t.id && decide (c.phase ≤ k) && c.cap.isNone) ||
    (s.untaken t).any fun p => decide (p ≤ k)

/-- The engines finish reading the sources that they have begun with, of a team's commands of a phase up to `k` (R136): from here on no later
version can reach them. A copy with a GLOBAL destination is left out, since its write belongs into the Phase Buffer. -/
def State.finishReads (s : State) (tid k : Nat) : State :=
  let cap := fun (team phase id : Nat) (begun : Bool) (old : Option Nat) =>
    if team = tid ∧ phase ≤ k ∧ begun ∧ !s.awaitsHost id ∧ old = none then some s.ver else old
  { s with
    copies := s.copies.map fun c => { c with cap := cap c.team c.phase c.id (c.code != 0 || c.dst.toNat / 2 ^ 62 != 2) c.cap }
    gaths := s.gaths.map fun c => { c with cap := cap c.team c.phase c.id true c.cap }
    colls := s.colls.map fun c => { c with cap := cap c.team c.phase c.id c.served c.cap } }

/-- Traffic of a tag is quiet at every peer: each message is counted there, or settled by its failure (R145; log 56). -/
def Team.quietAt (t : Team) (tag : Bool) : Bool := t.sent.all fun q => q.tag != tag || decide (q.sent ≤ q.seen + q.failed)

/-- A publish has completed at its scope (R136). -/
def State.pubDone (s : State) (t : Team) (p : Pub) : Bool :=
  let old := t.drain.filter fun i => i.phase ≤ p.phase
  let near := old.all fun i => s.regionOf i.item.addr == some .host
  let left := t.rstOut.all fun x => decide (p.phase < x.1)
  !s.engineBusy t p.phase &&
    (match p.scope with
     | .group | .team => true
     | .part | .device => near
     | .domain => near && left && t.quietAt (p.phase % 2 == 1)
     | .system => old.isEmpty && left && t.quietAt (p.phase % 2 == 1) && s.hostUp t)

def Frag.lowest (f : Frag) : Nat := (findBy f.slices.getLsbD (List.range 8)).getD 8

/-- A change of one fragment. -/
def Group.modFrag (g : Group) (slice : Nat) (f : Frag → Frag) : Group := { g with frags := modBy (fun x => x.lowest == slice) f g.frags }

def TeamData.modGroup (d : TeamData) (g : Nat) (f : Group → Group) : TeamData := { d with groups := modAt g f d.groups }

/-- The fragment that waited for its publish goes on, now and at the checkpoint. -/
def Team.wake (t : Team) (w : Option (Nat × Nat)) : Team :=
  match w with
  | none => t
  | some (g, sl) =>
    let go := fun (x : Group) => x.modFrag sl fun f => if f.wait = .pub then { f with wait := .run } else f
    { t with live := t.live.modGroup g go, ckpt := t.ckpt.modGroup g go }

/-- A publish that has completed ends: the fragment goes on, a refresh follows BOTH (R135), and the checkpoint of PUB.DUR is
durable (R6, R136, R303). -/
def State.finishPub (s : State) (tid : Nat) : State :=
  match s.team? tid with
  | none => s
  | some t =>
    match t.pub with
    | none => s
    | some p =>
      if s.pubDone t p then
        let s := if p.dur then s.modLaunch t.launch fun l => { l with hit := false } else s
        s.modTeam tid fun t =>
          let t := { t.wake p.waiter with pub := none }
          let t := if p.dur then { t with dur := t.ckpt, durPhase := p.phase + 1, durDies := s.copyDies, durChans := s.copyChansOn s.copyDies } else t
          if p.refresh then t.refresh s else t
      else s

/-- A remote load of a phase up to `k` is under way. -/
def Team.remoteLoads (t : Team) (k : Nat) : Bool :=
  t.live.groups.any fun g => g.ops.any fun o => decide (o.phase ≤ k) && !o.fin && match o.kind with
    | .remote l _ _ => l.dst != []
    | _ => false

/-- What a phase has written may leave its core: the engines have read the sources of its commands (R136), and no remote load of it is under
way (row LD of R148). -/
def State.mayLeave (s : State) (t : Team) (k : Nat) : Bool := !s.engineBusy t k && !t.remoteLoads k

/-- The phases whose lines and remote stores may leave the core lie below this one. -/
def State.drainTop (s : State) (t : Team) : Nat :=
  (((t.drain.map (·.phase) ++ t.rstOut.map (·.1)).eraseDups.filter fun k => !s.mayLeave t k).min?).getD (t.phasen + 1)

/-- Remote stores that a publish has handed over leave for their peers, in issue order, of the phases below `top`; what the loads of those
phases may still read ends here (row LD of R148). -/
def State.sendOut (s : State) (tid top : Nat) : State :=
  match s.team? tid with
  | none => s
  | some t =>
    let go := t.rstOut.takeWhile fun x => decide (x.1 < top)
    if go = [] then s
    else (s.modTeam tid fun t => { t.capLoads ((go.map (·.1)).foldl max 0) s.ver with rstOut := t.rstOut.drop go.length }).sendRsts t go

/-- The remote stores that may leave now do. -/
def State.sendNow (s : State) (tid : Nat) : State :=
  match s.team? tid with
  | none => s
  | some t => s.sendOut tid (s.drainTop t)

/-- All that the drain holds takes effect, and all that was handed over leaves. -/
def State.drainAll (s : State) (tid : Nat) : State :=
  match s.team? tid with
  | none => s
  | some t => (t.drainLines.foldl (fun s l => s.drainOut tid (t.phasen + 1) l) s).sendOut tid (t.phasen + 1)

/-- Lines of a team's drain take effect at memory, once the engines have finished with what they have begun to read; the remote stores that
waited with them leave. -/
def State.drainSome (s : State) (tid : Nat) (lines : List Nat) : State :=
  let s := match (s.team? tid).bind (·.pub) with
    | none => s
    | some p => s.finishReads tid p.phase
  match s.team? tid with
  | none => s
  | some t => (lines.foldl (fun s l => s.drainOut tid (s.drainTop t) l) s).sendOut tid (s.drainTop t)

/-- The publish of a team ends where all that it still waits for is engines that may have finished reading (R136). -/
def State.finishRead (s : State) (tid : Nat) : State :=
  match (s.team? tid).bind (·.pub) with
  | none => s
  | some p =>
    let d := (s.finishReads tid p.phase).finishPub tid
    if (d.team? tid).any (·.pub.isNone) then d else s

/-- The scope a function may use: SYSTEM falls to PART under a TENANT policy, and the policy counter rises (R137). -/
def State.demote (s : State) (t : Team) (sc : Scope) : Scope × State :=
  match s.partOf t, s.launchOf t with
  | some p, some l =>
    if p.tenant ∧ sc = .system then (.part, s.modFunc l.vf fun f => { f with policy := f.policy + 1 }) else (sc, s)
  | _, _ => (sc, s)

/-- Pending reductions of GROUP or TEAM scope are applied to the team's view, its whole granule, when the phase is published, and drain as
stores (R422). One that meets poison is left for the drain (R299). -/
def State.settleReds (s : State) (t : Team) : State × Team :=
  let r := t.pb.foldl (fun (acc : State × Team × List PbItem) i =>
    match i with
    | .red a w op v g true =>
      let n := atomBytes w
      let lo := a / 8 * 8
      let own := ((t.drain.map (·.item)) ++ acc.2.2).filter fun j => j.meets lo 8
      if acc.1.poisoned a n ∧ !snapHas acc.2.1.snap a ∧ !ownCovers own a n then (acc.1, acc.2.1, acc.2.2 ++ [i]) else
      let x := acc.1.readSnap acc.2.1 acc.1.ver none lo 8
      let cur := leNat (((own.foldl (applyItem lo) x.1).drop (a - lo)).take n)
      let y := atomicOp op w cur v.toNat
      (x.2.1.countEv t.launch t.idx g (atomFmt w) y.2, x.2.2, acc.2.2 ++ [.st a (leBytes n y.1)])
    | i => (acc.1, acc.2.1, acc.2.2 ++ [i])) (s, t, [])
  (r.1, { r.2.1 with pb := r.2.2 })

/-- The lines of the phase go to the drain, its remote stores leave as soon as they may, and the publish begins (R136). -/
def State.handOver (s : State) (t : Team) (sc : Scope) (dur refresh : Bool) (waiter : Option (Nat × Nat)) (f : Team → Team) : State :=
  let k := t.phasen
  let r := s.settleReds t
  let s := r.1.modTeam t.id fun _ =>
    { f r.2 with
      pb := []
      rsts := []
      drain := t.drain ++ r.2.pb.map (fun i => ⟨k, i⟩)
      rstOut := t.rstOut ++ t.rsts.map (fun i => (k, i))
      pub := some ⟨k, sc, dur, refresh, waiter⟩ }
  (s.sendNow t.id).finishPub t.id

/-- A boundary that publishes (R136, R138). The caller has seen that no publish is outstanding (R145). -/
def State.boundary (s : State) (tid : Nat) (sc : Scope) (dur refresh : Bool) (waiter : Option (Nat × Nat)) : State :=
  match s.team? tid with
  | none => s
  | some t =>
    let d := s.demote t sc
    d.2.handOver t d.1 dur refresh waiter Team.takeBoundary

/-- A publish that is no boundary of its own: what an atomic, LNCH and the end of a team begin with (R138, R370, R394). -/
def State.publishOnly (s : State) (tid : Nat) (sc : Scope) (waiter : Option (Nat × Nat)) : State :=
  match s.team? tid with
  | none => s
  | some t => s.handOver t sc false false waiter id

/-! ### Seal records (R293, R294, R295) -/

/-- STATUS of a record. -/
def sealStatus (c : SealCtx) (closed : Bool) : Nat := if c.failed then 2 else if closed then 1 else 0

/-- Bytes 0 to 79. -/
def sealHead (dev part : Nat) (c : SealCtx) (closed : Bool) : List Byte :=
  leBytes 4 0x314C4553 ++ leBytes 2 1 ++ leBytes 2 (sealStatus c closed) ++ leBytes 1 c.alg ++ leBytes 1 c.slot ++ leBytes 2 part ++
    leBytes 2 dev ++ leBytes 2 (if c.alg = 0 then 3309 else 96) ++ leBytes 8 (c.seq.getD 0) ++ leBytes 8 c.bytes.length ++ sha384 c.bytes

/-- The 3,392 bytes of a record; the signature is a free value (the key never leaves the Root of Trust). -/
def State.sealRecord (s : State) (part : Nat) (c : SealCtx) (closed : Bool) : List Byte :=
  let head := sealHead s.devId part c closed
  let gen := ((findBy (fun k => k.slot == c.slot) s.keySlots).map (·.gen)).getD 0
  fit 3392 (head ++ fit (if c.alg = 0 then 3309 else 96) (Config.signature c.alg c.slot gen head))

/-- Writing at a virtual address of a function as an engine does (RO and INV pages refuse, R62); host lines go out over the transport
(R278). -/
def State.writeVa (s : State) (vf root va : Nat) (bs : List Byte) : Except Nat State :=
  (s.accessRange root .store va bs.length).map fun ps =>
    let ws := ps.map fun p => (p.1, (bs.drop p.2.1).take p.2.2)
    let s := ws.foldl (fun s w => if s.regionOf w.1 = some .host then s.send vf (.memWrite w.1 w.2) else s) s
    s.write 0 (ws.flatMap fun w => cells w.1 w.2)

/-- A record goes to the partition's SEALOUT ring, with an event record of KIND 4 (R294). -/
def State.sealOutRing (s : State) (t : Team) (status : Nat) (rec : List Byte) : State :=
  match s.launchOf t, s.funcOf t, s.partOf t with
  | some l, some f, some p =>
    let logn := bits p.sealout.toNat 0 6
    let base := bits p.sealout.toNat 6 46 * 64
    let ring := decide (1 ≤ logn ∧ logn ≤ 10)
    let addr := if ring then base + 64 + 3392 * (p.sealCount % 2 ^ logn) else 0
    let s := if ring then
        let s := (s.writeVa f.vf f.root addr rec).toOption.getD s
        let s := (s.writeVa f.vf f.root base (leBytes 8 (p.sealCount + 1))).toOption.getD s
        s.modPart p.id fun p => { p with sealCount := p.sealCount + 1 }
      else s
    s.postEvent l.vf l.seq status 4 addr t.idx 0 0
  | _, _, _ => s

/-- The open contexts of a team are closed; one with no sequence leaves no record (R294). -/
def State.closeSeals (s : State) (tid : Nat) : State :=
  match s.team? tid with
  | none => s
  | some t =>
    let part := ((s.partOf t).map (·.id)).getD 0
    let s := t.live.seals.foldl (fun s c =>
      if c.2.seq.isSome then s.sealOutRing t (sealStatus c.2 true) (s.sealRecord part c.2 true) else s) s
    s.modTeam tid fun t => { t with live := { t.live with seals := [] } }

end Sys2Proof.Machine
end

