-- ==== Sys2Proof/Machine/Operands.lean ====
section
/-!
DEFINITION. Operands: register runs (R45, R46, R47), immediates, predicates (R52), and what issue must know of an instruction's
operands: the runs it reads or writes (R49), the counters it counts in (R71), its role (R11), whether it may stand in a
GUARD window (R30).
-/
namespace Sys2Proof.Machine

/-! ### Registers -/

/-- The name of a physical v register in the scoreboard, in operations and in the reuse latch; s registers take 1 to 31. -/
def vName (n : Nat) : Nat := 32 + n

/-- The name of register `i` of a run; z has none. -/
def Group.regId (g : Group) (r : Reg) (i : Nat) : Option Nat :=
  match r with
  | .v k => some (vName (g.win + k.val + i))
  | .s k => some (1 + k.val + i)
  | .z => none

/-- A register by its name, in a lane (R45). -/
def Group.getId (g : Group) (id l : Nat) : Word := if id < 32 then look g.s (id - 1) else look g.v (32 * (id - 32) + l)

def Group.setId (g : Group) (id l : Nat) (x : Word) : Group :=
  if id < 32 then { g with s := put g.s (id - 1) x } else { g with v := put g.v (32 * (id - 32) + l) x }

/-- Register `i` of a run in a lane; z reads zero. -/
def Group.reg (g : Group) (r : Reg) (i l : Nat) : Word :=
  match g.regId r i with
  | some id => g.getId id l
  | none => 0

/-- The value of a run of `n` registers in a lane: the first register holds the low bits (R46). -/
def Group.rd (g : Group) (r : Reg) : Nat → Nat → Nat
  | 0, _ => 0
  | n + 1, l => Group.rd g r n l + 2 ^ (32 * n) * (g.reg r n l).toNat

/-- An s register by number. -/
def Group.sreg (g : Group) (n : Nat) : Word := look g.s n

/-- The mask of a predicate (R52). -/
def Group.pred (g : Group) (p : Nat) : LaneMask := look g.p p

/-! ### Immediates -/

/-- An immediate, sign-extended to a word (R83, R87). -/
def immWord {w : Nat} (x : BitVec w) : Word := x.signExtend 32

def immInt {w : Nat} (x : BitVec w) : Int := x.toInt

/-! ### What issue needs of an instruction -/

/-- Role restriction (R11). -/
def instrRole : Instr → Option Role
  | .mma _ | .accld _ | .accst _ | .accz _ | .bfpack _ | .bfunpk _ => some .matrix
  | .cpyp _ | .gath _ | .coll _ | .rshard _ | .sealo .. | .seala _ | .sealc .. => some .copy
  | .rqxfer o => some o.src
  | _ => none

/-- May stand in a GUARD window (R30). -/
def windowOk : Instr → Bool
  | .guard _ | .bra _ | .brx .. | .call .. | .ret _ | .rft | .regang => false
  | _ => true

def alu3Runs (o : Alu3) (bRegs : Nat) (dRegs : Nat) : List (Reg × Nat) := [(o.d, dRegs), (o.a, o.ty.regs), (o.b, bRegs)]

/-- FMA reads d as well (R377); the run is the same. -/
def memRuns (o : MemOps) (addr : Nat) : List (Reg × Nat) := [(o.d, o.w.regs), (o.a, addr)]

def escortRuns (b : Reg) (m : BitVec 24) : List (Reg × Nat) :=
  match b with
  | .v k => (maskBits m).filterMap fun i => if h : k.val + i < 96 then some (.v ⟨k.val + i, h⟩, 1) else none
  | _ => []

/-- Bytes of a non-block element. -/
def mmaSize : Nat → Nat
  | 1 => 8
  | 2 => 4
  | 3 | 4 => 2
  | _ => 1

/-- The registers of an A run. -/
def mmaRun (code : Nat) : Nat :=
  match BlockFmt.ofCode? code with
  | some f => f.regs * (64 / f.elems)
  | none => 16 * mmaSize code

/-- The runs that an instruction reads or writes through its register fields (R49). -/
def instrRuns : Instr → List (Reg × Nat)
  | .add o | .sub o | .mul o | .mulh o | .fma o | .min o | .max o | .and o | .or o | .xor o | .andn o | .div o | .rem o =>
    alu3Runs o o.ty.regs o.ty.regs
  | .shl o | .shr o | .rot o | .bfe o | .bfi o => alu3Runs o 1 o.ty.regs
  | .cmp o => [(o.a, o.ty.regs), (o.b, o.ty.regs)]
  | .sel o | .compress o | .expand o => [(o.d, 1), (o.a, 1), (o.b, 1)]
  | .cvt o => [(o.d, o.dt.regs), (o.a, o.st.regs)]
  | .abs o | .neg o | .not o | .brev o | .sqrt o | .rcp o | .rsq o | .ex2 o | .lg2 o | .sin o | .cos o | .tanh o
  | .rndiRn o | .rndiRz o | .rndiRd o | .rndiRu o => [(o.d, o.ty.regs), (o.a, o.ty.regs)]
  | .popc o | .clz o | .fclass o => [(o.d, 1), (o.a, o.ty.regs)]
  | .lea o => [(o.d, 2), (o.a, 2), (o.b, 1)]
  | .mov o => [(o.d, o.w.regs), (o.a, o.w.regs)]
  | .shfl o => [(o.d, 1), (o.a, 1), (o.b, 1)]
  | .reduce o => [(o.d, o.ty.regs), (o.a, o.ty.regs)]
  | .scan o => [(o.d, o.ty.regs), (o.a, o.ty.regs)]
  | .vote o => [(o.d, 1)]
  | .trn8 o => [(o.d, 8), (o.a, 8)]
  | .dot4 o => [(o.d, 1), (o.a, 1), (o.b, 1)]
  | .addi o | .andi o | .ori o | .xori o => [(o.d, 1), (o.a, 1)]
  | .shli o | .shri o | .sari o => [(o.d, 1), (o.a, 1)]
  | .cmpi o => [(o.a, 1)]
  | .movi d _ | .movl d _ | .get d _ => [(d, 1)]
  | .call d _ => [(d, 2)]
  | .put a _ => [(a, 1)]
  | .pmov o => [(o.d, 1), (o.a, 1)]
  | .ret a | .brx a _ => [(a, 2)]
  | .ld o | .st o => memRuns o 2
  | .lds o | .sts o | .ldp o | .stp o => memRuns o 1
  | .atom o | .red o => [(o.d, atomRegs o.wide), (o.a, 2)]
  | .atoms o => [(o.d, atomRegs o.wide), (o.a, 1)]
  | .pref a | .cctlLine a => [(a, 2)]
  | .barinit d a | .barwait d a | .bartest d a => [(d, 2), (a, 1)]
  | .bararr a | .barbrk a => [(a, 1)]
  | .barexp d a => [(d, 1), (a, 1)]
  | .armw d a => [(d, 1), (a, 2)]
  | .cpyp d | .gath d | .coll d | .rshard d => [(d, 8)]
  | .claim o => [(o.a, 2)]
  | .rloop a _ _ => [(a, 1)]
  | .rlitem d _ => [(d, 1)]
  | .lde o => [(o.d, o.w.regs), (o.a, 2)] ++ escortRuns o.b o.mask
  | .atome o => [(o.d, atomRegs o.wide), (o.a, 2)] ++ escortRuns o.b o.mask
  | .rld o | .rst o => [(o.d, o.w.regs), (o.a, 2), (o.b, 1)]
  | .ratom o => [(o.d, atomRegs o.wide), (o.a, 2), (o.b, 1)]
  | .rflush b => [(b, 1)]
  | .rfencef d a b => [(d, 2), (a, 2), (b, 1)]
  | .cas o => [(o.d, if o.wide then 4 else 2), (o.a, 2)]
  | .cass o => [(o.d, if o.wide then 4 else 2), (o.a, 1)]
  | .mma o => [(o.b, 1), (o.nreg, 1), (o.fmt, 4)]
  | .bfpack o => [(o.a, recCount o.two * o.fmt.elems), (o.d, o.recRegs)]
  | .bfunpk o => [(o.a, o.recRegs), (o.d, recCount o.two * o.fmt.elems)]
  | .accld o | .accst o => [(o.b, 1), (o.a, 1)]
  | .sealo d a => [(d, 1), (a, 1)]
  | .seala a => [(a, 4)]
  | .sealc a b => [(a, 1), (b, 2)]
  | .lnch d a _ => [(d, 1), (a, 2)]
  | _ => []

/-- The class an instruction counts in (R71); those that count once for each entry or peer say so themselves. -/
def instrClass : Instr → Option OpClass
  | .ld _ | .lds _ | .ldp _ | .atom _ | .atoms _ | .cas _ | .cass _ => some .ld
  | .st _ | .sts _ | .stp _ | .red _ => some .st
  | .cpyp _ | .sealo .. | .seala _ | .sealc .. => some .cp
  | .mma _ | .accld _ | .accst _ | .accz _ => some .mx
  | .gath _ => some .ga
  | .coll _ | .rshard _ => some .co
  | .lde _ | .atome _ => some .es
  | .rld _ | .rst _ | .ratom _ | .rflush _ | .rfencef .. => some .rm
  | _ => none

/-- The operations that the ordering matrices name (R147, R148). -/
def memOrdered (i : Instr) : Bool :=
  match i with
  | .fenceFull _ | .fenceAcq _ | .fenceRel _ | .phasePub _ | .phaseRef _ | .phaseBoth _ | .phasePubDur _ => true
  | _ => match instrClass i with
    | some .mx | none => false
    | _ => true

/-- The operations whose columns AT and RA in the matrices keep every earlier operation before them, engine commands included. -/
def keepsEngines : Instr → Bool
  | .atom _ | .cas _ | .cass _ | .atome _ | .ratom _ | .rflush _ | .rfencef .. => true
  | _ => false

/-- The columns PB and PR as well: a publish waits for engines by a rule of its own (R136), and a refresh waits for none. -/
def keepsEarlier : Instr → Bool
  | .phasePub _ | .phaseBoth _ | .phasePubDur _ | .phaseRef _ => true
  | .st o => o.sc == .rel
  | i => keepsEngines i

/-- The commands of column EN: a remote load of the group before one is over first. -/
def engineCommand : Instr → Bool
  | .cpyp _ | .gath _ | .coll _ | .rshard _ | .sealo .. | .seala _ | .sealc .. => true
  | _ => false

end Sys2Proof.Machine
end

