-- ==== Sys2Proof/Machine/Flags.lean ====
section
/-!
DEFINITION. Conditions and predicates: the machine's flags are the eight predicates of a group, one bit per lane (R52). The
conditions are those of CMP (R81, R351) and CMPI (R85), the branch modes of R22, and the truth tables of PLOP (R413).
-/
namespace Sys2Proof.Machine

/-- A predicate with one lane changed. -/
def setLane (m : LaneMask) (l : Nat) (b : Bool) : LaneMask := if b then m ||| (1#32 <<< l) else m &&& ~~~(1#32 <<< l)

/-- An integer comparison of `n`-bit values. -/
def intCond (c : Cond) (signed : Bool) (n x y : Nat) : Bool :=
  let a : Int := if signed then toSigned n x else (x : Int)
  let b : Int := if signed then toSigned n y else (y : Int)
  match c with
  | .eq => a == b
  | .ne => a != b
  | .lt => decide (a < b)
  | .le => decide (a ≤ b)
  | .gt => decide (b < a)
  | .ge => decide (b ≤ a)
  | .num => true
  | .nan => false

/-- A condition of CMPI on words (R85): LO and HS compare unsigned. -/
def immCond (c : CondI) (x y : Word) : Bool :=
  match c with
  | .eq => x == y
  | .ne => x != y
  | .lt => x.slt y
  | .le => x.sle y
  | .gt => y.slt x
  | .ge => y.sle x
  | .lo => x.ult y
  | .hs => y.ule x

/-- A slice takes a branch (R22): `bits` are the predicate in its active lanes. -/
def sliceTakes (m : BraMode) (bits : List Bool) : Bool :=
  match m with
  | .always => true
  | .any => bits.any id
  | .all => bits.all id
  | .none => !bits.any id

/-- Entry (pa, pb) of a truth table (R413). -/
def truth (tt : BitVec 4) (a b : Bool) : Bool := tt.getLsbD ((if a then 2 else 0) + (if b then 1 else 0))

end Sys2Proof.Machine
end

