-- ==== Sys2Proof/Machine/Ops.lean ====
section
/-!
DEFINITION. The shared operations: the issuing fragment and its registers, the reuse latch (R51), outstanding operations (R71),
the end of a team, taking a trap and returning from one (R164 to R170, R429), and issue itself (R99) with the room that the
Phase Buffer and the Undo Log must have (R129, R138, R140).
-/
namespace Sys2Proof.Machine

/-! ### The issuing fragment -/

/-- The issuing fragment with its group and team as working copies, the fragment as it stood at its instruction, and the lanes
active in the instruction (R29). -/
structure Ctx where
  s : State
  ref : FragRef
  t : Team
  g : Group
  f : Frag
  f0 : Frag
  act : List Nat

/-- The lanes active in the next instruction of a fragment: its slices' lanes that have not exited and that a window leaves. -/
def activeMask (g : Group) (f : Frag) : LaneMask :=
  sliceLanes f.slices &&& g.live &&& (match f.guard with
    | some (m, _) => m
    | none => BitVec.allOnes 32)

def Group.frag? (g : Group) (slice : Nat) : Option Frag := findBy (fun f => f.lowest == slice) g.frags

/-- The fragment that a reference names. -/
def State.ctx (s : State) (r : FragRef) : Option Ctx :=
  match s.team? r.team with
  | none => none
  | some t =>
    match t.live.groups[r.group]? with
    | none => none
    | some g =>
      match g.frag? r.slice with
      | none => none
      | some f => some ⟨s, r, t, g, f, f, lanesOf (activeMask g f)⟩

/-- The group with the fragment written back; a fragment with no slices is removed (R20). -/
def Ctx.group (c : Ctx) : Group :=
  { c.g with frags := (modBy (fun x => x.lowest == c.ref.slice) (fun _ => c.f) c.g.frags).filter fun f => f.slices != 0 }

def Ctx.team (c : Ctx) : Team := { c.t with live := { c.t.live with groups := c.t.live.groups.set c.ref.group c.group } }

/-- The state with the working copies written back. -/
def Ctx.commit (c : Ctx) : State := c.s.modTeam c.ref.team fun _ => c.team

/-- A change of the whole device from within an instruction. -/
def Ctx.viaState (c : Ctx) (f : State → State) : Ctx :=
  let s := f c.commit
  match s.ctx c.ref with
  | some x => { x with act := c.act, f0 := c.f0 }
  | none =>
    match s.team? c.ref.team with
    | some t => { c with s := s, t := t, g := t.live.groups.getD c.ref.group c.g }
    | none => { c with s := s }

def Ctx.launch (c : Ctx) : Option Launch := c.s.launchOf c.t
def Ctx.func (c : Ctx) : Option Func := c.s.funcOf c.t
def Ctx.part (c : Ctx) : Option Part := c.s.partOf c.t
def Ctx.root (c : Ctx) : Nat := (c.func.map (·.root)).getD 0
def Ctx.meta (c : Ctx) (f : Meta → Nat) : Nat := ((c.launch.bind (·.md)).map f).getD 0
def Ctx.coreOf (c : Ctx) : Option Core := c.s.core? c.t.core

/-- The lanes that an instruction computes in: with an s destination once for the group (R76). -/
def Ctx.lanes (c : Ctx) (d : Reg) : List Nat := if d.isS then c.act.take 1 else c.act

def Ctx.rd (c : Ctx) (r : Reg) (n l : Nat) : Nat := c.g.rd r n l
def Ctx.word (c : Ctx) (r : Reg) (l : Nat) : Word := c.g.reg r 0 l

/-- The lowest active lane. -/
def Ctx.low (c : Ctx) : Nat := c.act.headD 0

def Ctx.each {α : Type} (l : List α) (f : Ctx → α → Ctx) (c : Ctx) : Ctx := l.foldl f c

/-- The first write in a phase of an item is recorded in the Undo Log (R140). -/
def Ctx.note (c : Ctx) (k : UndoKey) : Ctx := { c with t := { c.t with undo := addNew k c.t.undo } }

def Ctx.noteReg (c : Ctx) (id : Nat) : Ctx :=
  c.note (if id < 32 then .sreg c.ref.group (id - 1) else .vreg c.ref.group (id - 32))

/-- Writing register `i` of a run; a write to z is discarded (R45). -/
def Ctx.wr1 (c : Ctx) (d : Reg) (i l : Nat) (x : Word) : Ctx :=
  match c.g.regId d i with
  | none => c
  | some id => { (c.noteReg id) with g := c.g.setId id l x }

/-- Writing a run of `n` registers in a lane. -/
def Ctx.wr (c : Ctx) (d : Reg) (n l x : Nat) : Ctx :=
  (List.range n).foldl (fun c i => c.wr1 d i l (BitVec.ofNat 32 (x / 2 ^ (32 * i)))) c

/-- The group rewritten as a whole; the working fragment follows it. -/
def Ctx.setGroup (c : Ctx) (g : Group) : Ctx := { c with g := g, f := (g.frag? c.ref.slice).getD c.f }

/-- The team rewritten as a whole; the working group and fragment follow it. -/
def Ctx.setTeam (c : Ctx) (t : Team) : Ctx :=
  let g := t.live.groups.getD c.ref.group c.g
  { c with t := t, g := g, f := (g.frag? c.ref.slice).getD c.f }

/-- A result in each lane that the destination asks for. -/
def Ctx.result (c : Ctx) (d : Reg) (n : Nat) (f : Nat → Nat) : Ctx := c.each (c.lanes d) fun c l => c.wr d n l (f l)

/-- Writing bits of a predicate in active lanes (R52). -/
def Ctx.setPred (c : Ctx) (p : Nat) (f : Nat → Bool) : Ctx :=
  if c.act = [] then c
  else { (c.note (.pred c.ref.group p)) with
    g := { c.g with p := put c.g.p p (c.act.foldl (fun m l => setLane m l (f l)) (look c.g.p p)) } }

/-- Floating-point events of the issuing group (R212). -/
def Ctx.events (c : Ctx) (fmt : Nat) (evs : List Nat) : Ctx :=
  { c with s := c.s.countEv c.t.launch c.t.idx c.ref.group fmt evs }

/-- A float result in each lane, with its events. -/
def Ctx.fresult (c : Ctx) (d : Reg) (n : Nat) (f : Nat → Nat × List (Nat × List Nat)) : Ctx :=
  c.each (c.lanes d) fun c l => (f l).2.foldl (fun c e => c.events e.1 e.2) (c.wr d n l (f l).1)

/-! ### The reuse latch (R51) -/

/-- What the latch keeps of an operand. -/
def Ctx.latched (c : Ctx) (a : Reg) (n : Nat) : Latch where
  reg := (c.g.regId a 0).getD 0
  width := n
  vals := (List.range n).flatMap fun i => (List.range 32).map fun l => (32 * i + l, c.g.reg a i l)

/-- Reading the a operand of an instruction that carries a reuse flag. -/
def Ctx.readA (c : Ctx) (r : Bool) (a : Reg) (n : Nat) : Ctx × (Nat → Nat) :=
  if !r then ({ c with g := { c.g with latch := none } }, fun l => c.rd a n l)
  else if c.act = [] then (c, fun _ => 0)
  else
    let old := c.latched a n
    match c.g.latch with
    | some k =>
      if k.reg = old.reg ∧ k.width = n then
        (c, fun l => (List.range n).foldl (fun x i =>
          x + 2 ^ (32 * i) * (((findBy (fun p => p.1 == 32 * i + l) k.vals).map Prod.snd).getD 0).toNat) 0)
      else ({ c with g := { c.g with latch := some old } }, fun l => c.rd a n l)
    | none => ({ c with g := { c.g with latch := some old } }, fun l => c.rd a n l)

/-! ### Outstanding operations (R71) -/

def Group.count (g : Group) (k : OpClass) : Nat := (g.ops.filter fun o => o.cls == k).length

/-- A new operation takes a name. -/
def Ctx.addOp (c : Ctx) (cls : OpClass) (fin : Bool) (kind : OpKind) : Ctx :=
  { c with s := { c.s with uid := c.s.uid + 1 }
           g := { c.g with ops := retireFrom [] (c.g.ops ++ [⟨c.s.uid, cls, c.t.phasen, fin, kind⟩]) } }

def Ctx.setSb (c : Ctx) (regs : List Nat) : Ctx := { c with g := { c.g with sb := addAllNew regs c.g.sb } }

/-- The names of a run's registers. -/
def Ctx.runIds (c : Ctx) (r : Reg) (n : Nat) : List Nat := (List.range n).filterMap fun i => c.g.regId r i

/-! ### The scratchpad and the team's lines -/

def Ctx.scrSize (c : Ctx) : Nat := c.meta (·.scr) * 16384

/-- The mirror region (R59). -/
def Ctx.inMirror (c : Ctx) (a n : Nat) : Bool :=
  let m := c.meta (·.mirOff)
  decide (a < m + c.meta (·.mirSize)) && decide (m < a + n) && decide (2 ≤ c.meta (·.tset))

/-- A scratchpad line that lies in a barrier object or in the mirror region leaves no record (R140). -/
def Ctx.noteScr (c : Ctx) (a n : Nat) : Ctx :=
  ((List.range ((a + n - 1) / 64 + 1 - a / 64)).map (a / 64 + ·)).foldl (fun c l =>
    if c.inMirror a n || c.t.bars.any (fun b => decide (b.addr ≤ a ∧ a + n ≤ b.addr + 16)) then c else c.note (.line l)) c

/-- Storing bytes into the team's scratchpad. -/
def Ctx.scrPut (c : Ctx) (a : Nat) (bs : List Byte) : Ctx :=
  if bs = [] then c
  else
    let d := c.noteScr a bs.length
    { d with t := d.t.onScr fun m => writeBytes m a bs }

/-! ### The end of a team (R43, R154, R184, R294) -/

/-- A group that has lanes left (R16, R20). -/
def Group.alive (g : Group) : Bool := !g.ended && g.live != 0

/-- A group still runs (R20). -/
def Team.running (t : Team) : Bool := t.live.groups.any fun g => !g.ended

/-- A team is killed: its contexts close, what the drain owns takes effect, its commands are dropped, and late replies
leave the Escort Landing Buffer when they come (R184); a saved team holds none of it. -/
def State.killTeam (s : State) (tid : Nat) : State :=
  match s.team? tid with
  | none => s
  | some t =>
    let s := (s.closeSeals tid).drainAll tid
    let escs := if t.saved then [] else t.live.groups.flatMap (·.escs)
    let s := s.modCore t.core fun k =>
      { k with
        elb := k.elb + ((escs.filter (·.faulted)).map (·.cost)).sum
        late := k.late ++ (escs.filter (!·.faulted)).map fun e => (e.op, e.cost) }
    { s with
      teams := s.teams.filter fun x => x.id != tid
      copies := s.copies.filter fun c => c.team != tid
      gaths := s.gaths.filter fun c => c.team != tid
      colls := s.colls.filter fun c => c.team != tid
      rses := s.rses.filter fun c => c.team != tid
      rreqs := s.rreqs.filter fun r => !(r.team == tid && (r.held || r.msg.kind == .pull)) }

/-- The running teams of a launch, but `keep`, are killed. -/
def State.killLaunch (s : State) (launch : Nat) : State :=
  ((s.teams.filter fun t => t.launch == launch && t.running).map (·.id)).foldl (fun s i => s.killTeam i) s

def LStatus.ended : LStatus → Bool
  | .failed _ | .done => true
  | _ => false

/-- A launch is to be reported failed with a status; the first failure stands (R4). -/
def State.failLaunch (s : State) (launch code : Nat) : State :=
  s.modLaunch launch fun l => if l.status.ended then l else { l with status := .failed code }

/-- A team faults (R43): it ends, the launch's running teams are killed, and the launch reports FAULTED with the first fault's
team and code. -/
def State.launchFault (s : State) (tid code : Nat) : State :=
  match s.team? tid with
  | none => s
  | some t =>
    let s := s.modLaunch t.launch fun l =>
      if l.status.ended then l else { l with status := .failed 1, fteam := BitVec.ofNat 32 t.idx, fcode := code }
    (s.killTeam tid).killLaunch t.launch

/-! ### Fragments (R25, R26) -/

def Frag.runnable (f : Frag) : Bool :=
  match f.wait with
  | .regang | .bar .. | .host => false
  | _ => true

/-- When no fragment of the group is runnable, the fragments parked at the lowest REGANG fuse and resume (R26). -/
def Group.regang (g : Group) : Group :=
  let parked := g.frags.filter fun f => f.wait == .regang
  if g.frags.any Frag.runnable then g
  else match (parked.map fun f => f.pc.toNat).min? with
    | none => g
    | some x =>
      let here := fun (f : Frag) => f.wait == .regang && f.pc.toNat == x
      let fs := g.frags.filter here
      let fused : Frag :=
        { pc := BitVec.ofNat 52 (x + 4), slices := fs.foldl (fun m f => m ||| f.slices) 0,
          age := ((fs.map (·.age)).min?).getD 0, guard := none, wait := .run, starve := 0, stage := 0 }
      { g with frags := fused :: g.frags.filter fun f => !here f }

/-! ### Traps (R164 to R170) -/

/-- What a trap reports; `pc` is TRAPPC where it is not the fragment's own address (R164). -/
structure Trap where
  code : Nat
  addr : Nat
  lanes : LaneMask
  aux0 : Word
  aux1 : Word
  aux2 : Word
  pc : Option VAddr
  deriving DecidableEq, Repr

/-- A trap with no auxiliary data. -/
def trapAt (code addr : Nat) (lanes : LaneMask) : Trap := ⟨code, addr, lanes, 0, 0, 0, none⟩

/-- The handler asks the host (R168). -/
def hostAssisted (tr : Trap) : Bool :=
  tr.code == tPage || tr.code == tStack || decide (0x800 ≤ tr.code) || (tr.code == tEscfault && tr.aux0.toNat % 4096 == tPage)

/-- A window after one more of its instructions (R29). -/
def stepGuard : Option (LaneMask × Nat) → Option (LaneMask × Nat)
  | some (m, n) => if n ≤ 1 then none else some (m, n - 1)
  | none => none

/-- The trap registers, the save area and the suspended window (R164, R165, R31, R429). -/
def Group.enter (g : Group) (f : Frag) (tr : Trap) (token : Option Word) : Group :=
  { g with
    trap := ⟨tr.code, tr.pc.getD f.pc, BitVec.ofNat 52 tr.addr, tr.lanes, tr.aux0, tr.aux1, tr.aux2⟩
    latch := none
    handler := some
      { slice := f.lowest, back := f.pc, backGuard := f.guard, saved := (List.range 8).map fun i => look g.s (23 + i),
        savedP := (List.range 2).map fun i => look g.p (6 + i), guard := if tr.pc.isSome then stepGuard f.guard else f.guard, token := token, retry := false, esc := none, todo := [] }
    frags := modBy (fun x => x.lowest == f.lowest) (fun x => { x with guard := none, wait := if token.isSome then .host else .run, stage := 0, replay := f.replay }) g.frags }

/-- Taking a trap: the one operation of R164. A trap of the handler's own instruction ends the team (R101); while another
fragment of the group is in a handler the fragment is held (R166). The firmware handler then acts by the code (R168): it
asks the host and parks (R170), or the launch faults (R43). -/
def Ctx.takeTrap (c : Ctx) (tr : Trap) : State :=
  match c.g.handler with
  | some h => if h.slice = c.f.lowest then c.commit.launchFault c.ref.team tr.code else c.commit
  | none =>
    if hostAssisted tr then
      let token := (c.func.map (·.token)).getD 0
      let d : Ctx := { c with g := c.g.enter c.f tr (some token), f := { c.f with guard := none, wait := .host, stage := 0 } }
      let s := (d.setGroup d.group.regang).commit
      match c.launch with
      | none => s
      | some l => s.postEvent l.vf l.seq tr.code 2 tr.addr c.t.idx c.ref.group (tr.aux0.toNat % 65536)
    else
      ({ c with g := c.g.enter c.f tr none, f := { c.f with guard := none, stage := 0 } } : Ctx).commit.launchFault c.ref.team tr.code

/-- A machine check of a group (R164, R166): a handler that runs is abandoned, and TRAPPC is the next unissued instruction of the
group's oldest fragment. -/
def Group.machineTrap (g : Group) : Group :=
  match findBy (fun f : Frag => some f.age == (g.frags.map (·.age)).min?) g.frags with
  | none => g
  | some f => { g with handler := none, latch := none, trap := ⟨tMchk, f.pc, 0, g.live, 0, 0, 0⟩ }

/-- The return from a trap (R165, R429): save area, window and the program counter of TRAPPC. -/
def Ctx.returnFromTrap (c : Ctx) : Ctx :=
  match c.g.handler with
  | none => c
  | some h =>
    { c with
      g := { c.g with
        handler := none
        s := putAll c.g.s (h.saved.zipIdx.map fun p => (23 + p.2, p.1))
        p := putAll c.g.p (h.savedP.zipIdx.map fun p => (6 + p.2, p.1)) }
      f := { c.f with pc := c.g.trap.pc, guard := h.guard, wait := .run } }

/-! ### Issue (R99) -/

/-- What an instruction comes to: a trap, a wait at issue, its effect, or a trap that leaves the effect of earlier issues (R253). -/
inductive Res where
  | trap (t : Trap)
  | wait
  | ok (c : Ctx)
  | part (c : Ctx) (t : Trap)

/-- The group is in a handler that another fragment runs (R167). -/
def Ctx.held (c : Ctx) : Bool :=
  match c.g.handler with
  | some h => h.slice != c.f.lowest
  | none => false

def Ctx.inHandler (c : Ctx) : Bool :=
  match c.g.handler with
  | some h => h.slice == c.f.lowest
  | none => false

/-- ILLEGAL with a reason (R100), for an instruction's words. -/
def illegal (words : List Nat) (reason : Nat) (lanes : LaneMask) : Trap :=
  ⟨tIllegal, 0, lanes, BitVec.ofNat 32 (words.getD 0 0), BitVec.ofNat 32 (words.getD 1 0), BitVec.ofNat 32 reason, none⟩

def Ctx.mask (c : Ctx) : LaneMask := maskOf c.act

/-- ILLEGAL, reason 7: a dynamic condition. -/
def Ctx.dynamic (c : Ctx) (i : Instr) : Trap := illegal (encode i) 7 c.mask

/-- A privileged instruction (R54, R429). -/
def privileged : Instr → Bool
  | .get _ n => spHandler n.toNat
  | .put _ n => n == 0x021
  | .rft => true
  | _ => false

/-- Checks 2 to 4 of R99: encoding and window, role, privilege. -/
def Ctx.check (c : Ctx) (i : Instr) : Option Trap :=
  match lowestOf [i.reason, bad (c.f.guard.isSome && !windowOk i) 6] with
  | some r => some (illegal (encode i) r c.mask)
  | none =>
    if (instrRole i).any (fun r => r != c.g.role) then some (trapAt tRole 0 c.mask)
    else if privileged i && !c.inHandler then some (trapAt tPriv 0 c.mask)
    else none

/-- An acquiring load or a remote atomic of the group is under way: every later instruction waits for it (R147, R252, R387). -/
def Ctx.ordered (c : Ctx) : Bool :=
  c.g.ops.any fun o => !o.fin && match o.kind with
    | .load l => l.sem == .acq
    | .esc h => c.g.escs.any fun e => e.op == h && e.sem == .acq && !e.faulted
    | .remote l _ a => l.sem == .acq || a.isSome
    | _ => false

/-- The accesses of an operation that are still to be read: those of a load or of an escort that has not faulted. -/
def Group.toRead (g : Group) (o : Op) : List LaneAcc × Nat :=
  match o.kind with
  | .load k => (k.lanes, k.nb)
  | .esc h => match findBy (fun e : Escort => e.op == h && !e.faulted) g.escs with
    | some e => (e.pas, e.nb)
    | none => ([], 0)
  | _ => ([], 0)

def rangeMeets (a n b m : Nat) : Bool := decide (a < b + m) && decide (b < a + n)

/-- A load or escort of the group is still to read some of these bytes. -/
def Group.unread (g : Group) (a n : Nat) : Bool :=
  g.ops.any fun o => !o.fin && (g.toRead o).1.any fun x => rangeMeets x.addr (g.toRead o).2 a n

/-- An outstanding operation of the group has still to use what it reads of these scratchpad bytes: one of the Matrix Array, or a SEALA. -/
def Group.readsScr (g : Group) (a n : Nat) : Bool :=
  g.ops.any fun o => !o.fin && match o.kind with
    | .mx m => m.reads.any fun r => rangeMeets r.1 r.2 a n
    | .seala _ false b len _ _ => rangeMeets b len a n
    | _ => false

/-- An operation of rows AT and RA of the matrices that is under way: an ATOME, RFLUSH or RFENCEF (a returning atomic of memory is done
at its issue, and a RATOM is met by `Ctx.ordered`). -/
def Group.atomBusy (g : Group) : Bool :=
  g.escs.any (fun e => e.atom.isSome && !e.faulted) || g.ops.any fun o => !o.fin && match o.kind with
    | .remote l _ none => l.dst == []
    | _ => false

/-- A load, remote operation, escort or reflective store that is under way. -/
def Op.reads (o : Op) : Bool :=
  !o.fin && match o.kind with
    | .load _ | .remote .. | .esc _ | .refl .. => true
    | _ => false

/-- An engine command that is under way. -/
def Op.engine (o : Op) : Bool := !o.fin && o.kind != .stored && (o.cls == .cp || o.cls == .ga || o.cls == .co)

/-- A remote load that is under way. -/
def Op.remoteLoad (o : Op) : Bool :=
  !o.fin && match o.kind with
    | .remote l _ _ => l.dst != []
    | _ => false

/-- The cells K of the matrices that issue keeps (R147, R148; log 51): an operation that they name waits for the operations of rows AT
and RA; one of columns AT, RA, PB and PR waits for the reads and reflective stores of the group; one of AT and RA waits for its engine
commands, and an engine command for its remote loads. -/
def Ctx.kept (c : Ctx) (i : Instr) : Bool :=
  (memOrdered i && c.g.atomBusy) || (keepsEarlier i && c.g.ops.any Op.reads) || (keepsEngines i && c.g.ops.any Op.engine) ||
    (engineCommand i && c.g.ops.any Op.remoteLoad)

/-- The ring of the team (R65). -/
def Ctx.ring (c : Ctx) : Ring := ringOf c.t.live.scr (c.meta (·.cpring)) c.scrSize

/-- A CPYP that no wait could serve traps before any wait (R68, R99): the ring's header is invalid, or it has fewer slots than the CPYP
posts. -/
def Ctx.hopeless (c : Ctx) (i : Instr) : Bool :=
  match i with
  | .cpyp d => c.act != [] && (!c.ring.ok || decide (c.ring.count < (c.lanes d).length))
  | _ => false

/-- The A run of an MMA waits for loads into it, unless the reuse latch serves it (R49, R217). -/
def Ctx.runBusy (c : Ctx) (r : Bool) (a : Reg) (n : Nat) : Bool :=
  let hit := r && c.g.latch.any fun k => k.reg == (c.g.regId a 0).getD 0 && k.width == n
  !hit && (c.runIds a n).any fun id => c.g.sb.contains id

/-- An s destination that is written even with no lane active waits for its scoreboard bit (R49). -/
def Ctx.busy (c : Ctx) (d : Reg) (n : Nat) : Bool := d.isS && (c.runIds d n).any fun id => c.g.sb.contains id

/-- WAITC (R72): every class with a threshold below 7 has no more than that many operations outstanding. -/
def waitcOk (o : WaitcOps) (g : Group) : Bool :=
  [(o.ld, OpClass.ld), (o.st, .st), (o.cp, .cp), (o.mx, .mx), (o.ga, .ga), (o.co, .co), (o.es, .es), (o.rm, .rm)].all fun p =>
    p.1 == 7 || decide (g.count p.2 ≤ p.1.toNat)

/-- A role's budget (R12). -/
def Team.budget (t : Team) (r : Role) : Nat := t.live.budgets.getD r.toNat 0

/-- RQXFER names the transfer that is pending, or none is (R17). -/
def Team.sameXfer (t : Team) (o : RqxferOps) : Bool :=
  t.live.quota.all fun q => q.src == o.src && q.dst == o.dst && q.cnt == o.cnt.toNat

/-- The budgets that RQXFER leaves lie within their limits (R14). -/
def Team.xferFits (t : Team) (o : RqxferOps) : Bool :=
  decide (8 * o.cnt.toNat + 96 ≤ t.budget o.src ∧ t.budget o.dst + 8 * o.cnt.toNat ≤ 480)

/-- The limit that an RQXFER leaves its group (R15). -/
def Team.xferLimit (t : Team) (o : RqxferOps) : Nat := t.budget o.src - 8 * o.cnt.toNat

/-- RQXFER waits once its checks of R14 up to there have passed: for the same transfer that is pending (step 4), then for the registers
that it releases (R15, step 1). -/
def Ctx.xferWaits (c : Ctx) (o : RqxferOps) : Bool :=
  c.t.live.groups.any (fun g => g.role == o.dst) && c.t.sameXfer o &&
    if c.t.live.quota.isSome && c.g.xferDone then true
    else c.t.xferFits o && c.g.sb.any fun id => decide (vName (c.t.xferLimit o) ≤ id)

/-- The interlocks that an instruction's fields do not give by themselves: the run that an MMA's format block asks for, room in the copy
ring and in CP for every entry of a CPYP (R68, R99), an s register that is written even with no lane active, and what WAITC and RQXFER wait
for (R15, R72). -/
def Ctx.interlock (c : Ctx) (i : Instr) : Bool :=
  match i with
  | .mma o => c.act != [] && c.runBusy o.r o.a (mmaRun (bits (c.rd o.fmt 4 0) 0 8))
  | .cpyp d =>
    let r := c.ring
    let n := (c.lanes d).length
    c.act != [] && (decide (r.count < (r.tail + 2 ^ 64 - r.head) % 2 ^ 64 + n) || decide (64 < c.g.count .cp + n))
  | .reduce o => c.busy o.d o.ty.regs
  | .vote o => c.busy o.d 1
  | .compress o | .expand o => c.busy o.b 1
  | .waitc o => !waitcOk o c.g
  | .rqxfer o => c.xferWaits o
  | _ => false

/-- Check 5 of R99: a named register is scoreboarded (R49), or the counter has no room (R71). An instruction with no active
lane reads and writes no operand and counts nothing (R307; DEDUCED, log 22). -/
def Ctx.blocked (c : Ctx) (i : Instr) : Bool :=
  c.ordered || c.kept i || c.interlock i || c.act != [] &&
    ((instrRuns i).any (fun r => (c.runIds r.1 r.2).any fun id => c.g.sb.contains id) ||
      (match instrClass i with
       | some k => decide (64 < c.g.count k + 1)
       | none => false))

/-- The fragment past its instruction: the pc and the window's count move on (R29). Only its own next issue ends the replay of an access
that faulted, not its handler's RFT (R431). -/
def Ctx.advance (c : Ctx) (i : Instr) : Ctx :=
  { c with f := { c.f with
      pc := c.f.pc + BitVec.ofNat 52 (4 * (encode i).length)
      guard := stepGuard c.f.guard
      replay := c.f.replay && c.inHandler } }

/-- The fragment at a load or store that traps: until it issues again, the access has no effect (R431). -/
def Ctx.faulted (c : Ctx) (i : Instr) : Ctx :=
  match instrClass i with
  | some .ld | some .st => { c with f := { c.f with replay := true } }
  | _ => c

def undoCost : UndoKey → Nat
  | .vreg .. => 136
  | .sreg .. => 12
  | .line _ => 72
  | .seg .. => 264
  | .pred .. => 12

/-- The lines of the Phase Buffer that a team has not published (R129). -/
def Team.lines (t : Team) : Nat :=
  (t.pb.flatMap PbItem.lines).eraseDups.length +
    (t.rsts.flatMap fun r => r.lanes.map fun l => (r.peer, lineOf l.off)).eraseDups.length

def Ctx.fitsLines (c : Ctx) : Bool := decide (c.t.lines ≤ 64 * c.t.live.groups.length)
def Ctx.fitsUndo (c : Ctx) : Bool := decide ((c.t.undo.map undoCost).sum ≤ c.meta (·.und) * 16384)

/-- A boundary of the team taken from within an instruction. -/
def Ctx.boundary (c : Ctx) (sc : Scope) (dur refresh : Bool) (waiter : Option (Nat × Nat)) : Ctx :=
  c.viaState fun s => s.boundary c.ref.team sc dur refresh waiter

/-- The boundary of ST.REL before the instruction, whose restart point is the instruction itself (R138); the fragment waits for its
publish (R136). -/
def Ctx.boundaryBefore (c : Ctx) (sc : Scope) : Ctx :=
  let d := ({ c with f := c.f0 } : Ctx).boundary sc false false (some (c.ref.group, c.ref.slice))
  { d with f := if d.t.pub.isSome then { c.f with wait := .pub } else c.f }

/-- Running an instruction's body where the Phase Buffer and the Undo Log must have room (R138, R140): a boundary before it
where they have none, which stands though the instruction then waits for the publish, and records left out where an empty reserve
would not hold them (a boundary follows directly). -/
def Ctx.settle (c : Ctx) (i : Instr) (body : Ctx → Res) : Res :=
  match body (c.advance i) with
  | .ok d =>
    if d.fitsLines && d.fitsUndo then .ok d
    else if c.t.pub.isSome then .wait
    else
      let b := c.boundary .device false false none
      match body (b.advance i) with
      | .ok d => if d.fitsUndo then .ok d else .ok { d with t := { d.t with undo := [], undoAfter := true } }
      | .wait => .ok b
      | r => r
  | r => r

/-- An instruction issues (R99). `early` are the dynamic checks made before any wait. -/
def issue (i : Instr) (early : Ctx → Option Trap) (body : Ctx → Res) (s : State) : Host.Outcome State Fault Refusal :=
  match s.cur.bind s.ctx with
  | none => .fault .noIssuer
  | some c =>
    if c.held then .next s
    else if c.t.undoAfter then .next (if c.t.pub.isSome then s else s.boundary c.ref.team .device false false none)
    else
      match c.check i with
      | some tr => .next (c.takeTrap tr)
      | none =>
        match early c with
        | some tr => .next (c.takeTrap tr)
        | none =>
          if c.blocked i then .next s
          else
            match c.settle i body with
            | .trap tr => .next ((c.faulted i).takeTrap tr)
            | .wait => .next s
            | .ok d => .next d.commit
            | .part d tr => .next (({ d with f := c.f0 } : Ctx).takeTrap tr)

/-- No early check. -/
def noEarly (_ : Ctx) : Option Trap := none

/-- An instruction that neither traps nor waits of its own. -/
def plain (i : Instr) (body : Ctx → Ctx) (s : State) : Host.Outcome State Fault Refusal := issue i noEarly (fun c => .ok (body c)) s

end Sys2Proof.Machine
end

