-- ==== Sys2Proof/Machine/Alu.lean ====
section
/-!
DEFINITION. Class 00 arithmetic, the unary family, conversion and moves, and the immediate forms of class 01 (chapters 19 to 23,
under R307).
-/
namespace Sys2Proof.Machine

/-- A result with its events, by format number. -/
abbrev Val := Nat × List (Nat × List Nat)

/-- The float format of a type. -/
def tyFmt : Ty → Fmt
  | .f64 => .f64
  | .f16x2 => .f16
  | .bf16x2 => .bf16
  | _ => .f32

/-- Bits of an integer type. -/
def tyBits : Ty → Nat
  | .s64 | .n64 | .f64 => 64
  | _ => 32

def tySigned : Ty → Bool
  | .s32 | .s64 => true
  | _ => false

/-- A float operation on whole values, or on the two elements of a packed one (R79). -/
def floatVal (t : Ty) (f : Fmt → List Nat → FRes) (xs : List Nat) : Val :=
  let m := tyFmt t
  if t.isPacked then
    let lo := f m (xs.map (· % 65536))
    let hi := f m (xs.map (· / 65536 % 65536))
    (lo.1 + 65536 * hi.1, [(m.code, lo.2), (m.code, hi.2)])
  else
    let r := f m (xs.map (· % 2 ^ m.width))
    (r.1, [(m.code, r.2)])

/-- An operation on two operands: integer types by one function, float types by another. -/
def binVal (t : Ty) (i : Nat → Nat → Nat) (f : Fmt → Nat → Nat → FRes) (x y : Nat) : Val :=
  if t.isInt then (i x y % 2 ^ tyBits t, []) else floatVal t (fun m l => f m (l.getD 0 0) (l.getD 1 0)) [x, y]

def unVal (t : Ty) (i : Nat → Nat) (f : Fmt → Nat → FRes) (x : Nat) : Val :=
  if t.isInt then (i x % 2 ^ tyBits t, []) else floatVal t (fun m l => f m (l.getD 0 0)) [x]

/-- The body of a three-register row: operand a through the reuse latch (R51), operand b of `nb` registers. -/
def bodyAlu3 (o : Alu3) (nb : Nat) (f : Nat → Nat → Val) (c : Ctx) : Ctx :=
  let r := c.readA o.r o.a o.ty.regs
  r.1.fresult o.d o.ty.regs fun l => f (r.2 l) (c.rd o.b nb l)

/-- A three-register row that also reads d. -/
def bodyAcc3 (o : Alu3) (nb : Nat) (f : Nat → Nat → Nat → Val) (c : Ctx) : Ctx :=
  let r := c.readA o.r o.a o.ty.regs
  r.1.fresult o.d o.ty.regs fun l => f (r.2 l) (c.rd o.b nb l) (c.rd o.d o.ty.regs l)

/-- A unary row with a destination of `nd` registers. -/
def bodyAlu2 (o : Alu2) (nd : Nat) (f : Nat → Val) (c : Ctx) : Ctx :=
  let r := c.readA o.r o.a o.ty.regs
  r.1.fresult o.d nd fun l => f (r.2 l)

/-- Integers only. -/
def intVal (t : Ty) (f : Nat → Nat → Nat) (x y : Nat) : Val := (f x y % 2 ^ tyBits t, [])

/-- Wrapping subtraction. -/
def subNat (n x y : Nat) : Nat := (x + (2 ^ n - y % 2 ^ n)) % 2 ^ n

def execAdd (o : Alu3) (s : State) := plain (.add o) (bodyAlu3 o o.ty.regs (binVal o.ty (· + ·) Fmt.add)) s
def execSub (o : Alu3) (s : State) := plain (.sub o) (bodyAlu3 o o.ty.regs (binVal o.ty (subNat (tyBits o.ty)) Fmt.sub)) s
def execMul (o : Alu3) (s : State) := plain (.mul o) (bodyAlu3 o o.ty.regs (binVal o.ty (· * ·) Fmt.mul)) s
def execMulh (o : Alu3) (s : State) :=
  plain (.mulh o) (bodyAlu3 o o.ty.regs (intVal o.ty (intMulh (tySigned o.ty) (tyBits o.ty)))) s

/-- FMA (R378): 0 × ∞ counts invalid even when d is NaN. -/
def execFma (o : Alu3) (s : State) :=
  plain (.fma o) (bodyAcc3 o o.ty.regs fun x y z =>
    if o.ty.isInt then ((x * y + z) % 2 ^ tyBits o.ty, [])
    else floatVal o.ty (fun m l => m.fma (l.getD 0 0) (l.getD 1 0) (l.getD 2 0)) [x, y, z]) s

/-- The smaller or larger of two integers. -/
def intPick (mx signed : Bool) (n x y : Nat) : Nat :=
  let lt := decide (asInt signed n x < asInt signed n y)
  if lt == mx then y else x

def execMin (o : Alu3) (s : State) :=
  plain (.min o) (bodyAlu3 o o.ty.regs (binVal o.ty (intPick false (tySigned o.ty) (tyBits o.ty)) (fun m => m.minmax false))) s
def execMax (o : Alu3) (s : State) :=
  plain (.max o) (bodyAlu3 o o.ty.regs (binVal o.ty (intPick true (tySigned o.ty) (tyBits o.ty)) (fun m => m.minmax true))) s

def execAnd (o : Alu3) (s : State) := plain (.and o) (bodyAlu3 o o.ty.regs (intVal o.ty Nat.land)) s
def execOr (o : Alu3) (s : State) := plain (.or o) (bodyAlu3 o o.ty.regs (intVal o.ty Nat.lor)) s
def execXor (o : Alu3) (s : State) := plain (.xor o) (bodyAlu3 o o.ty.regs (intVal o.ty Nat.xor)) s

/-- The bitwise complement in `n` bits. -/
def notNat (n x : Nat) : Nat := 2 ^ n - 1 - x % 2 ^ n

def execAndn (o : Alu3) (s : State) :=
  plain (.andn o) (bodyAlu3 o o.ty.regs (intVal o.ty fun x y => Nat.land x (notNat (tyBits o.ty) y))) s

/-- A right shift that fills with the sign bit for S types (R444). -/
def shrNat (signed : Bool) (n x k : Nat) : Nat := if signed then wrapTo n (toSigned n x / (2 ^ k : Nat)) else x / 2 ^ k

def execShl (o : Alu3) (s : State) := plain (.shl o) (bodyAlu3 o 1 (intVal o.ty fun x y => x * 2 ^ (y % tyBits o.ty))) s
def execShr (o : Alu3) (s : State) :=
  plain (.shr o) (bodyAlu3 o 1 (intVal o.ty fun x y => shrNat (tySigned o.ty) (tyBits o.ty) x (y % tyBits o.ty))) s

/-- A left rotation (R410). -/
def rotNat (n x k : Nat) : Nat := x * 2 ^ (k % n) % 2 ^ n + x % 2 ^ n / 2 ^ (n - k % n)

def execRot (o : Alu3) (s : State) := plain (.rot o) (bodyAlu3 o 1 (intVal o.ty (rotNat (tyBits o.ty)))) s

def execDiv (o : Alu3) (s : State) :=
  plain (.div o) (bodyAlu3 o o.ty.regs (binVal o.ty (intDiv (tySigned o.ty) (tyBits o.ty)) Fmt.div)) s
def execRem (o : Alu3) (s : State) :=
  plain (.rem o) (bodyAlu3 o o.ty.regs (intVal o.ty (intRem (tySigned o.ty) (tyBits o.ty)))) s

/-- The effective length of a bit field (R335). -/
def fieldLen (w b : Nat) : Nat := if w ≤ b % 256 then 0 else min (b / 256 % 256) (w - b % 256)

def bfeVal (t : Ty) (x b : Nat) : Nat :=
  let n := fieldLen (tyBits t) b
  let f := bits x (b % 256) n
  if n = 0 then 0 else if tySigned t then wrapTo (tyBits t) (toSigned n f) else f

def bfiVal (t : Ty) (x b d : Nat) : Nat :=
  let p := b % 256
  let n := fieldLen (tyBits t) b
  if n = 0 then d else d % 2 ^ p + 2 ^ p * (x % 2 ^ n) + d / 2 ^ (p + n) * 2 ^ (p + n)

def execBfe (o : Alu3) (s : State) := plain (.bfe o) (bodyAlu3 o 1 (intVal o.ty (bfeVal o.ty))) s
def execBfi (o : Alu3) (s : State) := plain (.bfi o) (bodyAcc3 o 1 fun x b d => (bfiVal o.ty x b d % 2 ^ tyBits o.ty, [])) s

/-! ### The unary family -/

/-- The sign bit cleared or inverted, nothing else (R309, R407). -/
def signClear (m : Fmt) (x : Nat) : FRes := (x % 2 ^ (m.width - 1), [])
def signFlip (m : Fmt) (x : Nat) : FRes := (Nat.xor x (2 ^ (m.width - 1)), [])

def execAbs (o : Alu2) (s : State) :=
  plain (.abs o) (bodyAlu2 o o.ty.regs (unVal o.ty (fun x => (toSigned (tyBits o.ty) x).natAbs) signClear)) s
def execNeg (o : Alu2) (s : State) :=
  plain (.neg o) (bodyAlu2 o o.ty.regs (unVal o.ty (subNat (tyBits o.ty) 0) signFlip)) s
def execNot (o : Alu2) (s : State) := plain (.not o) (bodyAlu2 o o.ty.regs fun x => (notNat (tyBits o.ty) x, [])) s

def popNat (n x : Nat) : Nat := ((List.range n).map fun i => bits x i 1).sum
def clzNat (n x : Nat) : Nat := if x % 2 ^ n = 0 then n else n - 1 - Nat.log2 (x % 2 ^ n)
def revNat (n x : Nat) : Nat := ((List.range n).map fun i => bits x i 1 * 2 ^ (n - 1 - i)).sum

def execPopc (o : Alu2) (s : State) := plain (.popc o) (bodyAlu2 o 1 fun x => (popNat (tyBits o.ty) x, [])) s
def execClz (o : Alu2) (s : State) := plain (.clz o) (bodyAlu2 o 1 fun x => (clzNat (tyBits o.ty) x, [])) s
def execBrev (o : Alu2) (s : State) := plain (.brev o) (bodyAlu2 o o.ty.regs fun x => (revNat (tyBits o.ty) x, [])) s
def execSqrt (o : Alu2) (s : State) := plain (.sqrt o) (bodyAlu2 o o.ty.regs (unVal o.ty id Fmt.sqrt)) s
def execRcp (o : Alu2) (s : State) := plain (.rcp o) (bodyAlu2 o o.ty.regs (unVal o.ty id Fmt.rcp)) s

/-- A function of R206, of the whole value or of each element. -/
def fnVal (fn : Fn) (t : Ty) (x : Nat) : Val :=
  floatVal t (fun m l => if t.isPacked then fnElem fn m (l.getD 0 0) else fnF32 fn (l.getD 0 0)) [x]

def execRsq (o : Alu2) (s : State) := plain (.rsq o) (bodyAlu2 o o.ty.regs (fnVal .rsq o.ty)) s
def execEx2 (o : Alu2) (s : State) := plain (.ex2 o) (bodyAlu2 o o.ty.regs (fnVal .ex2 o.ty)) s
def execLg2 (o : Alu2) (s : State) := plain (.lg2 o) (bodyAlu2 o o.ty.regs (fnVal .lg2 o.ty)) s
def execSin (o : Alu2) (s : State) := plain (.sin o) (bodyAlu2 o o.ty.regs (fnVal .sin o.ty)) s
def execCos (o : Alu2) (s : State) := plain (.cos o) (bodyAlu2 o o.ty.regs (fnVal .cos o.ty)) s
def execTanh (o : Alu2) (s : State) := plain (.tanh o) (bodyAlu2 o o.ty.regs (fnVal .tanh o.ty)) s

def execRndiRn (o : Alu2) (s : State) := plain (.rndiRn o) (bodyAlu2 o o.ty.regs (unVal o.ty id fun m => m.rndi .rn)) s
def execRndiRz (o : Alu2) (s : State) := plain (.rndiRz o) (bodyAlu2 o o.ty.regs (unVal o.ty id fun m => m.rndi .rz)) s
def execRndiRd (o : Alu2) (s : State) := plain (.rndiRd o) (bodyAlu2 o o.ty.regs (unVal o.ty id fun m => m.rndi .rd)) s
def execRndiRu (o : Alu2) (s : State) := plain (.rndiRu o) (bodyAlu2 o o.ty.regs (unVal o.ty id fun m => m.rndi .ru)) s
def execFclass (o : Alu2) (s : State) :=
  plain (.fclass o) (bodyAlu2 o 1 fun x => ((tyFmt o.ty).classify (x % 2 ^ (tyFmt o.ty).width), [])) s

/-! ### Compare, select, convert, move -/

/-- CMP (R352): a condition of each active lane, and one invalid event for a signalling NaN. -/
def cmpVal (o : CmpOps) (x y : Nat) : Bool × List Nat :=
  if o.ty.isInt then (intCond o.c (tySigned o.ty) (tyBits o.ty) x y, [])
  else
    let m := tyFmt o.ty
    (fcond o.c (m.val x) (m.val y), sigEv [m.val x, m.val y])

def execCmp (o : CmpOps) (s : State) :=
  plain (.cmp o) (fun c =>
    let r := c.readA o.r o.a o.ty.regs
    let v := fun l => cmpVal o (r.2 l) (c.rd o.b o.ty.regs l)
    (r.1.setPred o.p (fun l => (v l).1)).each c.act fun d l => d.events (tyFmt o.ty).code (v l).2) s

def execCmpi (o : CmpiOps) (s : State) :=
  plain (.cmpi o) (fun c => c.setPred o.p fun l => immCond o.c (c.word o.a l) (immWord o.imm)) s

/-- SEL (R441): with an s destination by the lowest active lane's predicate. -/
def execSel (o : SelOps) (s : State) :=
  plain (.sel o) (fun c =>
    let r := c.readA o.r o.a 1
    r.1.result o.d 1 fun l => if (c.g.pred o.p).getLsbD l then r.2 l else c.rd o.b 1 l) s

/-- CVT (R361); SR steps the lane's generator once (R204). -/
def cvtLane (o : CvtOps) (old : Ctx) (c : Ctx) (l : Nat) : Ctx :=
  let seed := if o.rm = .sr then xorshift (look c.g.rng l) else look c.g.rng l
  let r := cvt o.dt o.st o.rm (draw seed) (old.rd o.a o.st.regs l)
  let c := if o.rm = .sr then { c with g := { c.g with rng := put c.g.rng l seed } } else c
  (c.wr o.d o.dt.regs l r.1).events r.2.2 r.2.1

def execCvt (o : CvtOps) (s : State) := plain (.cvt o) (fun c => c.each (c.lanes o.d) (cvtLane o c)) s

def execLea (o : LeaOps) (s : State) :=
  plain (.lea o) (fun c =>
    let r := c.readA o.r o.a 2
    r.1.result o.d 2 fun l => wrapTo 64 ((r.2 l : Int) + (c.word o.b l).toInt * 2 ^ o.sh.val)) s

def execMov (o : MovOps) (s : State) :=
  plain (.mov o) (fun c =>
    let r := c.readA o.r o.a o.w.regs
    r.1.result o.d o.w.regs fun l => r.2 l) s

/-- Byte k of a word as S8 or N8 (R366). -/
def byteInt (signed : Bool) (x k : Nat) : Int := asInt signed 8 (bits x (8 * k) 8)

def dot4Val (m : DotMode) (x y d : Nat) : Nat :=
  let sx := m != .nn
  let sy := m == .ss
  wrapTo 32 ((d : Int) + (((List.range 4).map fun k => byteInt sx x k * byteInt sy y k).sum))

def execDot4 (o : Dot4Ops) (s : State) :=
  plain (.dot4 o) (fun c =>
    let r := c.readA o.r o.a 1
    r.1.result o.d 1 fun l => dot4Val o.m (r.2 l) (c.rd o.b 1 l) (c.rd o.d 1 l)) s

/-! ### Immediates (R316, R402, R403, R410, R437, R452) -/

def bodyImm (d a : Reg) (f : Word → Word) (c : Ctx) : Ctx := c.result d 1 fun l => (f (c.word a l)).toNat

def execAddi (o : ImmOps) (s : State) := plain (.addi o) (bodyImm o.d o.a (· + immWord o.imm)) s
def execAndi (o : ImmOps) (s : State) := plain (.andi o) (bodyImm o.d o.a (· &&& immWord o.imm)) s
def execOri (o : ImmOps) (s : State) := plain (.ori o) (bodyImm o.d o.a (· ||| immWord o.imm)) s
def execXori (o : ImmOps) (s : State) := plain (.xori o) (bodyImm o.d o.a (· ^^^ immWord o.imm)) s
def execShli (o : ShImmOps) (s : State) := plain (.shli o) (bodyImm o.d o.a (· <<< o.amt.toNat)) s
def execShri (o : ShImmOps) (s : State) := plain (.shri o) (bodyImm o.d o.a (· >>> o.amt.toNat)) s
def execSari (o : ShImmOps) (s : State) := plain (.sari o) (bodyImm o.d o.a (·.sshiftRight o.amt.toNat)) s
def execMovi (d : Reg) (imm : BitVec 18) (s : State) := plain (.movi d imm) (fun c => c.result d 1 fun _ => (immWord imm).toNat) s
def execMovl (d : Reg) (lit : Word) (s : State) := plain (.movl d lit) (fun c => c.result d 1 fun _ => lit.toNat) s

end Sys2Proof.Machine
end

