-- ==== Sys2Proof/Machine/Mem.lean ====
section
/-!
DEFINITION. Loads and stores (R57 to R60, R64, R88, R89, R129 to R134, R385 to R388, R447 to R450), the landings of loads and
of reflective stores, PREF (R416), CCTL (R348) and FENCE (R146, R376).
-/
namespace Sys2Proof.Machine

/-! ### Addresses and checks -/

def elemBytes : ElSz → Nat
  | .b8 => 1
  | .b16 => 2
  | .b32 => 4
  | .b64 => 8

/-- The transfer bytes of R88. -/
def xferBytes (w : RunW) (sz : ElSz) : Nat := if sz.isSub then elemBytes sz else 4 * w.regs

/-- The offset that x adds. -/
def memOffset (o : MemOps) : Nat := if o.sz.isSub then (o.x.toNat % 8) * elemBytes o.sz else o.x.toNat * xferBytes o.w o.sz

/-- Address operands: 52-bit virtual addresses in a pair, scratchpad and private offsets in one register. -/
def Ctx.vaOf (c : Ctx) (a : Reg) (off l : Nat) : Nat := (c.rd a 2 l + off) % 2 ^ 52
def Ctx.offOf (c : Ctx) (a : Reg) (off l : Nat) : Nat := (c.rd a 1 l + off) % 2 ^ 32

/-- The lanes of a trap of the lowest faulting lane (R64): each lane with its address and its code, if any. -/
def faultOf (l : List (Nat × Nat × Option Nat)) : Option Trap :=
  match l.find? (fun e => e.2.2.isSome) with
  | none => none
  | some (_, a, k) => some (trapAt (k.getD 0) a (maskOf ((l.filter fun e => e.2.2 == k).map (·.1))))

/-- A misaligned lane (R386). -/
def alignOf (n : Nat) (eas : List (Nat × Nat)) : Option Trap :=
  faultOf (eas.map fun e => (e.1, e.2, if e.2 % n = 0 then none else some tAlign))

/-- One access of each lane under translation: lane, physical address, INV page. -/
def Ctx.translateLanes (c : Ctx) (k : Access) (eas : List (Nat × Nat)) : Except Trap (List (Nat × Nat × Bool)) :=
  let rs := eas.map fun e => (e.1, e.2, c.s.access c.root k e.2)
  match faultOf (rs.map fun e => (e.1, e.2.1, match e.2.2 with
      | .error x => some x
      | .ok _ => none)) with
  | some t => .error t
  | none => .ok (rs.filterMap fun e => match e.2.2 with
      | .ok r => some (e.1, r.1, r.2)
      | .error _ => none)

/-- The number of a lane within its launch (R60, R126). -/
def Ctx.globalLane (c : Ctx) (l : Nat) : Nat := 32 * (c.t.idx * c.t.live.groups.length + c.ref.group) + l

/-- Private accesses (R60): past the mapped limit STACK, past the stride PERM, then translation. -/
def Ctx.privateLanes (c : Ctx) (k : Access) (offs : List (Nat × Nat)) : Except Trap (List (Nat × Nat × Bool)) :=
  let base := (c.func.map (·.privBase)).getD 0
  let stride := (c.func.map (·.privStride)).getD 0
  let limit := (c.func.map (·.privLimit)).getD 0
  let va := fun (e : Nat × Nat) => (base + c.globalLane e.1 * stride + e.2) % 2 ^ 52
  match faultOf (offs.map fun e => (e.1, va e,
      if stride ≤ e.2 then some tPerm
      else if limit ≤ e.2 then some tStack
      else match c.s.access c.root k (va e) with
        | .error x => some x
        | .ok _ => none)) with
  | some t => .error t
  | none => c.translateLanes k (offs.map fun e => (e.1, va e))

/-- Scratchpad ranges of lanes that are refused (R57, R58, R59). -/
def Ctx.scratchBad (c : Ctx) (n : Nat) (bad : Nat → Bool) (eas : List (Nat × Nat)) : Option Trap :=
  faultOf (eas.map fun e => (e.1, e.2, if bad e.2 || decide (c.scrSize < e.2 % 2 ^ 31 + n) then some tScratch else none))

/-! ### Landing (R49, R71, R141) -/

/-- What a lane's bytes make of its destination (R386). -/
def Group.landLane (g : Group) (dst : List Nat) (elem nb : Nat) (sx : Bool) (lane : Nat) (bs : List Byte) : Group :=
  if nb < 4 then
    let x := leNat (bs.take nb)
    match dst.head? with
    | some id => g.setId id lane (BitVec.ofNat 32 (if sx then wrapTo 32 (toSigned (8 * elem) x) else x))
    | none => g
  else dst.zipIdx.foldl (fun g p => g.setId p.1 lane (BitVec.ofNat 32 (leNat ((bs.drop (4 * p.2)).take 4)))) g

/-- A landing of an operation of phase `phase`: one of an earlier phase is committed, so the checkpoint takes it as well
(R141). -/
def Team.landData (t : Team) (phase : Nat) (f : TeamData → TeamData) : Team :=
  { t with
    live := f t.live
    ckpt := if phase < t.phasen then f t.ckpt else t.ckpt
    dur := if phase < t.durPhase then f t.dur else t.dur }

def Team.land (t : Team) (phase group : Nat) (f : Group → Group) : Team := t.landData phase fun d => d.modGroup group f

/-- Landed values of some lanes, as a change of the group. -/
def landAll (o : LoadOp) (vals : List (Nat × List Byte)) (g : Group) : Group :=
  vals.foldl (fun g v => g.landLane o.dst o.elem o.nb o.sx v.1 v.2) g

def Team.group? (t : Team) (g : Nat) : Option Group := t.live.groups[g]?
def Group.op? (g : Group) (id : Nat) : Option Op := findBy (fun o => o.id == id) g.ops

/-- The outstanding operation that an event names. -/
def State.opOf (s : State) (team group id : Nat) : Option (Team × Group × Op) :=
  (s.team? team).bind fun t => (t.group? group).bind fun g => (g.op? id).map fun o => (t, g, o)

/-- A rollback is requested for a machine check whose checkpoint is intact (R171). -/
def State.askRollback (s : State) (tid : Nat) : State := s.modTeam tid fun t => { t with rb := true }

/-- A machine check of an operation of phase `phase` (R171): one of an earlier, committed phase lies outside the checkpoint, and a durable
launch restarts the team (R5; its ROLLBACK does so), while another one faults with MCHK; otherwise the team rolls back. -/
def State.machineCheck (s : State) (tid group phase : Nat) : State :=
  let s := s.modTeam tid fun t => t.modGroup group Group.machineTrap
  match s.team? tid with
  | none => s
  | some t =>
    if t.phasen ≤ phase then s.askRollback tid
    else if s.durable t.launch then (s.askRollback tid).modTeam tid fun t => { t with lost := true }
    else s.launchFault tid tMchk

/-! ### Loads (R386) -/

/-- The semantics of one lane: a page that is INV makes it LD.INV (R62, R134). -/
def laneSem (sem : Sem) (inv : Bool) : Sem := if inv then .inv else sem

/-- A lane whose bytes are settled at issue: its own unpublished writes lie in them, or the snapshot holds them (R131) and nothing older of
the group is still to read them, which would have to be read first (cells S of R147 and R148). The whole
granules are read, so that a reduction is combined with its whole word (R422). Whether the lane met a poisoned line comes with the bytes
(R299). -/
def Ctx.settleLane (c : Ctx) (sem : Sem) (elem n lane pa : Nat) : Option (List Byte × Bool) × Ctx :=
  let id := 32 * c.ref.group + lane
  let own := c.t.ownItems id pa n
  let held := (granules pa n).all (snapHas c.t.snap)
  let snap := sem != .vol && sem != .inv
  if own ≠ [] ∨ (snap ∧ held ∧ c.g.unread pa n = false) then
    let lo := pa / 8 * 8
    let w := 8 * (granules pa n).length
    let r := c.s.readSem c.t sem c.s.ver none elem lo w
    let bs := ((c.t.ownItems id lo w).foldl (applyItem lo) r.1)
    (some ((bs.drop (pa - lo)).take n, !(snap && held) && !ownCovers own pa n && c.s.poisoned pa n), { c with s := r.2.1, t := r.2.2 })
  else (none, c)

/-- The host lines of a physical range are asked for over the transport (R278); operation or command `id` waits for them. -/
def State.askHostLines (s : State) (vf id pa len : Nat) : State :=
  (linesOf pa len).foldl (fun s l =>
    if s.regionOf (64 * l) = some RegionKind.host then
      { s.send vf (.readReq (64 * l) 64) with hostWait := s.hostWait ++ [(id, l)] }
    else s) s

/-- The same for the operation that the instruction is about to add. -/
def Ctx.askHost (c : Ctx) (pa n : Nat) : Ctx := { c with s := c.s.askHostLines ((c.func.map (·.vf)).getD 256) c.s.uid pa n }

/-- What settling the lanes of a load comes to: the lanes settled, those that are still to be read, and whether one met poison. -/
structure Settled where
  ctx : Ctx
  vals : List (Nat × List Byte)
  rest : List LaneAcc
  mchk : Bool

/-- The lanes of a load that are settled at issue, and those that are still to be read. -/
def Ctx.settleLanes (c : Ctx) (sem : Sem) (el n : Nat) (lanes : List LaneAcc) : Settled :=
  lanes.foldl (fun acc l =>
    match acc.ctx.settleLane (laneSem sem l.inv) el n l.lane l.addr with
    | (some b, c) => ⟨c, acc.vals ++ [(l.lane, b.1)], acc.rest, acc.mchk || b.2⟩
    | (none, c) => ⟨c.askHost l.addr n, acc.vals, acc.rest ++ [l], acc.mchk⟩) ⟨c, [], [], false⟩

/-- The lines that a load under INV or NT leaves in its core (R348). -/
def Ctx.keepLines (c : Ctx) (sem : Sem) (lanes : List LaneAcc) : Ctx :=
  let ls := (lanes.filter fun l => laneSem sem l.inv == .inv || sem == .nt).map fun l => lineOf l.addr
  if ls = [] then c else { c with s := c.s.modCore c.t.core fun k => { k with inv := addAllNew ls k.inv } }

/-- A lane holds own unpublished writes, so that it is settled at issue, while something older of the group is still to read its bytes: the
load waits (cells S of R147 and R148). -/
def Ctx.readsBehind (c : Ctx) (lanes : List LaneAcc) (n : Nat) : Bool :=
  lanes.any fun l => c.t.ownItems (32 * c.ref.group + l.lane) l.addr n != [] && c.g.unread l.addr n

/-- The lanes of a load with their pages. -/
def laneAccs (ps : List (Nat × Nat × Bool)) : List LaneAcc := ps.map fun p => ⟨p.1, p.2.1, p.2.2⟩

/-- Posting a load of some lanes. -/
def Ctx.postLoad (c : Ctx) (o : MemOps) (lanes : List LaneAcc) : Ctx :=
  let n := xferBytes o.w o.sz
  let el := elemBytes o.sz
  let dst := c.runIds o.d o.w.regs
  let r := c.settleLanes o.sc el n lanes
  let c := (dst.foldl (fun c id => c.noteReg id) r.ctx).keepLines o.sc lanes
  (c.addOp .ld false (.load ⟨dst, r.rest, r.vals, el, n, o.x.getLsbD 3, o.sc, c.s.ver, none, r.mchk⟩)).setSb dst

def Ctx.refresh (c : Ctx) : Ctx := { c with t := c.t.refresh c.s }

/-- LD (R386, R387). -/
def execLd (o : MemOps) (s : State) :=
  issue (.ld o) noEarly (fun c =>
    let eas := (c.lanes o.d).map fun l => (l, c.vaOf o.a (memOffset o) l)
    if c.act = [] then .ok c
    else match alignOf (xferBytes o.w o.sz) eas with
      | some t => .trap t
      | none =>
        match c.translateLanes .load eas with
        | .error t => .trap t
        | .ok ps =>
          if c.readsBehind (laneAccs ps) (xferBytes o.w o.sz) then .wait
          else .ok ((if o.sc = .acq then c.refresh else c).postLoad o (laneAccs ps))) s

/-- LDP (R60, R387): private memory, the lane's own stores included. -/
def execLdp (o : MemOps) (s : State) :=
  issue (.ldp o) noEarly (fun c =>
    let offs := (c.lanes o.d).map fun l => (l, c.offOf o.a (memOffset o) l)
    if c.act = [] then .ok c
    else match alignOf (xferBytes o.w o.sz) offs with
      | some t => .trap t
      | none =>
        match c.privateLanes .load offs with
        | .error t => .trap t
        | .ok ps =>
          if c.readsBehind (laneAccs ps) (xferBytes o.w o.sz) then .wait else .ok (c.postLoad o (laneAccs ps))) s

/-- A byte that an outstanding ACCST will write (R312). -/
def Team.accstByte (t : Team) (a : Nat) : Bool :=
  t.live.groups.any fun g => g.ops.any fun o => match o.kind with
    | .mx m => m.what == .accst && m.rows.any fun r => decide (r.2.1 ≤ a ∧ a < r.2.1 + m.n * (if m.wide then 8 else 4))
    | _ => false

/-- The bytes that an LDS reads; those of an outstanding ACCST are free values (R312). -/
def Ctx.ldsBytes (c : Ctx) (a n : Nat) : List Byte × Ctx :=
  let r := mapAcc (fun (s : State) i =>
    if c.t.accstByte (a + i) then
      let f := s.freeBytes 1
      (f.1.headD 0, f.2)
    else (look c.t.live.scr (a + i), s)) c.s (List.range n)
  (r.1, { c with s := r.2 })

/-- A reflective store of the group that has yet to land in its own team at some of these bytes (R59, row and column LS of R147); `upTo`
is an operation that it is older than. -/
def Ctx.reflMeets (c : Ctx) (l : List (Nat × Nat)) : Bool :=
  c.g.ops.any fun o => match o.kind with
    | .refl _ data left => left.contains c.ref.team && data.any fun d => l.any fun r => rangeMeets d.1 d.2.length r.1 r.2
    | _ => false

/-- LDS (R387): the scratchpad as last written; it follows the group's own reflective stores of its bytes. -/
def execLds (o : MemOps) (s : State) :=
  issue (.lds o) noEarly (fun c =>
    let n := xferBytes o.w o.sz
    let eas := (c.lanes o.d).map fun l => (l, c.offOf o.a (memOffset o) l)
    if c.act = [] then .ok c
    else match alignOf n eas with
      | some t => .trap t
      | none =>
        match c.scratchBad n (fun a => decide (2 ^ 31 ≤ a)) eas with
        | some t => .trap t
        | none =>
          if c.reflMeets (eas.map fun e => (e.2, n)) then .wait else
          let dst := c.runIds o.d o.w.regs
          let r := mapAcc (fun (c : Ctx) (e : Nat × Nat) =>
            let b := c.ldsBytes e.2 n
            ((e.1, b.1), b.2)) c eas
          let c := dst.foldl (fun c id => c.noteReg id) r.2
          .ok ((c.addOp .ld false (.load ⟨dst, [], r.1, elemBytes o.sz, n, o.x.getLsbD 3, o.sc, c.s.ver, none, false⟩)).setSb dst)) s

/-- The lanes that a load has still to read, read now. -/
def State.readLanes (s : State) (t : Team) (sem : Sem) (ver : Nat) (hi : Option Nat) (elem nb : Nat) (lanes : List LaneAcc) :
    List (Nat × List Byte) × State × Team :=
  lanes.foldl (fun acc l =>
    let r := acc.2.1.readSem acc.2.2 (laneSem sem l.inv) ver hi elem l.addr nb
    (acc.1 ++ [(l.lane, r.1)], r.2.1, r.2.2)) ([], s, t)

/-- The lines that a load read stand in the memory-side cache afterwards, but for one under NT (R133). -/
def State.cacheRead (s : State) (sem : Sem) (nb : Nat) (lanes : List LaneAcc) : State :=
  if sem = .nt then s
  else { s with cache := cacheAll false (s.cacheable ((lanes.flatMap fun l => linesOf l.addr nb).eraseDups)) s.cache }

/-- An atomic that was applied away from its group has landed: the boundary of R138 and the refresh of R132. -/
def State.afterAtomic (s : State) (tid : Nat) (scope : Scope) : State :=
  let s := s.boundary tid scope false false none
  s.modTeam tid fun t => t.refresh s

/-- An older load or escort of the group of the same bytes is still to be read: reads of one location stay in order (cells S of R147 and
R148). -/
def Group.olderMeets (g : Group) (id : Nat) (lanes : List LaneAcc) (nb : Nat) : Bool :=
  (g.ops.takeWhile fun o => o.id != id).any fun o => !o.fin &&
    ((g.toRead o).1.any fun x => lanes.any fun y => rangeMeets x.addr (g.toRead o).2 y.addr nb)

/-- LOAD_COMPLETE: the destination is written, its scoreboard bits clear and the operation finishes (R386, R388). A load of a
poisoned line raises MCHK and writes nothing (R299); one of host memory waits for the host's reply (R278). A returning atomic
takes its boundary once the old values have landed (R321), after the team's previous publish (R145). -/
def execLoadComplete (team group op : Nat) (s : State) : Host.Outcome State Fault Refusal :=
  match s.opOf team group op with
  | none => .next s
  | some (t, g, o) =>
    match o.kind with
    | .load l =>
      if o.fin ∨ s.awaitsHost op ∨ g.olderMeets op l.lanes l.nb then .next s
      else if l.mchk ∨ l.lanes.any (fun a => s.poisoned a.addr l.nb) then
        .next ((s.modTeam team fun t => t.land o.phase group fun g => (g.clearSb l.dst).finish op).machineCheck team group o.phase)
      else
        let r := s.readLanes t l.sem l.ver l.hi l.elem l.nb l.lanes
        .next ((r.2.1.cacheRead l.sem l.nb l.lanes).modTeam team fun _ =>
          r.2.2.land o.phase group fun g => ((landAll l (l.vals ++ r.1) g).clearSb l.dst).finish op)
    | .land l =>
      if o.fin ∨ (l.boundary ∧ t.pub.isSome) then .next s
      else
        let s := s.modTeam team fun t => t.land o.phase group fun g =>
          ((l.vals.foldl (fun g v => g.landLane l.dst 4 (4 * l.dst.length) false v.1 v.2) g).clearSb l.dst).finish op
        .next (if l.boundary then s.boundary team l.scope false false none else s)
    | _ => .next s

/-! ### Stores (R448, R449) -/

/-- The bytes that a lane stores. -/
def Ctx.storeBytes (c : Ctx) (d : Reg) (w : RunW) (sz : ElSz) (l : Nat) : List Byte := leBytes (xferBytes w sz) (c.rd d w.regs l)

/-- A store is performed once with an s data run and an address that is not per lane (R76, R448). -/
def Ctx.storeLanes (c : Ctx) (d a : Reg) : List Nat := if d.isS && !a.isV then c.act.take 1 else c.act

/-- A store that is accepted at once retires (R71). -/
def Ctx.stored (c : Ctx) : Ctx := c.addOp .st true .stored

def Ctx.pbAdd (c : Ctx) (i : PbItem) : Ctx := { c with t := { c.t with pb := c.t.pb ++ [i] } }

/-- A store with the hint NT: the lines that it writes are not kept in the memory-side cache (R133; log 104). -/
def Ctx.storeHint (c : Ctx) (sc : Sem) (addrs : List Nat) : Ctx :=
  if sc = .nt then { c with t := { c.t with ntLines := addAllNew (addrs.map fun a => (c.t.phasen, lineOf a)) c.t.ntLines } } else c

/-- ST (R448); ST.REL takes its boundary before the store. -/
def execSt (o : MemOps) (s : State) :=
  issue (.st o) noEarly (fun c =>
    let eas := (c.storeLanes o.d o.a).map fun l => (l, c.vaOf o.a (memOffset o) l)
    if c.act = [] then .ok c
    else match alignOf (xferBytes o.w o.sz) eas with
      | some t => .trap t
      | none =>
        match c.translateLanes .store eas with
        | .error t => .trap t
        | .ok ps =>
          let put := fun (c : Ctx) =>
            ((ps.foldl (fun d p => d.pbAdd (.st p.2.1 (c.storeBytes o.d o.w o.sz p.1))) c).storeHint o.sc (ps.map (·.2.1))).stored
          if o.sc ≠ .rel then .ok (put c)
          else if c.t.pub.isSome then .wait
          else .ok (put (c.boundaryBefore .device))) s

/-- STP (R449): seen by the storing lane only. -/
def execStp (o : MemOps) (s : State) :=
  issue (.stp o) noEarly (fun c =>
    let offs := (c.storeLanes o.d o.a).map fun l => (l, c.offOf o.a (memOffset o) l)
    if c.act = [] then .ok c
    else match alignOf (xferBytes o.w o.sz) offs with
      | some t => .trap t
      | none =>
        match c.privateLanes .store offs with
        | .error t => .trap t
        | .ok ps => .ok ((ps.foldl (fun d p => d.pbAdd (.prv (32 * c.ref.group + p.1) p.2.1 (c.storeBytes o.d o.w o.sz p.1))) c).stored)) s

/-! ### Scratchpad bytes that a copy or gather has yet to land (R141) -/

/-- The bytes of an entry's payload (R66). -/
def CopyCmd.total (c : CopyCmd) : Nat := max c.rows 1 * c.len

def CopyCmd.dstKind (c : CopyCmd) : Nat := c.dst.toNat / 2 ^ 62
def CopyCmd.dstOff (c : CopyCmd) : Nat := c.dst.toNat % 2 ^ 52

/-- The bytes of a range that a command of the team has yet to land: the payload of a copy, the rows of a gather still left. -/
def CopyCmd.covers (c : CopyCmd) (a : Nat) : Bool := c.dstKind == 0 && decide (c.dstOff ≤ a) && decide (a < c.dstOff + c.total)

def GathCmd.covers (c : GathCmd) (a : Nat) : Bool :=
  c.left.any fun j => decide (c.dst + j * c.rowb ≤ a) && decide (a < c.dst + (j + 1) * c.rowb)

/-- The scratchpad ranges of the ring entries that the engine has yet to take (R66, R69). -/
def State.posted (s : State) (t : Team) : List (Nat × Nat) :=
  let r := ringOf t.live.scr (s.metaOf t (·.cpring)) (s.scrSizeOf t)
  if !r.ok then []
  else (List.range (min (r.notify - r.head) r.count)).filterMap fun i =>
    let x := readNat t.live.scr (r.base + (r.head + i) % r.count * 32) 32
    if bits x 126 2 = 0 then some (bits x 64 52, max (bits x 192 32) 1 * bits x 128 32) else none

/-- A write to bytes that a command of the team has yet to land leaves those bytes unspecified, and no others (R141, R380): the bytes, and
the state and the team in which their landing is free as well. -/
def State.tear (s : State) (t : Team) (a n : Nat) : List Nat × State × Team :=
  let all := (List.range n).map (a + ·)
  let ps := s.posted t
  let open_ := all.filter fun x => ps.any fun r => decide (r.1 ≤ x) && decide (x < r.1 + r.2)
  let mark := fun (cov : Nat → Bool) (l : List Nat) => addAllNew (all.filter cov) l
  (all.filter fun x => open_.contains x || (s.copies.any fun c => c.team == t.id && c.covers x) ||
      s.gaths.any fun c => c.team == t.id && c.covers x,
    { s with
      copies := modBy (fun c => c.team == t.id) (fun c => { c with torn := mark c.covers c.torn }) s.copies
      gaths := modBy (fun c => c.team == t.id) (fun c => { c with torn := mark c.covers c.torn }) s.gaths },
    { t with torn := addAllNew open_ t.torn })

/-- Bytes laid from an address with those of a list free. -/
def State.freeAt (s : State) (torn : List Nat) (a : Nat) (bs : List Byte) : List Byte × State :=
  mapAcc (fun (s : State) (p : Nat × Byte) =>
    if torn.contains p.1 then
      let f := s.freeBytes 1
      (f.1.headD 0, f.2)
    else (p.2, s)) s (cells a bs)

/-- What a write of some bytes at `a` does to the bytes that an outstanding Matrix Array operation reads: those of its own group's earlier
write are the ones it reads, those of another writer are unspecified (R225). -/
def MxOp.tear (m : MxOp) (own : Bool) (a : Nat) (bs : List Byte) (s : State) : MxOp × State :=
  let hit := (cells a bs).filter fun x => m.reads.any fun r => decide (r.1 ≤ x.1 ∧ x.1 < r.1 + r.2)
  if hit = [] then (m, s)
  else if own then ({ m with src := putAll m.src hit }, s)
  else
    let f := s.freeBytes hit.length
    ({ m with src := putAll m.src ((hit.map (·.1)).zip f.1) }, f.2)

/-- The same for what a SEALA has yet to absorb (R440). -/
def tearSeal (own : Bool) (h a len ver : Nat) (d : List Byte) (b : Nat) (bs : List Byte) (s : State) : OpKind × State :=
  if own then (.seala h false a len ver (overlay a d b bs), s)
  else
    let f := s.freeAt ((List.range bs.length).map (b + ·)) a d
    (.seala h false a len ver f.1, f.2)

/-- What the operations of a team's groups have read of the scratchpad and not yet used, under a write of its bytes by operation `own.2`
of group `own.1`, or by another writer: an older operation of that group has read before the write, a younger one reads after it. -/
def Team.tearMx (t : Team) (own : Option (Nat × Nat)) (a : Nat) (bs : List Byte) (s : State) : Team × State :=
  let gs := mapAcc (fun (s : State) (p : Group × Nat) =>
    let os := mapAcc (fun (s : State) (o : Op) =>
      let mine := own.any fun w => w.1 == p.2
      if own.any (fun w => w.1 == p.2 && decide (o.id ≤ w.2)) then (o, s)
      else match o.kind with
        | .mx m =>
          let x := m.tear mine a bs s
          ({ o with kind := OpKind.mx x.1 }, x.2)
        | .seala h false b len ver d =>
          let x := tearSeal mine h b len ver d a bs s
          ({ o with kind := x.1 }, x.2)
        | _ => (o, s)) s p.1.ops
    ({ p.1 with ops := os.1 }, os.2)) s t.live.groups.zipIdx
  ({ t with live := { t.live with groups := gs.1 } }, gs.2)

/-- The bytes of each value that an atomic brings back. -/
def LandOp.width (l : LandOp) : Nat := (l.vals.head?.map (·.2.length)).getD 0

/-- The places in the scratchpad at which an outstanding ATOMS or CASS acts and that a range of bytes meets. -/
def LandOp.met (l : LandOp) (a n : Nat) : List (Nat × Nat) := l.scr.filter fun x => rangeMeets x.2 l.width a n

/-- A copy, gather or ACCST that lands on bytes of an outstanding ATOMS or CASS leaves the value stored and the old value unspecified
(R323): the bytes of the values stored, each with the phase of its atomic, and the team with those old values free. -/
def Team.tearAtoms (t : Team) (a n : Nat) (s : State) : List (Nat × Nat) × Team × State :=
  let gs := mapAcc (fun (s : State) (g : Group) =>
    let os := mapAcc (fun (s : State) (o : Op) => match o.kind, o.fin with
      | .land l, false =>
        let vs := mapAcc (fun (s : State) (v : Nat × List Byte) =>
          if (l.met a n).any fun x => x.1 == v.1 then
            let f := s.freeBytes v.2.length
            ((v.1, f.1), f.2)
          else (v, s)) s l.vals
        ({ o with kind := .land { l with vals := vs.1 } }, vs.2)
      | _, _ => (o, s)) s g.ops
    ({ g with ops := os.1 }, os.2)) s t.live.groups
  let hit := t.live.groups.flatMap fun g => g.ops.flatMap fun o => match o.kind, o.fin with
    | .land l, false => (l.met a n).flatMap fun x => (List.range l.width).map fun i => (o.phase, x.2 + i)
    | _, _ => []
  (hit, { t with live := { t.live with groups := gs.1 } }, gs.2)

/-- The rest of values stored that a landing meets in part is free as well. -/
def Team.freeRest (t : Team) (hit : List (Nat × Nat)) (a n : Nat) (s : State) : Team × State :=
  (hit.eraseDups.filter fun x => !(decide (a ≤ x.2) && decide (x.2 < a + n))).foldl (fun acc x =>
    let f := acc.2.freeBytes 1
    (acc.1.landData x.1 fun d => { d with scr := writeBytes d.scr x.2 f.1 }, f.2)) (t, s)

/-- A landing in a team's scratchpad that is no store of an instruction as it issues. -/
def State.tearMx (s : State) (tid : Nat) (own : Option (Nat × Nat)) (a : Nat) (bs : List Byte) : State :=
  match s.team? tid with
  | none => s
  | some t =>
    let r := t.tearMx own a bs s
    r.2.modTeam tid fun _ => r.1

/-- The bytes that a copy, gather or ACCST lands: free where the team wrote them meanwhile (R141), and where an outstanding ATOMS or CASS
acts on them (R323). -/
def State.landing (s : State) (tid : Nat) (torn : List Nat) (a : Nat) (bs : List Byte) : List Byte × State :=
  match s.team? tid with
  | none => (bs, s)
  | some t =>
    let x := t.tearAtoms a bs.length s
    let y := x.2.1.freeRest x.1 a bs.length x.2.2
    (y.2.modTeam tid fun _ => y.1).freeAt (torn ++ x.1.map (·.2)) a bs

/-- A write of the team into its scratchpad, under R141 and R225. The operations of the issuing group are all older. -/
def Ctx.scrStore (c : Ctx) (a : Nat) (bs : List Byte) : Ctx :=
  let r := c.s.tear c.t a bs.length
  let f := r.2.1.freeAt r.1 a bs
  let m := r.2.2.tearMx (some (c.ref.group, c.s.uid)) a f.1 f.2
  ({ c with s := m.2, t := m.1 } : Ctx).scrPut a f.1

/-- The teams of a team set that are placed (R59). -/
def Ctx.teamSet (c : Ctx) : List Nat :=
  let n := c.meta (·.tset)
  (c.s.teams.filter fun t => t.launch == c.t.launch && t.idx / n == c.t.idx / n).map (·.id)

/-- A write of the scratchpad by an earlier operation of the group that has yet to land: a reflective store, or an ACCST. -/
def Op.scratchWrite (o : Op) : Bool :=
  !o.fin && match o.kind with
    | .refl .. => true
    | .mx m => m.what == .accst
    | _ => false

/-- The same at some of these scratchpad bytes. -/
def Op.writesScr (o : Op) (a n : Nat) : Bool :=
  !o.fin && match o.kind with
    | .refl _ data _ => data.any fun d => rangeMeets d.1 d.2.length a n
    | .mx m => m.what == .accst && m.rows.any fun r => rangeMeets r.2.1 (m.n * if m.wide then 8 else 4) a n
    | _ => false

/-- STS (R59, R449): into the team's scratchpad, or with bit 31 into the mirror region of every team of the set. STS.REL lands after the
earlier scratchpad writes of the group (R133), and every STS waits until the group's earlier operations have read its bytes (R225, R440). -/
def execSts (o : MemOps) (s : State) :=
  issue (.sts o) noEarly (fun c =>
    let n := xferBytes o.w o.sz
    let eas := (c.storeLanes o.d o.a).map fun l => (l, c.offOf o.a (memOffset o) l)
    let set := decide (2 ≤ c.meta (·.tset))
    let refl := fun a => decide (2 ^ 31 ≤ a)
    let inside := fun a => decide (c.meta (·.mirOff) ≤ a) && decide (a + n ≤ c.meta (·.mirOff) + c.meta (·.mirSize))
    let bad := fun a => if refl a then set && !inside (a % 2 ^ 31) else c.inMirror a n
    if c.act = [] then .ok c
    else match alignOf n eas with
      | some t => .trap t
      | none =>
        match c.scratchBad n bad eas with
        | some t => .trap t
        | none =>
          if (o.sc = .rel ∧ c.g.ops.any Op.scratchWrite) ∨ eas.any (fun e => c.g.readsScr (e.2 % 2 ^ 31) n) then .wait else
          let far := eas.filter fun e => set && refl e.2
          let near := eas.filter fun e => !(set && refl e.2)
          let data := fun (e : Nat × Nat) => (e.2 % 2 ^ 31, c.storeBytes o.d o.w o.sz e.1)
          let c1 := near.foldl (fun d e => d.scrStore (e.2 % 2 ^ 31) (data e).2) c
          .ok (if far = [] then c1.stored else c1.addOp .st false (.refl 0 (far.map data) c.teamSet))) s

/-- An older reflective store of the source team has yet to land at a target (R59). -/
def Team.reflOlder (t : Team) (op target : Nat) : Bool :=
  t.live.groups.any fun g => g.ops.any fun o => decide (o.id < op) && match o.kind with
    | .refl _ _ left => left.contains target
    | _ => false

/-- One lane of a reflective store lands in a team. In the team that issued it, bytes that a copy or gather has yet to land are unspecified
(R141, R449). -/
def State.reflLand (team group op target : Nat) (s : State) (e : Nat × List Byte) : State :=
  match s.team? target with
  | none => s
  | some t =>
    let x := if target = team then s.tear t e.1 e.2.length else ([], s, t)
    let y := (x.2.1.modTeam target fun _ => x.2.2).freeAt x.1 e.1 e.2
    (y.2.tearMx target (if target = team then some (group, op) else none) e.1 y.1).modTeam target fun t =>
      t.onScr fun m => writeBytes m e.1 y.1

/-- REFLECTIVE_STORE_LANDING: the store lands in one team of the set, in issue order (R59); it retires once it has landed in
every one. -/
def execReflectiveStoreLanding (team group op target : Nat) (s : State) : Host.Outcome State Fault Refusal :=
  match s.opOf team group op with
  | none => .next s
  | some (t, _, o) =>
    match o.kind with
    | .refl a data left =>
      if !left.contains target ∨ t.reflOlder op target then .next s
      else
        let s := data.foldl (State.reflLand team group op target) s
        let rest := left.filter fun x => x != target && (s.team? x).isSome
        .next (s.modTeam team fun t => t.modGroup group fun g =>
          let g := g.setKind op (.refl a data rest)
          if rest = [] then g.finish op else g)
    | _ => .next s

/-! ### Hints and fences -/

/-- The lines that the active lanes name, where no fault or protection drops the lane. -/
def Ctx.namedLines (c : Ctx) (a : Reg) : List Nat :=
  c.act.filterMap fun l => match c.s.access c.root .load (c.vaOf a 0 l) with
    | .ok r => some (lineOf r.1)
    | .error _ => none

/-- PREF (R416): the memory-side cache fetches lines; a poisoned line is dropped. -/
def execPref (a : Reg) (s : State) :=
  plain (.pref a) (fun c =>
    let ls := (c.namedLines a).filter fun l => !c.s.isPoisoned l
    { c with s := { c.s with cache := cacheAll false (c.s.cacheable ls) c.s.cache } }) s

/-- CCTL.LINE (R348): the lines are written back and evicted. -/
def execCctlLine (a : Reg) (s : State) :=
  plain (.cctlLine a) (fun c =>
    let ls := c.namedLines a
    { c with s := { c.s with cache := c.s.cache.filter fun x => !ls.contains x.1 } }) s

/-- CCTL.ALL (R348): the core drops its copies for LD.INV and NT. -/
def execCctlAll (s : State) :=
  plain .cctlAll (fun c => { c with s := c.s.modCore c.t.core fun k => { k with inv := [] } }) s

/-- PART scope or wider. -/
def scopeWide (sc : Scope) : Bool := !sc.isTeam

/-- FENCE (R146): waits, then refreshes at PART scope or wider. -/
def bodyFence (sc : Scope) (all acq : Bool) (c : Ctx) : Res :=
  let busy := if all then c.g.ops ≠ [] else c.g.ops.any fun o => o.cls == .ld || o.cls == .es || o.cls == .rm
  if busy then .wait
  else
    let r := c.s.demote c.t sc
    let c := { c with s := r.2 }
    .ok (if acq && scopeWide r.1 then c.refresh else c)

def execFenceFull (sc : Scope) (s : State) := issue (.fenceFull sc) noEarly (bodyFence sc true true) s
def execFenceAcq (sc : Scope) (s : State) := issue (.fenceAcq sc) noEarly (bodyFence sc false true) s
def execFenceRel (sc : Scope) (s : State) := issue (.fenceRel sc) noEarly (bodyFence sc true false) s

end Sys2Proof.Machine
end

