-- ==== Sys2Proof/Machine/Atomics.lean ====
section
/-!
DEFINITION. Atomics: ATOM, ATOMS, RED, CAS, CASS (R149, R320 to R324, R344 to R346, R421 to R423).
-/
namespace Sys2Proof.Machine

/-- One lane's request: lane, address, first value, second value (CAS). -/
structure AtomLane where
  lane : Nat
  addr : Nat
  x : Nat
  y : Nat
  deriving DecidableEq, Repr

/-- What one lane does to the current value: the value stored, with its events. -/
abbrev AtomFn := AtomLane → Nat → FRes

def atomFn (op : AtomOp) (wide : Bool) : AtomFn := fun l cur => atomicOp op wide cur l.x

/-- Compare and swap on bits (R345). -/
def casFn : AtomFn := fun l cur => (if cur = l.x then l.y else cur, [])

/-- The lanes of one address in ascending order: old values, the value left, the events (R149). -/
def atomRun (f : AtomFn) : List AtomLane → Nat → List (Nat × Nat) × Nat × List Nat
  | [], cur => ([], cur, [])
  | l :: r, cur =>
    let y := f l cur
    let z := atomRun f r y.1
    ((l.lane, cur) :: z.1, z.2.1, y.2 ++ z.2.2)

/-- The distinct addresses in the order of their lowest lanes. -/
def atomAddrs (l : List AtomLane) : List Nat := (l.map (·.addr)).eraseDups

/-- Host memory receives its writes over the transport (R278). -/
def State.memStore (s : State) (t : Team) (ws : List (Nat × Byte)) : State :=
  let host := ws.any fun w => s.regionOf w.1 == some RegionKind.host
  let s : State := if host then s.send (((s.launchOf t).map (·.vf)).getD 256) (.memWrite (ws.headD (0, 0)).1 (ws.map Prod.snd)) else s
  (s.write t.id ws).modTeam t.id fun t => t.snapOwn ws

/-- Applying an atomic at the location's memory, address by address (R149): old values by lane. -/
def State.atomAtMemory (s : State) (tid group : Nat) (wide : Bool) (f : AtomFn) (ls : List AtomLane) : List (Nat × Nat) × State :=
  match s.team? tid with
  | none => ([], s)
  | some t =>
    (atomAddrs ls).foldl (fun acc a =>
      let r := atomRun f (ls.filter fun l => l.addr == a) (leNat (acc.2.bytesNow a (atomBytes wide)))
      (acc.1 ++ r.1,
        (acc.2.countEv t.launch t.idx group (atomFmt wide) r.2.2).memStore t (cells a (leBytes (atomBytes wide) r.2.1)))) ([], s)

/-- Applying an atomic of GROUP or TEAM scope to the team's own view, of which the whole granule is read (R149, R422). -/
def Ctx.atomInView (c : Ctx) (wide : Bool) (f : AtomFn) (ls : List AtomLane) : List (Nat × Nat) × Ctx :=
  let n := atomBytes wide
  (atomAddrs ls).foldl (fun acc a =>
    let c := acc.2
    let lo := a / 8 * 8
    let own := c.t.ownItems 1024 lo 8
    let b := c.s.readSem c.t .default c.s.ver none n lo 8
    let r := atomRun f (ls.filter fun l => l.addr == a) (leNat (((own.foldl (applyItem lo) b.1).drop (a - lo)).take n))
    let c := ({ c with s := b.2.1, t := b.2.2 } : Ctx).events (atomFmt wide) r.2.2
    (acc.1 ++ r.1, c.pbAdd (.st a (leBytes n r.2.1)))) ([], c)

/-- The scope in force (R137), without its count. -/
def Ctx.effScope (c : Ctx) (sc : Scope) : Scope := (c.s.demote c.t sc).1

/-- The publish that an atomic, or another instruction in stages, begins with: the fragment waits for it and then goes on with
`next` at the same instruction (R138, R345). `c` has moved past the instruction. -/
def Ctx.publishFirst (c : Ctx) (sc : Scope) (next : Ctx → Res) : Res :=
  if c.f0.stage ≠ 0 then next { c with f := { c.f with stage := 0 } }
  else if c.t.pub.isSome then .wait
  else
    let d := c.s.demote c.t sc
    let w : Ctx := { c with s := d.2, f := { c.f0 with stage := 1, wait := .pub } }
    let w := w.viaState fun s => s.publishOnly c.ref.team d.1 (some (c.ref.group, c.ref.slice))
    if w.t.pub.isSome then .ok w
    else match next { w with f := { c.f with stage := 0 } } with
      | .wait => .ok { w with f := { w.f with wait := .run } }
      | r => r

/-- What an instruction that reads memory at its issue waits for, after its publish: the drain has given up the team's own writes of those
bytes to host memory, and the host has answered for its lines, which are asked for once (R136, R278; log 45). A fragment that waits for the
host is at the stage that follows the number of what it waits for. -/
def Ctx.hostFirst (c : Ctx) (as : List Nat) (n : Nat) (next : Ctx → Res) : Res :=
  let host := as.filter fun a => c.s.regionOf a == some RegionKind.host
  if host = [] then next c
  else if host.any fun a => c.t.drain.any fun i => i.item.meets a n then .wait
  else if c.f0.stage < 2 then
    let vf := (c.func.map (·.vf)).getD 256
    let id := c.s.uid
    .ok { c with f := { c.f0 with stage := id + 2 }, s := host.foldl (fun s a => s.askHostLines vf id a n) { c.s with uid := id + 1 } }
  else if c.s.awaitsHost (c.f0.stage - 2) then .wait
  else next c

/-- A returning atomic whose effect is done: its old values are on their way (R321); `scr` are its lanes' places in the scratchpad. -/
def Ctx.returning (c : Ctx) (dst : List Nat) (n : Nat) (old : List (Nat × Nat)) (sc : Scope) (boundary : Bool) (scr : List (Nat × Nat)) : Ctx :=
  let c := dst.foldl (fun c id => c.noteReg id) c
  (c.addOp .ld false (.land ⟨dst, old.map fun p => (p.1, leBytes n p.2), boundary, sc, scr⟩)).setSb dst

/-- ATOM and CAS after their checks and their publish (R321, R345). At PART scope or wider they refresh as they apply (R132; log 31). Poison raises
MCHK and applies nothing (R299). -/
def Ctx.atomGlobal (c : Ctx) (dst : List Nat) (wide : Bool) (sc : Scope) (f : AtomFn) (ls : List AtomLane) : Res :=
  let sc := c.effScope sc
  if ls.any (fun l => c.s.poisoned l.addr (atomBytes wide)) then
    .ok (({ c with f := { c.f0 with stage := 0 } } : Ctx).viaState fun s => s.machineCheck c.ref.team c.ref.group c.t.phasen)
  else if sc.isTeam then
    let r := c.atomInView wide f ls
    .ok (r.2.returning dst (atomBytes wide) r.1 sc true [])
  else
    let r := c.commit.atomAtMemory c.ref.team c.ref.group wide f ls
    .ok ((c.viaState fun _ => r.2).refresh.returning dst (atomBytes wide) r.1 sc true [])

/-- The checks of a global atomic (R321, R323), then its publish and its effect. -/
def Ctx.atomBody (c : Ctx) (d a : Reg) (wide : Bool) (sc : Scope) (ndst : Nat) (f : AtomFn) (x y : Nat → Nat) : Res :=
  let eas := (c.lanes d).map fun l => (l, c.vaOf a 0 l)
  if c.act = [] then .ok c
  else match alignOf (atomBytes wide) eas with
    | some t => .trap t
    | none =>
      match c.translateLanes .store eas with
      | .error t => .trap t
      | .ok ps =>
        let ls : List AtomLane := ps.map fun p => ⟨p.1, p.2.1, x p.1, y p.1⟩
        c.publishFirst sc fun c => c.hostFirst (atomAddrs ls) (atomBytes wide) fun c => c.atomGlobal (c.runIds d ndst) wide sc f ls

def execAtom (o : AtomOps) (s : State) :=
  issue (.atom o) noEarly (fun c =>
    c.atomBody o.d o.a o.wide o.sc (atomRegs o.wide) (atomFn o.op o.wide) (fun l => c.rd o.d (atomRegs o.wide) l) fun _ => 0) s

/-- CAS (R345): the low half of d compares, the high half is the new value. -/
def execCas (o : CasOps) (s : State) :=
  issue (.cas o) noEarly (fun c =>
    let n := atomRegs o.wide
    c.atomBody o.d o.a o.wide o.sc n casFn (fun l => c.rd o.d n l) fun l => c.rd o.d (2 * n) l / 2 ^ (32 * n)) s

/-- The scratchpad atomics (R321, R323): checks, the wait for the group's earlier operations that read these bytes (R225, R440), then the
effect on the scratchpad bytes. -/
def Ctx.atomScratch (c : Ctx) (d a : Reg) (wide : Bool) (ndst : Nat) (f : AtomFn) (x y : Nat → Nat)
    (sc : Scope) (boundary : Bool) : Res :=
  let n := atomBytes wide
  let eas := (c.lanes d).map fun l => (l, c.offOf a 0 l)
  if c.act = [] then .ok c
  else match alignOf n eas with
    | some t => .trap t
    | none =>
      match c.scratchBad n (fun e => decide (2 ^ 31 ≤ e) || c.inMirror e n) eas with
      | some t => .trap t
      | none =>
        if eas.any fun e => c.g.readsScr e.2 n then .wait else
        let ls : List AtomLane := eas.map fun e => ⟨e.1, e.2, x e.1, y e.1⟩
        let r := (atomAddrs ls).foldl (fun (acc : List (Nat × Nat) × Ctx) e =>
          let z := atomRun f (ls.filter fun l => l.addr == e) (readNat acc.2.t.live.scr e n)
          (acc.1 ++ z.1, (acc.2.events (atomFmt wide) z.2.2).scrStore e (leBytes n z.2.1))) ([], c)
        .ok (r.2.returning (c.runIds d ndst) n r.1 sc boundary eas)

def execAtoms (o : AtomOps) (s : State) :=
  issue (.atoms o) noEarly (fun c =>
    c.atomScratch o.d o.a o.wide (atomRegs o.wide) (atomFn o.op o.wide) (fun l => c.rd o.d (atomRegs o.wide) l) (fun _ => 0) .group false) s

/-- CASS (R345) publishes at its scope, which takes the boundary once its values have landed. -/
def execCass (o : CasOps) (s : State) :=
  issue (.cass o) noEarly (fun c =>
    let n := atomRegs o.wide
    match c.atomScratch o.d o.a o.wide n casFn (fun l => c.rd o.d n l) (fun l => c.rd o.d (2 * n) l / 2 ^ (32 * n)) o.sc true with
    | .ok _ =>
      if c.act = [] then .ok c
      else c.publishFirst o.sc fun c =>
        c.atomScratch o.d o.a o.wide n casFn (fun l => c.rd o.d n l) (fun l => c.rd o.d (2 * n) l / 2 ^ (32 * n)) o.sc true
    | r => r) s

/-- A pending reduction of an address and operation that other groups share carries the group 0xFFFF (R214). -/
def joinRed (a : Nat) (wide : Bool) (op : AtomOp) (g : Nat) (i : PbItem) : PbItem :=
  match i with
  | .red b w o v h t => if b = a ∧ w = wide ∧ o = op ∧ h ≠ g then .red b w o v 0xFFFF t else i
  | _ => i

def Ctx.redAdd (c : Ctx) (a : Nat) (wide : Bool) (op : AtomOp) (v : Nat) (team : Bool) : Ctx :=
  let pb := c.t.pb.map (joinRed a wide op c.ref.group)
  let g := if pb = c.t.pb then c.ref.group else 0xFFFF
  let shared := c.t.pb.any fun i => match i with
    | .red b w o _ h _ => b == a && w == wide && o == op && h == 0xFFFF
    | _ => false
  { c with t := { c.t with pb := pb ++ [.red a wide op (BitVec.ofNat 64 v) (if shared then 0xFFFF else g) team] } }

/-- Operations whose result, or whose events, depend on the order in which reductions combine. -/
def mixes : AtomOp → Bool
  | .exch | .fadd | .fmin | .fmax => true
  | _ => false

/-- A pending reduction of one address, width and operation. -/
def PbItem.isRed (a : Nat) (wide : Bool) (op : AtomOp) : PbItem → Bool
  | .red b w o _ _ _ => b == a && w == wide && o == op
  | _ => false

/-- The pending items after the last one of another kind that meets an address. -/
def redTail (a : Nat) (wide : Bool) (op : AtomOp) (l : List PbItem) : List PbItem :=
  (l.reverse.takeWhile fun i => i.isRed a wide op || !i.meets a (atomBytes wide)).reverse

/-- A list put before the item that follows the first `j` that satisfy a test, or at the end. -/
def insertAt (p : PbItem → Bool) (new : List PbItem) : Nat → List PbItem → List PbItem
  | _, [] => new
  | 0, x :: r => if p x then new ++ x :: r else x :: insertAt p new 0 r
  | j + 1, x :: r => x :: insertAt p new (if p x then j else j + 1) r

/-- The new reductions of one address among those that were pending before: at a free place. -/
def mixOne (wide : Bool) (op : AtomOp) (acc : State × List PbItem × List PbItem) (a : Nat) : State × List PbItem × List PbItem :=
  let is := PbItem.isRed a wide op
  let tail := redTail a wide op acc.2.1
  let k := tail.countP is
  if k = 0 then acc
  else
    let r := acc.1.choose (k + 1)
    (r.2, acc.2.1.take (acc.2.1.length - tail.length) ++ insertAt is (acc.2.2.filter is) r.1 tail, acc.2.2.filter fun i => !is i)

/-- The order between pending reductions of one address is open (R148 note 8, R149, R422; log 32): `n` items were pending before. -/
def Ctx.mixReds (c : Ctx) (n : Nat) (wide : Bool) (op : AtomOp) (as : List Nat) : Ctx :=
  if !mixes op then c
  else
    let r := as.foldl (mixOne wide op) (c.s, c.t.pb.take n, c.t.pb.drop n)
    { c with s := r.1, t := { c.t with pb := r.2.1 ++ r.2.2 } }

/-- RED (R422): one pending reduction for each lane, applied in ascending lane order when the phase is published. At SYSTEM scope under
a TENANT policy it counts as demoted (R137). -/
def execRed (o : AtomOps) (s : State) :=
  issue (.red o) noEarly (fun c =>
    let n := atomRegs o.wide
    let eas := c.act.map fun l => (l, c.vaOf o.a 0 l)
    if c.act = [] then .ok c
    else match alignOf (atomBytes o.wide) eas with
      | some t => .trap t
      | none =>
        match c.translateLanes .store eas with
        | .error t => .trap t
        | .ok ps =>
          let sc := c.s.demote c.t o.sc
          let d := ps.foldl (fun d p => d.redAdd p.2.1 o.wide o.op (c.rd o.d n p.1) sc.1.isTeam) { c with s := sc.2 }
          .ok ((d.mixReds c.t.pb.length o.wide o.op ((ps.map fun p => p.2.1).eraseDups)).stored)) s

end Sys2Proof.Machine
end

