-- ==== Sys2Proof/Machine/Barrier.lean ====
section
/-!
DEFINITION. Barriers (R150 to R156, R328 to R333) and armed words (R155, R318).
-/
namespace Sys2Proof.Machine

/-- The registry takes an address; a 257th object is refused (R150). -/
def Team.register (t : Team) (a : Nat) : Option Team :=
  if t.bars.any (fun b => b.addr == a) then some t
  else if 256 ≤ t.bars.length then none
  else some { t with bars := t.bars ++ [⟨a, false⟩] }

/-- CheckBarrier (R329): alignment, range, registration. -/
def Ctx.checkBarrier (c : Ctx) (i : Instr) (a : Nat) : Except Trap Ctx :=
  let lane := maskOf (c.act.take 1)
  if a % 16 ≠ 0 then .error (trapAt tAlign a lane)
  else if 2 ^ 31 ≤ a ∨ c.scrSize < a + 16 ∨ c.inMirror a 16 then .error (trapAt tScratch a lane)
  else match c.t.register a with
    | some t => .ok { c with t := t }
    | none => .error (c.dynamic i)

/-- A barrier instruction: nothing with no active lane; the address is the lowest active lane's (R152, R329). -/
def withBarrier (i : Instr) (a : Reg) (f : Ctx → Nat → Res) (s : State) :=
  issue i noEarly (fun c =>
    if c.act = [] then .ok c
    else
      let b := (c.word a c.low).toNat
      match c.checkBarrier i b with
      | .error t => .trap t
      | .ok c => f c b) s

/-- What the other groups' outstanding operations have read of a barrier's bytes is unspecified once its object changes (R225, R440). -/
def Ctx.tearBar (c : Ctx) (a : Nat) (f : BarObj → BarObj) : Ctx :=
  let r := c.t.tearMx (some (c.ref.group, c.s.uid)) a (barBytes (barCheck (f (barRead c.t.live.scr a)))) c.s
  { c with s := r.2, t := r.1 }

/-- An update, its check, and the boundary of R138 after it, which first waits for the team's previous publish (R331), and for the group's
earlier operations that read the object's bytes (R225, R440). -/
def Ctx.barUpdate (c : Ctx) (a : Nat) (f : BarObj → BarObj) : Res :=
  if c.t.pub.isSome ∨ c.g.readsScr a 16 then .wait
  else
    let d := c.tearBar a f
    .ok ((d.setTeam (d.team.bar a f)).boundary .device false false none)

def setStage (a : Nat) (b : Bool) (l : List BarReg) : List BarReg := modBy (fun r => r.addr == a) (fun r => { r with stage := b }) l

/-- BARINIT (R330). -/
def execBarinit (d a : Reg) (s : State) :=
  withBarrier (.barinit d a) a (fun c b =>
    let n := (c.g.reg d 0 c.low).toNat
    let m := (c.g.reg d 1 c.low).toNat
    let stage := bits m 16 1 == 1
    let obj : BarObj := ⟨n % 65536, 0, m - (if stage then 65536 else 0), 0, 0, false⟩
    let go := fun (c : Ctx) => ({ c with t := { c.t with bars := setStage b stage c.t.bars } } : Ctx).barUpdate b fun _ => obj
    if 65536 ≤ n then .trap (c.dynamic (.barinit d a))
    else if stage then
      match c.checkBarrier (.barinit d a) (b + 16) with
      | .error t => .trap t
      | .ok c => go c
    else go c) s

def execBararr (a : Reg) (s : State) := withBarrier (.bararr a) a (fun c b => c.barUpdate b barArrive) s
def execBarexp (d a : Reg) (s : State) :=
  withBarrier (.barexp d a) a (fun c b => c.barUpdate b fun o => { o with expb := (c.word d c.low).toNat }) s
def execBarbrk (a : Reg) (s : State) := withBarrier (.barbrk a) a (fun c b => c.barUpdate b barBreak) s

/-- BARTEST (R332). -/
def execBartest (d a : Reg) (s : State) :=
  withBarrier (.bartest d a) a (fun c b =>
    let st := barStatus (barRead c.t.live.scr b) (c.g.reg d 0 c.low).toNat
    .ok (c.each (c.lanes d) fun c l => c.wr1 d 1 l (BitVec.ofNat 32 st))) s

/-- Writing BARWAIT's status to its register in the lanes that were active at issue (R332). -/
def Ctx.barResult (c : Ctx) (dst : Option Nat) (lanes : List Nat) (st : Nat) : Ctx :=
  match dst with
  | none => c
  | some id => c.each lanes fun c l => { (c.noteReg id) with g := c.g.setId id l (BitVec.ofNat 32 st) }

/-- BARWAIT (R332): it completes with a boundary and a refresh, or parks. -/
def execBarwait (d a : Reg) (s : State) :=
  withBarrier (.barwait d a) a (fun c b =>
    let t := (c.g.reg d 0 c.low).toNat
    let st := barStatus (barRead c.t.live.scr b) t
    let dst := c.g.regId d 1
    if st = 3 then
      let c := { c with f := { c.f with wait := .bar b t dst (maskOf (c.lanes d)) none } }
      .ok (c.setGroup c.group.regang)
    else if c.t.pub.isSome then .wait
    else .ok ((c.barResult dst (c.lanes d) st).boundary .device false false none).refresh) s

/-- The status that a parked fragment wakes with, once an update of its barrier has met its target or broken the barrier (R329). -/
def Frag.wakes (f : Frag) : Option Nat :=
  match f.wait with
  | .bar _ _ _ _ st => st
  | _ => none

/-- An older fragment of the team wakes first (R153, R159). -/
def Team.olderWakes (t : Team) (f : Frag) (group : Nat) : Bool :=
  t.live.groups.zipIdx.any fun p => p.1.frags.any fun x =>
    x.wakes.isSome && (decide (x.age < f.age) || (x.age == f.age && (decide (p.2 < group) || (p.2 == group && decide (x.lowest < f.lowest)))))

/-- BARWAIT_WAKE: a parked fragment whose target an update has found complete or broken writes its status and takes its boundary and refresh,
the oldest first (R153, R27). -/
def execBarwaitWake (team group slice : Nat) (s : State) : Host.Outcome State Fault Refusal :=
  match s.ctx ⟨team, group, slice⟩ with
  | none => .next s
  | some c =>
    match c.f.wait with
    | .bar _ _ dst lanes (some st) =>
      if c.t.pub.isSome ∨ c.t.olderWakes c.f group ∨ c.t.rb then .next s
      else
        let c := ({ c with f := { c.f with wait := .run } } : Ctx).barResult dst (lanesOf lanes) st
        .next (c.boundary .device false false none).refresh.commit
    | _ => .next s

/-- ARMW (R318). -/
def execArmw (d a : Reg) (s : State) :=
  issue (.armw d a) noEarly (fun c =>
    let bar := (c.word d c.low).toNat
    let wa := c.vaOf a 0 c.low
    let lane := maskOf (c.act.take 1)
    let off := decide (bar = 2 ^ 32 - 1)
    let go := fun (c : Ctx) =>
      if wa % 8 ≠ 0 then Res.trap (trapAt tAlign wa lane)
      else match c.s.access c.root .load wa with
        | .error k => .trap (trapAt k wa lane)
        | .ok (pa, _) =>
          let rest := c.t.binds.filter fun b => b.1 != pa
          if off then .ok { c with t := { c.t with binds := rest } }
          else if rest.length = c.t.binds.length ∧ 64 ≤ c.t.binds.length then .trap (c.dynamic (.armw d a))
          else .ok { c with t := { c.t with binds := rest ++ [(pa, bar)] } }
    if c.act = [] then .ok c
    else if off then go c
    else match c.checkBarrier (.armw d a) bar with
      | .error t => .trap t
      | .ok c => go c) s

end Sys2Proof.Machine
end

