-- ==== Sys2Proof/Machine/Engine.lean ====
section
/-!
DEFINITION. What the engines share: ranges of global memory page by page, the faults an engine reports for them, reads of published
data (R144), writes at memory, protected pages (R285), host memory (R278), and the boundary that a source range takes (R144).
-/
namespace Sys2Proof.Machine

/-- Why an engine may not read or write a byte. -/
inductive EngFault where
  | page | perm | poison
  deriving DecidableEq, Repr

/-- The Copy Engine's codes (R67). -/
def EngFault.copyCode : EngFault → Nat
  | .page => 6
  | .perm => 7
  | .poison => 8

/-- The codes of R261. -/
def EngFault.code : EngFault → Nat
  | .page => 0x14
  | .perm => 0x15
  | .poison => 0x1C

/-- The code of R261 for a cause of R254. -/
def causeCode (k : Nat) : Nat := if k = 4 then 0x14 else if k = 1 ∨ k = 6 then 0x13 else 0x15

/-- A range cut at 64 KiB pages: virtual address, offset in the range, length. -/
def pages (va len : Nat) : List (Nat × Nat × Nat) :=
  (List.range (if len = 0 then 0 else (va % 65536 + len - 1) / 65536 + 1)).map fun i =>
    let lo := max va (va / 65536 * 65536 + i * 65536)
    let hi := min (va + len) (va / 65536 * 65536 + (i + 1) * 65536)
    (lo, lo - va, hi - lo)

/-- The poisoned lines of a physical range. -/
def State.poisonIn (s : State) (pa len : Nat) : List Nat := (linesOf pa len).filter s.isPoisoned

/-- What an engine may not read of a range, with the offset of each fault; `dec` allows protected pages (R285). -/
def State.srcFaults (s : State) (root : Nat) (dec : Bool) (va len base : Nat) : List (Nat × EngFault) :=
  (pages va len).flatMap fun p => match s.translate root p.1 with
    | none => [(base + p.2.1, .page)]
    | some (pg, pa) =>
      if pg.prot && !dec then [(base + p.2.1, .perm)]
      else (s.poisonIn pa p.2.2).map fun l => (base + p.2.1 + (64 * l - pa), .poison)

/-- The poisoned lines that a write reads to merge a partial data unit (R285, R299). -/
def State.mergePoison (s : State) (pa len : Nat) : List Nat :=
  (s.poisonIn pa len).filter fun l => decide (64 * l < pa ∨ pa + len < 64 * l + 64)

/-- What an engine may not write of a range; `enc` allows protected pages, whose partial data units are read first. -/
def State.dstFaults (s : State) (root : Nat) (enc : Bool) (va len : Nat) : List (Nat × EngFault) :=
  (pages va len).flatMap fun p => match s.translate root p.1 with
    | none => [(p.2.1, .page)]
    | some (pg, pa) =>
      if pg.ro || pg.inv || (pg.prot && !enc) then [(p.2.1, .perm)]
      else if pg.prot then (s.mergePoison pa p.2.2).map fun l => (p.2.1 + (64 * l - pa), .poison)
      else []

/-- The lowest code of some faults; 0 for none. -/
def lowestCode (l : List Nat) : Nat := (l.min?).getD 0

/-! ### Protected pages -/

/-- The derivation of a slot's key. -/
def State.slotGen (s : State) (slot : Nat) : Nat := ((findBy (fun k : KeySlot => k.slot == slot) s.keySlots).map (·.gen)).getD 0

/-- One 64-byte data unit under a key slot, whose tweak is physical address bits 47:6. -/
def State.xtsUnit (s : State) (slot line : Nat) (enc : Bool) (bs : List Byte) : List Byte :=
  fit 64 (Config.xts slot (s.slotGen slot) (line % 2 ^ 42) enc bs)

/-- A physical range of protected memory in clear, as of a version. -/
def State.decrypted (s : State) (slot ver pa len : Nat) : List Byte :=
  let all := (linesOf pa len).flatMap fun l => s.xtsUnit slot l false (s.bytesAt ver (64 * l) 64)
  (all.drop (pa % 64)).take len

/-- A data unit of protected memory in clear, as the writing team sees it: with its writes that are still pending (R285). Of two commands that
encrypt into one unit at once, the later one keeps what the earlier one has written there (DESIGN CHOICE, log 116: bytes outside either
may come from either). -/
def State.unitNow (s : State) (t : Option Team) (slot l : Nat) : List Byte :=
  s.xtsUnit slot l false (((t.map fun t => t.ownItems 0 (64 * l) 64).getD []).foldl (applyItem (64 * l)) (s.bytesNow (64 * l) 64))

/-- A write into protected memory: whole data units, partial ones merged (R285). -/
def State.encrypted (s : State) (t : Option Team) (slot pa : Nat) (bs : List Byte) : List (Nat × List Byte) :=
  (linesOf pa bs.length).map fun l => (64 * l, s.xtsUnit slot l true (overlay (64 * l) (s.unitNow t slot l) pa bs))

/-! ### Reading and writing -/

/-- A range that translates, read as published data: where another writer races, any version since the command was taken, up to the one at
which a publish held that the engine had finished reading (R136). -/
def State.engRead (s : State) (root : Nat) (slot : Option Nat) (ver : Nat) (cap : Option Nat) (va len : Nat) : List Byte × State :=
  let hi := max ver (min (cap.getD s.ver) s.ver)
  (pages va len).foldl (fun (acc : List Byte × State) p => match acc.2.translate root p.1 with
    | none => acc
    | some (pg, pa) =>
      if pg.prot then (acc.1 ++ acc.2.decrypted (slot.getD 0) hi pa p.2.2, acc.2)
      else
        let r := acc.2.readWithin ver hi 8 pa p.2.2
        (acc.1 ++ r.1, r.2)) ([], s)

/-- The physical pieces of a range that translates, with the bytes for each. -/
def State.engPieces (s : State) (t : Option Team) (root : Nat) (slot : Option Nat) (va : Nat) (bs : List Byte) : List (Nat × List Byte) :=
  (pages va bs.length).flatMap fun p => match s.translate root p.1 with
    | none => []
    | some (pg, pa) =>
      let d := (bs.drop p.2.1).take p.2.2
      if pg.prot then s.encrypted t (slot.getD 0) pa d else [(pa, d)]

/-- A write that covers a whole poisoned line clears its poison (R299). -/
def State.unpoison (s : State) (ws : List (Nat × Byte)) : State :=
  let whole := ((ws.map fun w => lineOf w.1).eraseDups).filter fun l => s.isPoisoned l && (List.range 64).all fun i => ws.any fun w => w.1 == 64 * l + i
  whole.foldl (fun s l => s.setPoison l false) s

/-- Bytes at physical addresses that take effect at memory at once, as one write; host lines go out over the transport (R278). -/
def State.physWrite (s : State) (vf : Nat) (ps : List (Nat × List Byte)) : State :=
  let s := ps.foldl (fun s p =>
    if s.regionOf p.1 = some RegionKind.host then s.send vf (.memWrite p.1 p.2) else s) s
  let ws := ps.flatMap fun p => cells p.1 p.2
  (s.unpoison ws).write 0 ws

/-- The same at a virtual range that translates. -/
def State.engWrite (s : State) (vf root va : Nat) (bs : List Byte) : State := s.physWrite vf (s.engPieces none root none va bs)

/-- The host lines of a source range are asked for; a command waits for their replies. -/
def State.askHostRange (s : State) (vf cmd root va len : Nat) : State :=
  (pages va len).foldl (fun s p => match s.translate root p.1 with
    | none => s
    | some (_, pa) =>
      s.askHostLines vf cmd pa p.2.2) s

/-! ### The boundary before a command (R144) -/

/-- The physical ranges of a virtual range. -/
def Ctx.physical (c : Ctx) (va len : Nat) : List (Nat × Nat) :=
  (pages va len).filterMap fun p => (c.s.translate c.root p.1).map fun r => (r.2, p.2.2)

/-- The lines of the Phase Buffer that a physical range overlaps. -/
def Ctx.unpublished (c : Ctx) (rs : List (Nat × Nat)) : List Nat :=
  (c.t.pb.flatMap PbItem.lines).eraseDups.filter fun l => rs.any fun r => rangeMeets (64 * l) 64 r.1 r.2

/-- A line that the drain still owns lies in a physical range. -/
def Ctx.draining (c : Ctx) (rs : List (Nat × Nat)) : Bool :=
  c.t.drain.any fun i => i.item.lines.any fun l => rs.any fun r => rangeMeets (64 * l) 64 r.1 r.2

/-- The loads of the group that are under way read no later than its command is posted (row LD of R148). -/
def Ctx.posting (c : Ctx) : Ctx := { c with g := c.g.capLoads c.t.phasen c.s.ver }

/-- A command whose source ranges overlap an unpublished line of the phase waits for a boundary that publishes it; the
instruction then issues again. One whose source ranges overlap a line that the drain owns waits until that line has reached memory, since it
reads the earlier writes (note 2 of R147 and R148). -/
def Ctx.afterPublish (c : Ctx) (rs : List (Nat × Nat)) (k : Ctx → Res) : Res :=
  let ls := c.unpublished rs
  if ls = [] then (if c.draining rs then .wait else k c.posting)
  else if c.t.pub.isSome then .wait
  else
    let sc := if ls.any fun l => c.s.regionOf (64 * l) == some RegionKind.host then Scope.system else Scope.device
    .ok (({ c with f := { c.f0 with wait := .pub } } : Ctx).boundary sc false false (some (c.ref.group, c.ref.slice)))

/-! ### Barriers and scratchpad results of engines -/

/-- Scratchpad lines whose first write in a phase the Undo Log records: none in a barrier object or in the mirror region (R140). -/
def State.lineKeys (s : State) (t : Team) (a n : Nat) : List UndoKey :=
  if t.bars.any fun b => decide (b.addr ≤ a ∧ a + n ≤ b.addr + 16) then []
  else
    let mirror := fun (l : Nat) => decide (2 ≤ s.metaOf t (·.tset)) && rangeMeets (64 * l) 64 (s.metaOf t (·.mirOff)) (s.metaOf t (·.mirSize))
    ((linesOf a n).filter fun l => !mirror l).map .line

/-- The Undo Log's reserve takes the records of a landing of a phase; one of an earlier phase leaves none (R140, R141). -/
def State.undoFits (s : State) (t : Team) (phase : Nat) (keys : List UndoKey) : Bool :=
  decide (phase < t.phasen) || decide (((addAllNew keys t.undo).map undoCost).sum ≤ s.metaOf t (·.und) * 16384)

/-- The boundary that makes room comes first, once the team's previous publish has completed (R138, R145); the event then comes again. -/
def State.makeRoom (s : State) (t : Team) : State := if t.pub.isSome then s else s.boundary t.id .device false false none

/-- A landing of scratchpad bytes by an engine for a command of phase `phase` (R140, R141); bytes that the team wrote meanwhile are
unspecified. -/
def State.landScr (s : State) (tid phase : Nat) (torn : List Nat) (a : Nat) (bs : List Byte) : State :=
  let r := s.landing tid torn a bs
  let s := r.2.tearMx tid none a r.1
  s.modTeam tid fun t =>
    let t := t.landData phase fun d => { d with scr := writeBytes d.scr a r.1 }
    if phase < t.phasen then t else { t with undo := addAllNew (s.lineKeys t a bs.length) t.undo }

/-- The credit or the breaking of a command's barrier: bits 19:0 of `ctl` are the address / 16 (R66, R259, R260). -/
def Team.engineEnd (t : Team) (ctl : Nat) (ok : Bool) (n : Nat) : Team :=
  if bits ctl 0 20 = 0xFFFFF then t else t.engineBar (16 * bits ctl 0 20) (if ok then barCredit n else barBreak)

/-- A command's operation finishes. -/
def State.finishOp (s : State) (tid group op : Nat) : State := s.modTeam tid fun t => t.modGroup group fun g => g.finish op

end Sys2Proof.Machine
end

