-- ==== Sys2Proof/Machine/Gather.lean ====
section
/-!
DEFINITION. GATH and the Gather Engine (R260, R261, R379, R380).
-/
namespace Sys2Proof.Machine

/-- The GATH descriptor (R260). -/
structure GathDesc where
  src : Nat
  idx : Nat
  count : Nat
  rowb : Nat
  stride : Nat
  dst : Nat
  ctl : Nat
  deriving DecidableEq, Repr

def gathDesc (x : Nat) : GathDesc :=
  ⟨bits x 0 64, bits x 64 32, bits x 96 32, bits x 128 32, bits x 160 32, bits x 192 32, bits x 224 32⟩

/-- The stamp's place for a landing area. -/
def stampPlace (dst count rowb : Nat) : Nat := (dst + count * rowb + 7) / 8 * 8

/-- A barrier word's barrier; none for 0xF_FFFF. -/
def barOf (w : Nat) : Option Nat := if bits w 0 20 = 0xFFFFF then none else some (16 * bits w 0 20)

/-- CheckBarrier for the barrier that a command names, if any. -/
def Ctx.checkNamed (c : Ctx) (i : Instr) (w : Nat) : Except Trap Ctx :=
  match barOf w with
  | none => .ok c
  | some b => c.checkBarrier i b

/-- The checks at issue, made only while COUNT and ROWB are within their limits. -/
def Ctx.gathCheck (c : Ctx) (i : Instr) (g : GathDesc) : Except Trap Ctx :=
  if 65536 < g.count ∨ 4096 < g.rowb then .ok c
  else match c.checkNamed i g.ctl with
    | .error t => .error t
    | .ok c =>
      if g.idx % 4 ≠ 0 then .error (trapAt tAlign g.idx c.mask)
      else if g.dst % 4 ≠ 0 then .error (trapAt tAlign g.dst c.mask)
      else if 2 ^ 31 ≤ g.idx ∨ c.scrSize < g.idx + 4 * g.count then .error (trapAt tScratch g.idx c.mask)
      else if 2 ^ 31 ≤ g.dst ∨ c.scrSize < stampPlace g.dst g.count g.rowb + 8 then .error (trapAt tScratch g.dst c.mask)
      else .ok c

/-- The address of a row (modulo 2^52). -/
def rowAddr (src stride k : Nat) : Nat := (src + k * stride) % 2 ^ 52

/-- The span of the rows, as physical ranges. -/
def Ctx.gathSpan (c : Ctx) (g : GathDesc) (idx : List Nat) : List (Nat × Nat) :=
  match idx.min?, idx.max? with
  | some lo, some hi => c.physical (rowAddr g.src g.stride lo) ((hi - lo) * g.stride + g.rowb)
  | _, _ => []

/-- Posting the descriptor with its indices to the core's Gather Engine. -/
def Ctx.postGath (c : Ctx) (g : GathDesc) (idx : List Nat) : Ctx :=
  let id := c.s.uid
  let cmd : GathCmd :=
    { id := id, team := c.ref.team, gen := c.t.gen, phase := c.t.phasen, group := c.ref.group, op := id, src := g.src, idx := idx,
      count := g.count, rowb := g.rowb, stride := g.stride, dst := g.dst, ctl := BitVec.ofNat 32 g.ctl, left := List.range g.count, credited := 0,
      ver := c.s.ver, cap := none, torn := [] }
  let c := c.addOp .ga false (.gath id)
  let vf := (c.func.map (·.vf)).getD 256
  { c with s := idx.foldl (fun s k => s.askHostRange vf id c.root (rowAddr g.src g.stride k) g.rowb) { c.s with gaths := c.s.gaths ++ [cmd] } }

def execGath (d : Reg) (s : State) :=
  issue (.gath d) noEarly (fun c =>
    let g := gathDesc (c.rd d 8 0)
    if c.act = [] then .ok c
    else match c.gathCheck (.gath d) g with
      | .error t => .trap t
      | .ok c =>
        let idx := if 65536 < g.count ∨ 4096 < g.rowb then [] else (List.range g.count).map fun j => readNat c.t.live.scr (g.idx + 4 * j) 4
        if c.t.pb = [] ∧ c.t.drain = [] then .ok (c.posting.postGath g idx)
        else c.afterPublish (c.gathSpan g idx) fun c => .ok (c.postGath g idx)) s

/-- A malformed descriptor (R380): no byte moves. -/
def GathCmd.bad (c : GathCmd) : Bool :=
  bits c.ctl.toNat 20 12 != 0 || decide (65536 < c.count) || c.rowb % 4 != 0 || decide (c.rowb < 4 ∨ 4096 < c.rowb) ||
    c.idx.any fun k => rowAddr c.src c.stride k % 4 != 0

/-- The stamp: 0, or bit 63 and the code. A stamp that does not fit in the scratchpad has no place. -/
def State.gathStamp (s : State) (t : Team) (c : GathCmd) (code : Nat) : State :=
  let a := stampPlace c.dst c.count c.rowb
  if s.scrSizeOf t < a + 8 then s else s.landScr c.team c.phase c.torn a (leBytes 8 (if code = 0 then 0 else 2 ^ 63 + code))

/-- The end of a command: its stamp, on an error the breaking of its barrier, for no rows the credit of 0 bytes (R380), and its operation
finishes. -/
def State.gathEnd (s : State) (t : Team) (c : GathCmd) (code : Nat) : State :=
  let s := s.gathStamp t c code
  let s := if code = 0 ∧ c.count ≠ 0 then s else s.modTeam c.team fun t => t.engineEnd c.ctl.toNat (code == 0) 0
  let s := { s with gaths := s.gaths.filter fun x => x.id != c.id }
  (s.finishOp c.team c.group c.op).finishPub c.team

/-- One row lands and is credited, or the code of its fault. -/
def State.gathRow (s : State) (c : GathCmd) (root j : Nat) : Nat × State :=
  let va := rowAddr c.src c.stride (c.idx.getD j 0)
  match (s.srcFaults root false va c.rowb 0).map (·.2.code) with
  | k :: _ => (k, s)
  | [] =>
    let r := s.engRead root none c.ver c.cap va c.rowb
    let s := r.2.landScr c.team c.phase c.torn (c.dst + j * c.rowb) r.1
    let s := s.modTeam c.team fun t => t.engineEnd c.ctl.toNat true c.rowb
    (0, { s with gaths := modBy (fun x => x.id == c.id) (fun x => { x with left := x.left.filter (· != j), credited := x.credited + c.rowb }) s.gaths })

/-- The scratchpad lines that some rows of a command and its stamp are to write. -/
def State.gathKeys (s : State) (t : Team) (c : GathCmd) (rows : List Nat) : List UndoKey :=
  (rows.flatMap fun j => s.lineKeys t (c.dst + j * c.rowb) c.rowb) ++ s.lineKeys t (stampPlace c.dst c.count c.rowb) 8

/-- GATH_COMPLETE: the rows of a mask land, in any number and order over several events; the stamp follows the last one (R380). It waits
for the boundary that makes room in the Undo Log (R138, R140; log 105). -/
def execGathComplete (cmd rows : Nat) (s : State) : Host.Outcome State Fault Refusal :=
  match findBy (fun c : GathCmd => c.id == cmd) s.gaths with
  | none => .next s
  | some c =>
    match s.team? c.team with
    | none => .next s
    | some t =>
      let root := ((s.funcOf t).map (·.root)).getD 0
      let now := if c.bad then [] else c.left.filter rows.testBit
      if s.awaitsHost cmd then .next s
      else if !s.undoFits t c.phase (s.gathKeys t c now) then .next (s.makeRoom t)
      else if c.bad then .next (s.gathEnd t c 0x10)
      else
        let r := now.foldl (fun (acc : Nat × State) j => if acc.1 = 0 then acc.2.gathRow c root j else acc) (0, s)
        .next (if r.1 ≠ 0 ∨ now.length = c.left.length then r.2.gathEnd t c r.1 else r.2)

end Sys2Proof.Machine
end

