-- ==== Sys2Proof/Machine/Fetch.lean ====
section
/-!
DEFINITION. Fetching (R73, R74), what a fragment does when its turn comes (R167, R188, R254), and the issue slot that it needs (R160,
R161, R176).
-/
namespace Sys2Proof.Machine

/-! ### Fetch -/

/-- One instruction word at a virtual address, from the bytes that have taken effect; the fault code otherwise (R74). -/
def State.fetchWord (s : State) (root : Nat) (va : VAddr) : Except Nat Nat :=
  (s.access root .fetch va.toNat).map fun r => readNat s.mem r.1 4

/-- What stands at a fragment's program counter: an instruction, or the trap of fetch or of decoding (R99, checks 1 and 2). -/
def Ctx.fetch (c : Ctx) : Except Trap Instr :=
  match c.s.fetchWord c.root c.f.pc with
  | .error k => .error (trapAt k c.f.pc.toNat c.mask)
  | .ok w =>
    let two : Except Nat Nat := if wordCount w = 2 then c.s.fetchWord c.root (c.f.pc + 4) else .ok 0
    match two with
    | .error k => .error (trapAt k (c.f.pc + 4).toNat c.mask)
    | .ok e =>
      match decode w e with
      | .error r => .error (illegal [w, e] r c.mask)
      | .ok i => .ok i

/-- A pending trap of the group that this fragment takes (R188): the first one in issue order that holds one of its slices, or
whose slices no fragment of the group holds. A fragment already in a handler takes none (R166). -/
def Ctx.pending (c : Ctx) : Option Pending :=
  let held := fun m => c.g.frags.any fun f => (f.slices &&& BitVec.ofNat 8 m) != 0
  if c.g.handler.isSome then none
  else findBy (fun p =>
    let m := match p with
      | .esc _ _ m => m
      | .remote _ _ _ _ _ m _ => m
    (c.f.slices &&& BitVec.ofNat 8 m) != 0 || !held m) c.g.pend

/-- What a fragment does in its turn. -/
inductive Turn where
  | skip
  | run (i : Instr)
  | trap (t : Trap)
  deriving DecidableEq, Repr

/-- A fragment may issue: it is runnable, its team is ready, it is not held, and it does not wait for its own publish or for
the front end. -/
def Ctx.mayIssue (c : Ctx) : Bool := c.f.wait == .run && c.t.ready && !c.held && (!c.t.rb || c.f.stage != 0)

def Ctx.turn (c : Ctx) : Turn :=
  if !c.mayIssue then .skip
  else match c.g.handler with
    | some h => (h.todo.head?.map Turn.run).getD .skip
    | none =>
      match c.pending with
      | some (.esc ..) => .run .escfaultTaken
      | some (.remote ..) => .run .remoteTrapTaken
      | none =>
        match c.fetch with
        | .ok i => .run i
        | .error t => .trap t

/-! ### Issue slots (R160) -/

/-- The slots V0, V1, M and X; `v` is a need that V0 or V1 meets. -/
inductive Slot4 where
  | v | v0 | v1 | m | x
  deriving DecidableEq, Repr

/-- The slot that an illegal encoding is charged to, by the class of its first word. -/
def slotOfClass (w : Nat) : Slot4 :=
  match bits w 30 2 with
  | 2 => .m
  | 3 => .x
  | _ => .v0

/-- The slot kind of an instruction. -/
def slotOf : Instr → Slot4
  | .div _ | .rem _ | .sqrt _ | .rcp _ | .rsq _ | .ex2 _ | .lg2 _ | .sin _ | .cos _ | .tanh _ => .x
  | .bra _ | .call .. | .regang | .guard _ | .winb _ | .exit | .trap _ | .get .. | .put .. | .rqxfer _ | .waitc _ | .ret _
  | .brx .. | .rft => .x
  | .mma _ | .accld _ | .accst _ | .accz _ | .bfpack _ | .bfunpk _ | .gath _ | .coll _ | .rshard _ | .sealo .. | .seala _
  | .sealc .. | .lnch .. => .x
  | .nop => .v
  | i =>
    match (encode i).head? with
    | none => .x
    | some w => if bits w 30 2 = 2 then .m else if bits w 30 2 = 3 ∧ bits w 24 6 ≠ 0 then .m else .v

/-- An instruction of slot M that reaches global memory (R161, R176). -/
def reachesGlobal : Instr → Bool
  | .ld _ | .st _ | .ldp _ | .stp _ | .atom _ | .red _ | .pref _ | .lde _ | .atome _ | .cas _ | .rld _ | .rst _ | .ratom _
  | .rfencef .. => true
  | _ => false

/-- The throttle step in force: a partition whose controllers are all below half full is never throttled (R176). -/
def Part.throttle (p : Part) : Nat := if p.busy = [] then 0 else p.step

/-- A fragment that passes the interlocks on a clock (R161), with the slot it needs. A pending trap that it takes in place of its next issue
(R188, R254) needs X (DESIGN CHOICE, log 99). -/
def Ctx.readySlot (c : Ctx) : Option Slot4 :=
  match c.turn with
  | .skip => none
  | .trap t => some (if t.code = tIllegal then slotOfClass t.aux0.toNat else .v0)
  | .run i =>
    if i.isEvent then some .x
    else match c.check i with
      | some t => some (if t.code = tIllegal then slotOfClass t.aux0.toNat else slotOf i)
      | none =>
        if c.blocked i && !c.hopeless i then none
        else
          let k := (c.part.map Part.throttle).getD 0
          let clk := (c.coreOf.map (·.clk)).getD 0
          if reachesGlobal i && clk % 2 ^ k != 0 then none else some (slotOf i)

/-! ### Placing one instruction where the machine fetches next -/

def fresh (l : List Nat) : Nat := l.foldl (fun m x => max m (x + 1)) 0

/-- The two words of a table word, as the hardware stores them (R8, R73). -/
def tableBytes (w : Nat) : List Byte := leBytes 4 (bits w 0 32) ++ leBytes 4 (bits w 32 32)

/-- The generators of the lanes of the group that is `k`-th in its launch (R126). -/
def seedsOf (seed : Word) (k : Nat) : Store 32 :=
  putAll [] ((List.range 32).map fun l =>
    let x : Word := seed + 0x9E3779B9#32 * BitVec.ofNat 32 (32 * k + l)
    (l, if x = 0 then 1 else x))

def emptyGroup (role : Role) (live : Bool) (pc : VAddr) : Group where
  role := role
  win := 0
  alloc := 480
  v := []
  s := []
  p := []
  live := BitVec.allOnes 32
  frags := if live then [⟨pc, 255, 0, none, .run, 0, 0, false⟩] else []
  tilew := 32
  cflags := 0
  rng := []
  latch := none
  sb := []
  ops := []
  escs := []
  escu := 0
  pend := []
  trap := ⟨0, 0, 0, 0, 0, 0, 0⟩
  handler := none
  slots := []
  loop := none
  epochs := []
  xferDone := false
  ended := false

/-- A kernel with one group of each role, for a program that is placed from outside. -/
def loaderMeta : Meta where
  dur := false
  coop := false
  entry := 4096
  n := [1, 1, 1]
  tset := 0
  regs := [480, 480, 480]
  und := 64
  acc := 4
  scr := 4
  reg := 12
  dim := [3, 1, 1]
  escq := 65536
  cpring := 0
  slots := 8
  bars := []
  mirOff := 0
  mirSize := 0
  seed := 1
  tiles := [(0, false, 256)]

/-- The group that issues, by the role an instruction asks for. -/
def loaderGroup (w : Nat) : Nat :=
  match (decodeTableWord 64 w).bind instrRole with
  | some .copy => 0
  | some .matrix => 1
  | _ => 2

/-- A program comes to run as a launch places a team: a partition, a function whose context maps the first GiB, a launch and
a team of one group of each role, with one instruction at its entry (log 9). -/
def State.load (s : State) (w : Nat) : State :=
  let part := fresh (s.parts.map (·.id))
  let vf := fresh (s.funcs.map (·.vf))
  let l := fresh (s.launches.map (·.id))
  let t := fresh (s.teams.map (·.id)) + 1
  let g := loaderGroup w
  let data : TeamData :=
    { groups := [Role.copy, .matrix, .vector].zipIdx.map fun x => { emptyGroup x.1 (g == x.2) 4096 with rng := seedsOf 1 x.2 },
      budgets := [480, 480, 480], quota := none, scr := writeBytes [] 0 (leBytes 4 64 ++ leBytes 4 8), tiles := [(0, [])], loops := [],
      seals := [] }
  { s with
    mem := writeBytes (writeBytes (writeBytes s.mem 0x40000000 (leBytes 8 0x40010001)) 0x40010000 (leBytes 8 3)) 4096 (tableBytes w)
    parts := s.parts ++ [⟨part, 0xFFFF, 0, 0, false, false, false, BitVec.allOnes 144 |>.zeroExtend 192, 0, 0, 0, 0, 0, 0, 0, 0, 0, .on, [], 0, none, []⟩]
    funcs := s.funcs ++ [⟨vf, part, .run, false, false, 0, 0, 0x40000000, 0x10000000, 65536, 65536, 0, 0, 0, 0, 0, 64, [], [],
      [⟨0, true, 0, 0, some 1⟩], none, none, 0, [], []⟩]
    launches := s.launches ++ [{
      id := l, vf := vf, q := 0, seq := 1, meta_ := 0, grid := (1, 1, 1), flags := 0, args := 0, arglen := 0,
      tag := 0, parkto := 0, recOk := true, acc := 0, fpthr := 0, posted := [], md := some loaderMeta, status := .placing, placed := 1,
      retired := 0, ended := [], count := 0, fteam := BitVec.allOnes 32, fcode := 0, fpev := [], ver0 := 0, hit := false, instances := [] }]
    teams := s.teams ++ [{
      id := t, launch := l, idx := 0, core := 0, stamp := 0, saved := false, ready := true, gen := 0, phasen := 0,
      live := data, ckpt := data, dur := data, durPhase := 0, pb := [], rsts := [], drain := [], pub := none, sent := [], snap := [], snapMark := s.ver,
      undo := [], undoAfter := false, bars := [], binds := [], sealKept := [], torn := [], rb := false, leave := false, ending := .no }]
    plan := [⟨t, g, 0⟩]
    agenda := [] }

/-- A fragment that fetches in its turn, with the physical addresses of its two words. -/
def State.fetchPlace (s : State) (r : FragRef) : Option (Nat × Nat) :=
  match s.ctx r with
  | none => none
  | some c =>
    if !c.mayIssue || c.g.handler.isSome || c.pending.isSome then none
    else match c.s.access c.root .fetch c.f.pc.toNat, c.s.access c.root .fetch (c.f.pc + 4).toNat with
      | .ok x, .ok y => some (x.1, y.1)
      | _, _ => none

/-- One instruction placed where the machine fetches next: at the program counter of the fragment whose turn it is; a machine
with none gets the smallest launch that runs it. -/
def State.placeWord (s : State) (w : Nat) : State :=
  match s.plan with
  | [] => s.load w
  | r :: _ =>
    match s.fetchPlace r with
    | none => s.load w
    | some (x, y) => { s with mem := writeBytes (writeBytes s.mem x (leBytes 4 (bits w 0 32))) y (leBytes 4 (bits w 32 32)), agenda := [] }

end Sys2Proof.Machine
end

