-- ==== Sys2Proof/Machine/Func.lean ====
section
/-!
DEFINITION. Launches in the Launch Journal: acceptance (R2 to R4, R32, R33), team retirement and reports (R40 to R42), and what
stops a function (R281, step 1 of R284).
-/
namespace Sys2Proof.Machine

/-! ### Reports (R40, R41, R42) -/

/-- A completion record (R41; log 95). -/
def completionBytes (l : Launch) (status kind team : Nat) : List Byte :=
  leBytes 8 l.seq ++ leBytes 4 l.tag.toNat ++ leBytes 2 status ++ leBytes 2 kind ++ leBytes 4 team ++
    leBytes 4 l.fteam.toNat ++ leBytes 4 l.fcode ++ leBytes 4 0

def Launch.teams (l : Launch) : Nat := l.grid.1 * l.grid.2.1 * l.grid.2.2
def Launch.teamRec (l : Launch) : Bool := l.flags / 4 % 2 == 1

def LStatus.code : LStatus → Nat
  | .failed c => c
  | _ => 0

/-- A team retires: it is counted, and its record goes out where the launch asks for one. -/
def State.retireTeam (s : State) (l : Launch) (i : Nat) : State :=
  let s := s.modLaunch l.id fun l => { l with ended := l.ended.filter (· != i), retired := max l.retired (i + 1), count := l.count + 1 }
  if l.teamRec then s.post l.vf (completionBytes l 0 1 i) else s

/-- The launch's completion record goes out, and the launch leaves the journal. -/
def State.reportLaunch (s : State) (l : Launch) : State :=
  let s := s.post l.vf (completionBytes l l.status.code 0 l.count)
  { s with launches := s.launches.filter fun x => x.id != l.id }

/-- Every earlier launch of the queue has been reported (R41). -/
def State.inTurn (s : State) (l : Launch) : Bool :=
  !s.launches.any fun k => k.vf == l.vf && k.q == l.q && decide (k.acc < l.acc)

/-- The next team that may retire: in index order, or the lowest that ended by EXIT once a failed launch runs no team (R40, R41). -/
def State.nextRetired (s : State) (l : Launch) : Option Nat :=
  match l.status with
  | .failed _ => if s.teams.any (fun t => t.launch == l.id) then none else l.ended.min?
  | _ => if l.ended.contains l.retired then some l.retired else none

/-- All teams have retired, or none is left of a launch that failed. -/
def State.complete (s : State) (l : Launch) : Bool :=
  !s.teams.any (fun t => t.launch == l.id) && l.ended == [] &&
    (match l.status with
     | .failed _ => true
     | .accepted => false
     | _ => decide (l.teams ≤ l.retired))

/-! ### Acceptance (R2, R3, R32, R33) -/

/-- A launch record's fields; whether it keeps the limits of R32 (R39). -/
def launchOfRecord (id vf q ver fpthr : Nat) (bs : List Byte) : Launch :=
  let f := fun (o n : Nat) => leNat ((bs.drop o).take n)
  { id := id, vf := vf, q := q, seq := f 0 8, meta_ := f 8 8, grid := (f 16 4, f 20 4, f 24 4), flags := f 28 4, args := f 32 8,
    arglen := f 40 4, tag := BitVec.ofNat 32 (f 44 4), parkto := f 48 4,
    recOk := decide (1 ≤ f 16 4 ∧ 1 ≤ f 20 4 ∧ 1 ≤ f 24 4 ∧ f 40 4 ≤ 4096 ∧ f 28 4 < 8 ∧ f 52 12 = 0 ∧
      f 16 4 * f 20 4 * f 24 4 ≤ 2 ^ 32 - 1),
    acc := id, fpthr := fpthr, posted := [], md := none, status := .accepted, placed := 0, retired := 0, ended := [], count := 0,
    fteam := BitVec.allOnes 32, fcode := 0, fpev := [], ver0 := ver, hit := false, instances := [] }

def State.queue? (s : State) (vf q : Nat) : Option Queue := (s.func? vf).bind fun f => findBy (fun x => x.q == q) f.queues

/-- What the journal does with an arriving record. -/
inductive Arrival where
  | again | new | none
  deriving DecidableEq, Repr

/-- A function acknowledges records: it is in RUN, and no function of its partition is in ERROR (R3, R281, step 1 of R284). -/
def State.acks (s : State) (f : Func) : Bool := f.ifst == .run && !s.funcs.any fun k => k.part == f.part && k.ifst == .error

/-- A record is a resubmission, is accepted, or is not acknowledged: it must find two dies to hold it (R2). -/
def State.arrival (s : State) (vf q seq : Nat) : Arrival :=
  match s.func? vf, s.queue? vf q with
  | some f, some k =>
    if !s.acks f then .none
    else if k.seq.any fun m => decide (seq ≤ m) then .again
    else if k.en ∧ 2 ≤ s.workingDies.length ∧ (s.launches.filter fun l => l.vf == vf && l.q == q).length < 4096 then .new
    else .none
  | _, _ => .none

/-- A new record enters the journal. -/
def State.accept (s : State) (vf q : Nat) (bs : List Byte) : State :=
  let fpthr := ((s.queue? vf q).map (·.fpthr)).getD 0
  let l := { launchOfRecord s.uid vf q s.ver fpthr bs with copies := s.copyDies, copyChans := s.copyChansOn s.copyDies }
  let s := s.modFunc vf fun f => { f with queues := modBy (fun x => x.q == q) (fun x => { x with seq := some l.seq }) f.queues }
  { s with launches := s.launches ++ [l], uid := s.uid + 1 }

/-! ### Stopping a partition (step 1 of R284) -/

/-- One launch ends KILLED: its teams are killed, the teams that ended by EXIT retire, and it is reported. -/
def State.killReport (s : State) (id : Nat) : State :=
  let s := ((s.teams.filter fun t => t.launch == id).map (·.id)).foldl (fun s i => s.killTeam i) s
  let s := s.modLaunch id fun l => { l with status := .failed 5 }
  match s.launch? id with
  | none => s
  | some l =>
    let s := (sortNat l.ended).foldl (fun (s : State) i => match s.launch? id with
      | some l => s.retireTeam l i
      | none => s) s
    match s.launch? id with
    | none => s
    | some l => s.reportLaunch l

/-- Step 1 of R284 for a partition: every accepted launch of its functions is reported KILLED, in acceptance order; killing the
teams closes their contexts and drops their commands. -/
def State.stopPart (s : State) (part : Nat) : State :=
  ((s.launches.filter fun l => (s.func? l.vf).any fun f => f.part == part).map (·.id)).foldl (fun s i => s.killReport i) s

/-- A function enters ERROR (R251, R281). -/
def State.enterError (s : State) (vf : Nat) : State :=
  match s.func? vf with
  | none => s
  | some f => (s.modFunc vf fun f => { f with ifst := .error }).stopPart f.part

end Sys2Proof.Machine
end

