-- ==== Sys2Proof/Machine/Remote.lean ====
section
/-!
DEFINITION. Remote access: RLD, RST, RATOM, RFLUSH and RFENCEF (R252 to R257, R419, R420), the serving of remote requests at a
peer (R251, R254, R255), replies and resends (R250), and the fabric's routes (R248, R249, R304).
-/
namespace Sys2Proof.Machine

/-! ### Peers (R253) -/

/-- The distinct peers of some lanes, ascending, with their lanes; an s register names one. -/
def Ctx.peers (c : Ctx) (b : Reg) (lanes : List Nat) : List (Nat × List Nat) :=
  let q := fun l => (c.word b l).toNat
  if b.isV then (sortNat (lanes.map q).eraseDups).map fun p => (p, lanes.filter fun l => q l == p)
  else if lanes = [] then [] else [(q 0, lanes)]

/-- The checks at the issue for one peer: cause 1 of R254, then alignment. -/
def Ctx.peerBad (c : Ctx) (n : Nat) (off : Nat → Nat) (p : Nat × List Nat) : Option Trap :=
  if 9215 < p.1 ∨ !c.s.reachable p.1 then
    some ⟨tRemote, off (p.2.headD 0), maskOf p.2, 1, BitVec.ofNat 32 p.1, 0, none⟩
  else alignOf n (p.2.map fun l => (l, off l))

/-- One issue for each peer: a trap at a later one does not undo the earlier ones. -/
def eachPeer (bad : Ctx → Nat × List Nat → Option Trap) (send : Ctx → Nat × List Nat → Ctx) : List (Nat × List Nat) → Ctx → Res
  | [], c => .ok c
  | p :: r, c => match bad c p with
    | some t => .part c t
    | none => eachPeer bad send r (send c p)

/-- A remote instruction: the first peer's checks, room in RM for every issue, what the instruction begins with, its issues. -/
def Ctx.remote (c : Ctx) (ps : List (Nat × List Nat)) (bad : Ctx → Nat × List Nat → Option Trap) (pre : Ctx → (Ctx → Res) → Res)
    (room : Ctx → Bool) (send : Ctx → Nat × List Nat → Ctx) : Res :=
  match ps with
  | [] => .ok c
  | p :: _ => match bad c p with
    | some t => .trap t
    | none =>
      if 64 < c.g.count .rm + ps.length then .wait
      else pre c fun c => if room c then eachPeer bad send ps c else .wait

/-- Nothing comes first. -/
def noPre (c : Ctx) (k : Ctx → Res) : Res := k c

/-- A boundary at DOMAIN scope that the instruction does not wait for, once the previous publish has completed (R145). -/
def boundaryPre (f : Ctx → Ctx) (c : Ctx) (k : Ctx → Res) : Res := if c.t.pub.isSome then .wait else k (f c)

def Ctx.slices (c : Ctx) : Nat := laneSlices c.mask

/-! ### RLD and RST (R252) -/

def Ctx.sendRld (o : RemOps) (c : Ctx) (p : Nat × List Nat) : Ctx :=
  let n := xferBytes o.w o.sz
  let dst := c.runIds o.d o.w.regs
  let op := c.s.uid
  let m := c.s.message c.t .rld p.1 c.t.phasen (op + 1) 0 .add n (p.2.map fun l => ⟨l, c.rd o.a 2 l, []⟩)
  let c := dst.foldl (fun c id => c.noteReg id) c
  let c := (c.addOp .rm false (.remote ⟨dst, [], [], elemBytes o.sz, n, false, o.sc, c.s.ver, none, false⟩ [op + 1] none)).setSb dst
  c.viaState fun s => { (s.sendReq (s.request c.t c.ref.group op c.slices c.t.phasen m)) with uid := op + 2 }

def execRld (o : RemOps) (s : State) :=
  issue (.rld o) noEarly (fun c =>
    let ps := c.peers o.b (c.lanes o.d)
    c.remote ps (fun c => c.peerBad (xferBytes o.w o.sz) fun l => c.rd o.a 2 l)
      (fun c k => k (if o.sc = .acq then c.refresh else c)) (fun _ => true) (Ctx.sendRld o)) s

/-- A store to one peer enters the Phase Buffer and retires (R71, R252). -/
def Ctx.sendRst (o : RemOps) (c : Ctx) (p : Nat × List Nat) : Ctx :=
  let item : RstItem :=
    { peer := p.1, lanes := p.2.map fun l => ⟨l, c.rd o.a 2 l, c.storeBytes o.d o.w o.sz l⟩, group := c.ref.group, slices := c.slices,
      len := xferBytes o.w o.sz, op := c.s.uid }
  ({ c with t := { c.t with rsts := c.t.rsts ++ [item] } } : Ctx).addOp .rm true .stored

def execRst (o : RemOps) (s : State) :=
  issue (.rst o) noEarly (fun c =>
    let lanes := if o.d.isV || o.a.isV || o.b.isV then c.act else c.act.take 1
    c.remote (c.peers o.b lanes) (fun c => c.peerBad (xferBytes o.w o.sz) fun l => c.rd o.a 2 l)
      (if o.sc = .rel then boundaryPre fun c => c.boundaryBefore .domain else noPre) (fun _ => true) (Ctx.sendRst o)) s

/-! ### RATOM (R252, R255, R420) -/

/-- The next sequence for a target. -/
def State.nextSeq (s : State) (q : Nat) : Nat := ((findBy (fun x : Nat × Nat => x.1 == q) s.ratomSeq).map Prod.snd).getD 0

def State.takeSeq (s : State) (q : Nat) : State :=
  { s with ratomSeq := (q, (s.nextSeq q + 1) % 65536) :: s.ratomSeq.filter fun x => x.1 != q }

/-- `k` more sequences to a target stay in its window of 64. -/
def State.seqRoom (s : State) (q k : Nat) : Bool :=
  s.rreqs.all fun r => r.msg.kind != .ratom || r.msg.dst != q || decide ((s.nextSeq q + 65536 - r.msg.seq) % 65536 + k ≤ 64)

def Ctx.offsets (c : Ctx) (a : Reg) (ls : List Nat) : List Nat := (ls.map fun l => c.rd a 2 l).eraseDups

/-- One request for each offset, each with a sequence of its own. -/
def Ctx.sendRatom (o : RatomOps) (c : Ctx) (p : Nat × List Nat) : Ctx :=
  let n := atomBytes o.wide
  let dst := c.runIds o.d (atomRegs o.wide)
  let offs := c.offsets o.a p.2
  let op := c.s.uid
  let c := dst.foldl (fun c id => c.noteReg id) c
  let c := (c.addOp .rm false (.remote ⟨dst, [], [], n, n, false, .default, c.s.ver, none, false⟩ ((List.range offs.length).map (op + 1 + ·))
    (some (c.effScope o.sc)))).setSb dst
  let lane := fun (l : Nat) => (⟨l, c.rd o.a 2 l, leBytes n (c.rd o.d (atomRegs o.wide) l)⟩ : MsgLane)
  c.viaState fun s => offs.foldl (fun s off =>
    let m := s.message c.t .ratom p.1 c.t.phasen s.uid (s.nextSeq p.1) o.op n ((p.2.filter fun l => c.rd o.a 2 l == off).map lane)
    { ((s.takeSeq p.1).sendReq (s.request c.t c.ref.group op c.slices c.t.phasen m)) with uid := s.uid + 1 }) s

def execRatom (o : RatomOps) (s : State) :=
  issue (.ratom o) noEarly (fun c =>
    let ps := c.peers o.b (c.lanes o.d)
    c.remote ps (fun c => c.peerBad (atomBytes o.wide) fun l => c.rd o.a 2 l) (fun c k => c.publishFirst o.sc k)
      (fun c => ps.all fun p => c.s.seqRoom p.1 (c.offsets o.a p.2).length) (Ctx.sendRatom o)) s

/-! ### RFLUSH and RFENCEF (R256) -/

/-- A request without a destination register. -/
def Ctx.sendBare (c : Ctx) (kind : MsgKind) (phase peer len : Nat) (lanes : List MsgLane) (held : Bool) : Ctx :=
  let op := c.s.uid
  let m := c.s.message c.t kind peer phase (op + 1) 0 .add len lanes
  let c := c.addOp .rm false (.remote ⟨[], [], [], 8, 8, false, .default, c.s.ver, none, false⟩ [op + 1] none)
  let c := { c with g := { c.g with ops := modBy (fun o => o.id == op) (fun o => { o with phase := phase }) c.g.ops } }
  c.viaState fun s =>
    let r := { s.request c.t c.ref.group op c.slices phase m with held := held }
    { (if held then { s with rreqs := s.rreqs ++ [r] } else s.sendReq r) with uid := op + 2 }

def execRflush (b : Reg) (s : State) :=
  issue (.rflush b) noEarly (fun c =>
    c.remote (c.peers b c.act) (fun c => c.peerBad 1 fun _ => 0) noPre (fun _ => true) fun c p =>
      c.sendBare .flush c.t.phasen p.1 0 (p.2.map fun l => ⟨l, 0, []⟩) false) s

/-- RFENCEF: the flag belongs to the phase that its boundary closes, and leaves once the publish has completed. -/
def execRfencef (d a b : Reg) (s : State) :=
  issue (.rfencef d a b) noEarly (fun c =>
    c.remote (c.peers b c.act) (fun c p => c.peerBad 8 (fun l => c.rd a 2 l) (p.1, p.2.take 1))
      (boundaryPre fun c => c.boundary .domain false false none) (fun _ => true) fun c p =>
        let l := p.2.headD 0
        c.sendBare .flag (c.t.phasen - 1) p.1 8 [⟨l, c.rd a 2 l, leBytes 8 (c.rd d 2 l)⟩] true) s

/-! ### Serving a request at a peer (R251, R254, R255) -/

/-- The functions that a key names; one in ERROR matches none (step 1 of R284). -/
def State.keyFuncs (s : State) (key : Word) : List Func :=
  if key = 0 then [] else s.funcs.filter fun f => f.xwkey == key && f.ifst != .error

/-- The physical pieces of a window range, or the cause of R254. -/
def State.window (s : State) (f : Func) (store : Bool) (off len : Nat) : Except Nat (List (Nat × Nat × Nat)) :=
  if 2 ^ 40 ≤ off ∨ f.xwsize < off + len then .error 3
  else (pages (f.xwbase + off) len).mapM fun p => match s.translate f.root p.1 with
    | none => .error 4
    | some (pg, pa) => if pg.prot ∨ (store ∧ (pg.ro ∨ pg.inv)) then .error 5 else .ok (pa, p.2.1, p.2.2)

/-- A reply of this device. -/
def State.answer (s : State) (m : Msg) (ev : List Nat) (data : List MsgLane) (fails : List (Nat × Nat)) : Reply where
  kind := m.kind
  src := s.devId
  dst := m.src
  req := m.req
  seq := m.seq
  alt := 0
  hop := 0
  ev := ev
  data := data
  fails := fails

/-- The lanes of a request with their pieces, and the lanes that fail. A poisoned line fails its lane with the model's cause 0, which
is a machine check at the source (R299). -/
def State.laneWindows (s : State) (f : Func) (m : Msg) (store : Bool) : List (MsgLane × List (Nat × Nat × Nat)) × List (Nat × Nat) :=
  m.lanes.foldl (fun acc l => match s.window f store l.off m.len with
    | .error k => (acc.1, acc.2 ++ [(l.lane, k)])
    | .ok ps =>
      if m.kind != .rst && m.kind != .flag && ps.any (fun p => s.poisoned p.1 p.2.2) then (acc.1, acc.2 ++ [(l.lane, 0)])
      else (acc.1 ++ [(l, ps)], acc.2)) ([], [])

/-- The bytes of some pieces, and the writes of bytes to them. -/
def State.readPieces (s : State) (ps : List (Nat × Nat × Nat)) : List Byte := ps.flatMap fun p => s.bytesNow p.1 p.2.2

def piecesOf (ps : List (Nat × Nat × Nat)) (bs : List Byte) : List (Nat × List Byte) :=
  ps.map fun p => (p.1, (bs.drop p.2.1).take p.2.2)

/-- A RATOM's effect: its lanes in ascending order at one location (R149), remembered in the replay table. -/
def State.serveRatom (s : State) (f : Func) (m : Msg) : Reply × State :=
  match findBy (fun r : Replay => r.src == m.src && r.seq == m.seq) s.replay with
  | some r => (s.answer m r.ev r.data [], s)
  | none =>
    let w := s.laneWindows f m true
    match w.1, w.2 with
    | (l, ps) :: rest, [] =>
      let ls : List AtomLane := ((l, ps) :: rest).map fun x => ⟨x.1.lane, x.1.off, leNat x.1.data, 0⟩
      let r := atomRun (atomFn m.op (m.len == 8)) ls (leNat (s.readPieces ps))
      let data := r.1.map fun x => (⟨x.1, l.off, leBytes m.len x.2⟩ : MsgLane)
      let mine := s.replay.filter fun x => x.src == m.src
      let s := s.physWrite f.vf (piecesOf ps (leBytes m.len r.2.1))
      (s.answer m r.2.2 data [],
        { s with replay := (s.replay.filter fun x => x.src != m.src) ++ (mine.drop (mine.length - 63)) ++ [⟨m.src, m.seq, data, r.2.2⟩] })
    | _, fails => (s.answer m [] [] fails, s)

/-- What a request does at the function that its key names. -/
def State.serve (s : State) (f : Func) (m : Msg) : Reply × State :=
  match m.kind with
  | .ratom => s.serveRatom f m
  | .flush => (s.answer m [] [] [], s)
  | .rld | .pull =>
    let w := s.laneWindows f m false
    (s.answer m [] (w.1.map fun x => ⟨x.1.lane, x.1.off, s.readPieces x.2⟩) w.2, s)
  | .rst | .flag =>
    let w := s.laneWindows f m true
    (s.answer m [] [] w.2, s.physWrite f.vf (w.1.flatMap fun x => piecesOf x.2 x.1.data))

/-- A message received counts once for its source, team and tag, resent or not (R145, R250). -/
def State.countRx (s : State) (m : Msg) : State :=
  let same := fun (r : RxCount) => r.src == m.src && r.team == m.team && r.tag == m.tag
  let l := if s.rxCounts.any same then s.rxCounts else s.rxCounts ++ [⟨m.src, m.team, m.tag, 0, []⟩]
  { s with rxCounts := modBy same (fun r => if r.reqs.contains m.req then r else { r with count := r.count + 1, reqs := m.req :: r.reqs }) l }

/-- A reply leaves on its route (R249); one to the device itself never enters the fabric. -/
def State.sendReply (s : State) (r : Reply) : State :=
  if r.dst = s.devId then { s with ownReplies := s.ownReplies ++ [r] }
  else match s.route r.dst with
    | none => s
    | some (alt, link) => { s with netReplies := s.netReplies ++ [(link, 0, { r with alt := alt })] }

/-- A reply that fails its request under R254; the model's own cause 0 is none of those. -/
def replyFailed (r : Reply) : Bool := r.fails.any fun f => f.2 != 0

/-- Receiving a request: it is served and answered, and counted where it has not failed, since its failure settles it (R145; log 56). Two
functions with its key both enter ERROR (R251). -/
def State.receive (s : State) (m : Msg) : State :=
  match s.keyFuncs m.key with
  | [f] =>
    let r := s.serve f m
    (if m.kind = MsgKind.pull ∨ replyFailed r.1 then r.2 else r.2.countRx m).sendReply r.1
  | l => (l.foldl (fun s f => s.enterError f.vf) s).sendReply (s.answer m [] [] (m.lanes.map fun x => (x.lane, 2)))

/-- Stores, flag writes and flushes of one pair of devices keep their order (R148 note 9, R250, R256). -/
def inOrder : MsgKind → Bool
  | .rst | .flag | .flush => true
  | _ => false

/-- This device has answered its own request, as it was last sent. -/
def State.selfDone (s : State) (m : Msg) : Bool := s.ownReplies.any fun r => r.req == m.req && r.seq == m.seq

/-- A message of this device to itself is on its way: it belongs to a request that was sent, nothing older of the ordered kinds is
still on its way, and it has not been answered yet. -/
def State.selfDue (s : State) (m : Msg) : Bool :=
  s.rreqs.any (fun r => r.id == m.req && !r.held && r.msg == m) && !s.selfDone m &&
    (!inOrder m.kind || (s.rreqs.takeWhile fun r => r.id != m.req).all fun r =>
      !(!r.held && r.msg.dst == s.devId && inOrder r.msg.kind) || s.selfDone r.msg)

/-- REMOTE_REQUEST_RECEIPT (R251 to R256). -/
def execRemoteRequestReceipt (m : Msg) (s : State) : Host.Outcome State Fault Refusal :=
  if m.dst ≠ s.devId ∨ (m.src = s.devId ∧ !s.selfDue m) then .next s else .next (s.receive m)

/-- RFENCEF_FLAG_WRITE: the publish of its phase has completed, and the flag is written to the peer under the phase tag of this moment
(R128); one to the device itself takes effect at once (R249, R256). -/
def execRfencefFlagWrite (req : Nat) (s : State) : Host.Outcome State Fault Refusal :=
  match findBy (fun r : RemReq => r.id == req && r.held) s.rreqs with
  | none => .next s
  | some r =>
    if (s.team? r.team).any (fun t => t.pub.any fun p => decide (p.phase ≤ r.phase)) then .next s
    else
      let r := { r with held := false, msg := { r.msg with tag := ((s.team? r.team).map fun t => t.phasen % 2 == 1).getD r.msg.tag } }
      let s := { s with rreqs := s.rreqs.filter fun x => x.id != req }.sendReq r
      .next (if r.msg.dst = s.devId ∧ s.selfDue r.msg then s.receive r.msg else s)

/-! ### Replies, resends, links (R250, R254, R255) -/

/-- The group has other remote atomics under way. -/
def Group.moreAtoms (g : Group) (op req : Nat) : Bool :=
  g.ops.any fun o => !o.fin && match o.kind with
    | .remote _ reqs (some _) => o.id != op || reqs.any (· != req)
    | _ => false

/-- The scope of a remote atomic whose boundary its last reply takes (R138). -/
def State.lastAtom (s : State) (r : RemReq) : Option Scope :=
  match s.opOf r.team r.group r.op with
  | some (t, g, o) => match o.kind with
    | .remote _ _ (some sc) => if t.gen = r.gen ∧ !g.moreAtoms r.op r.id then some sc else none
    | _ => none
  | none => none

/-- The values of a reply land, and the request is over. -/
def State.landReply (s : State) (q : RemReq) (r : Reply) : State :=
  let vals := (r.data.filter fun x => q.msg.lanes.any fun l => l.lane == x.lane).map fun x => (x.lane, x.data)
  match s.opOf q.team q.group q.op with
  | some (t, _, o) =>
    if t.gen ≠ q.gen ∧ q.msg.kind ≠ .flag then s
    else match o.kind with
      | .remote l _ _ =>
        let s := if l.dst ≠ [] then s.modTeam q.team fun t => t.land q.phase q.group (landAll l vals) else s
        s.countEv t.launch t.idx q.group (atomFmt (q.msg.len == 8)) r.ev
      | _ => s
  | none => s

/-- The request is over without a failure. -/
def State.closeReq (s : State) (q : RemReq) : State :=
  { s.modTeam q.team (fun t => t.modGroup q.group fun g => g.endReq q.op q.id) with rreqs := s.rreqs.filter fun x => x.id != q.id }

/-- The request that a reply answers. -/
def State.answered (s : State) (r : Reply) : Option RemReq :=
  findBy (fun q : RemReq => q.id == r.req && !q.held && q.msg.dst == r.src && q.msg.kind == r.kind && q.msg.seq == r.seq) s.rreqs

/-- A reply that comes before its turn: a flush is answered after the team's earlier stores and flag writes to the peer, those included
that still wait for their publish (R256), and a store or flag write after the ones sent before it, which a resend would otherwise undo
(R250). -/
def State.early (s : State) (q : RemReq) : Bool :=
  let store := fun (x : RemReq) => x.msg.dst == q.msg.dst && (x.msg.kind == .rst || x.msg.kind == .flag)
  (q.msg.kind == .flush && s.rreqs.any fun x => store x && x.team == q.team && decide (x.id < q.id)) ||
    ((q.msg.kind == .rst || q.msg.kind == .flag) && (s.rreqs.takeWhile fun x => x.id != q.id).any fun x => !x.held && store x)

/-- REMOTE_REPLY (R250, R254, R255): results land, failures are recorded; a late reply is dropped, and so is one to an earlier sending of a load; a
poisoned line at the peer is a machine check and nothing of the reply lands (R299), but not for a cancelled load (R257). A remote atomic's last
reply waits for the team's previous publish (R145). -/
def execRemoteReply (r : Reply) (s : State) : Host.Outcome State Fault Refusal :=
  let own := r.src == s.devId
  match s.answered r with
  | none => .next s
  | some q =>
    let last := s.lastAtom q
    if r.dst ≠ s.devId ∨ (own ∧ !s.ownReplies.contains r) ∨ s.early q ∨ q.msg.kind = .pull ∨
        (last.isSome ∧ (s.team? q.team).any fun t => t.pub.isSome) then .next s
    else
      let s := if own then { s with ownReplies := s.ownReplies.erase r } else s
      if r.fails.any fun f => f.2 == 0 then
        .next (if (s.team? q.team).any fun t => t.gen == q.gen then (s.closeReq q).machineCheck q.team q.group q.phase else s.closeReq q)
      else
        let s := s.landReply q r
        if r.fails = [] then
          let s := s.closeReq q
          .next (match last with
            | some sc => s.afterAtomic q.team sc
            | none => s)
        else .next ((s.failReq q r.fails).finishPub q.team)

/-- A request that no peer answers any more fails: an engine's command stops with UNREACHABLE (R261), the others with cause 6. -/
def State.unreachable (s : State) (q : RemReq) : State :=
  if q.msg.kind = .pull then
    { s with
      rreqs := s.rreqs.filter fun x => x.id != q.id
      colls := modBy (fun c => c.id == q.op) (fun c => { c with code := if c.code = 0 then 0x13 else c.code }) s.colls
      rses := modBy (fun c => c.id == q.op) (fun c =>
        { c with stop := some (c.stop.getD (0x13, q.msg.dst)), flight := c.flight.filter fun f => f != (q.group, q.slices) }) s.rses }
  else (s.failAll q 6).finishPub q.team

/-- A request as it is sent again: a load or pull reads anew, and a reply to an earlier sending is told by its number (R250). -/
def RemReq.again (q : RemReq) : RemReq :=
  if q.msg.kind = .rld ∨ q.msg.kind = .pull then { q with msg := { q.msg with seq := q.msg.seq + 1 } } else q

/-- Some of the requests are sent again, in the order in which they were sent. -/
def State.resend (s : State) (p : RemReq → Bool) : State :=
  let s := { s with rreqs := modBy p RemReq.again s.rreqs }
  (s.rreqs.filter p).foldl (fun s x => s.sendMsg x.msg) s

/-- REMOTE_RESEND_TIMEOUT: the request and every later unacknowledged message to that peer are resent in order, up to 8 times. -/
def execRemoteResendTimeout (req : Nat) (s : State) : Host.Outcome State Fault Refusal :=
  match findBy (fun q : RemReq => q.id == req && !q.held) s.rreqs with
  | none => .next s
  | some q =>
    if 8 ≤ q.resends then .next (s.unreachable q)
    else
      let s := { s with rreqs := modBy (fun x => x.id == req) (fun x => { x with resends := x.resends + 1 }) s.rreqs }
      let before := (s.rreqs.takeWhile fun x => x.id != req).map (·.id)
      .next (s.resend fun x => !x.held && x.msg.dst == q.msg.dst && !before.contains x.id)

/-- An entry with V cleared in every alternate of a link. -/
def cutLink (link e : Nat) : Nat :=
  (List.range 4).foldl (fun e j => if bits e (16 * j + 15) 1 = 1 ∧ bits e (16 * j) 5 = link then e - 2 ^ (16 * j + 15) else e) e

/-- The requests that a link carries and that nothing has answered. -/
def State.linkUsers (s : State) (link : Nat) : List RemReq :=
  s.rreqs.filter fun q => !q.held && q.msg.dst != s.devId && (s.route q.msg.dst).any fun r => r.2 == link

/-- A link fails (R250): its alternates become invalid, and the unacknowledged messages that used it are resent in order, or fail. -/
def State.cut (s : State) (link : Nat) : State :=
  let hit := s.linkUsers link
  let s := { s with
    routes := s.routes.foldl (fun r (e : Nat × BitVec 64) => put r e.1 (BitVec.ofNat 64 (cutLink link e.2.toNat))) s.routes }
  let lost := hit.filter fun q => !s.reachable q.msg.dst
  lost.foldl (fun s q => s.unreachable q) (s.resend fun q => hit.any (fun x => x.id == q.id) && s.reachable q.msg.dst)

/-- ROUTE_TABLE_LOAD (R248): reserved bits read as zero. -/
def execRouteTableLoad (dest : Nat) (entry : DWord) (s : State) : Host.Outcome State Fault Refusal :=
  .next (if 9215 < dest then s else { s with routes := put s.routes dest (entry &&& 0xF01FF01FF01FF01F) })

/-- The alternate on which a packet in transit goes on: its own, or the lowest that still reaches; number and link (R249). -/
def State.onward (s : State) (dst alt hop : Nat) : Option (Nat × Nat) :=
  let v := alternates (look s.routes dst).toNat
  (match findBy (fun (x : Nat × Nat × Nat) => x.1 == alt) v with
    | some x => some x
    | none => findBy (fun (x : Nat × Nat × Nat) => decide (x.2.1 + hop ≤ 4)) v).map fun (x : Nat × Nat × Nat) => (x.1, x.2.2)

/-- FABRIC_FORWARD (R249): a packet in transit goes on, unless it would need a fifth hop or no alternate qualifies: then it is
discarded. -/
def execFabricForward (p : Packet) (s : State) : Host.Outcome State Fault Refusal :=
  match p with
  | .req m =>
    let hop := m.hop + 1
    if m.dst = s.devId ∨ 4 ≤ hop then .next s
    else match s.onward m.dst m.alt hop with
      | none => .next s
      | some x => .next { s with netOut := s.netOut ++ [(x.2, hop, { m with alt := x.1, hop := hop })] }
  | .rep r =>
    let hop := r.hop + 1
    if r.dst = s.devId ∨ 4 ≤ hop then .next s
    else match s.onward r.dst r.alt hop with
      | none => .next s
      | some x => .next { s with netReplies := s.netReplies ++ [(x.2, hop, { r with alt := x.1, hop := hop })] }

/-! ### The trap (R254) -/

/-- REMOTE_TRAP_TAKEN: in place of the fragment's next issue. -/
def execRemoteTrapTaken (s : State) : Host.Outcome State Fault Refusal :=
  match s.cur.bind s.ctx with
  | none => .fault .noIssuer
  | some c =>
    match c.pending with
    | some (.remote o k cause peer addr m lanes) =>
      let c := { c with g := { c.g with pend := c.g.pend.erase (.remote o k cause peer addr m lanes) } }
      .next (c.takeTrap ⟨tRemote, addr, lanes, BitVec.ofNat 32 cause, BitVec.ofNat 32 peer, 0, none⟩)
    | _ => .next s

end Sys2Proof.Machine
end

