-- ==== Sys2Proof/Machine/Collective.lean ====
section
/-!
DEFINITION. COLL and the Collective Engine (R258, R259, R261, R353 to R355).
-/
namespace Sys2Proof.Machine

/-- The type codes that COLL accepts (R259, R82). -/
def collTy : Nat → Option NumTy
  | 4 => some .s32
  | 5 => some .n32
  | 6 => some .s64
  | 7 => some .n64
  | 8 => some .f64
  | 9 => some .f32
  | 10 => some .f16
  | 11 => some .bf16
  | _ => none

/-- The reduction codes (R79). -/
def collOp : Nat → Option RedOp
  | 0 => some .add
  | 1 => some .min
  | 2 => some .max
  | 3 => some .and
  | 4 => some .or
  | 5 => some .xor
  | _ => none

def collFloat : NumTy → Bool
  | .f64 | .f32 | .f16 | .bf16 => true
  | _ => false

/-- The CTL word's fields. -/
def collGroup (ctl : Nat) : Nat := bits ctl 24 8
def collType (ctl : Nat) : Option NumTy := collTy (bits ctl 20 4)
def collRed (ctl : Nat) : Option RedOp := collOp (bits ctl 17 3)
def collKind (ctl : Nat) : Nat := bits ctl 15 2
def collElem (ctl : Nat) : Nat := ((collType ctl).map fun t => numBits t / 8).getD 1

/-- The device ids of a group of the partition's table (R258). -/
def State.deviceGroup (s : State) (dgtbase g : Nat) : List Nat :=
  let n := readNat s.mem (dgtbase + 16 * g) 4
  let ids := readNat s.mem (dgtbase + 16 * g + 8) 8
  if n < 1 ∨ 9216 < n then [] else (List.range n).map fun r => readNat s.mem (ids + 2 * r) 2

/-- A line of the table's entry, or of the ids that it names, is poisoned (R261, R299). -/
def State.groupPoisoned (s : State) (dgtbase g : Nat) : Bool :=
  let n := readNat s.mem (dgtbase + 16 * g) 4
  s.poisoned (dgtbase + 16 * g) 16 || (decide (1 ≤ n ∧ n ≤ 9216) && s.poisoned (readNat s.mem (dgtbase + 16 * g + 8) 8) (2 * n))

def State.groupOf (s : State) (t : Team) (ctl : Nat) : List Nat := s.deviceGroup (((s.partOf t).map (·.dgtbase)).getD 0) (collGroup ctl)

/-- Bytes of SRC and of DST for `m` members. -/
def collSrcLen (ctl n m : Nat) : Nat := (if collKind ctl = 2 then m else 1) * n * collElem ctl
def collDstLen (ctl n m : Nat) : Nat := (if collKind ctl = 1 then m else 1) * n * collElem ctl

def execColl (d : Reg) (s : State) :=
  issue (.coll d) noEarly (fun c =>
    let x := c.rd d 8 0
    let ctl := bits x 0 32
    let count := bits x 32 32
    let src := bits x 64 64
    let stat := bits x 224 32
    let bar := bits x 192 32
    if c.act = [] then .ok c
    else match c.checkNamed (.coll d) bar with
      | .error t => .trap t
      | .ok c =>
        if stat % 8 ≠ 0 then .trap (trapAt tAlign stat c.mask)
        else if 2 ^ 31 ≤ stat ∨ c.scrSize < stat + 8 then .trap (trapAt tScratch stat c.mask)
        else
          let post := fun (c : Ctx) =>
            let id := c.s.uid
            let cmd : CollCmd :=
              { id := id, team := c.ref.team, gen := c.t.gen, phase := c.t.phasen, group := c.ref.group, op := id, launch := c.t.launch,
                ctl := BitVec.ofNat 32 ctl, count := count, src := src, dst := bits x 128 64, bar := BitVec.ofNat 32 bar, stat := stat,
                served := false, inst := 0, rank := 0, members := 0, code := 0,
                landed := false, ver := c.s.ver, cap := none }
            let c := c.addOp .co false (.coll id)
            { c with s := { c.s with colls := c.s.colls ++ [cmd] } }
          let n := collSrcLen ctl count (c.s.groupOf c.t ctl).length
          if c.t.pb = [] ∧ c.t.drain = [] then .ok (post c.posting) else c.afterPublish (c.physical src n) fun c => .ok (post c)) s

/-! ### The engine -/

/-- Step 1 of R354. -/
def State.collBad (s : State) (t : Team) (c : CollCmd) : Bool :=
  let ctl := c.ctl.toNat
  bits ctl 0 15 != 0 || bits c.bar.toNat 20 12 != 0 || (collType ctl).isNone || (collRed ctl).isNone || collKind ctl == 3 ||
    s.groupOf t ctl == [] ||
    ((collType ctl).any collFloat && (collRed ctl).any fun o => o == .and || o == .or || o == .xor) ||
    c.src % collElem ctl != 0 || c.dst % collElem ctl != 0

/-- The other members of a command's group, in rank order. -/
def CollCmd.others (c : CollCmd) (ids : List Nat) : List Nat := ids.eraseIdx c.rank

/-- A pull of an engine is sent with RLD semantics (R252), and again as R250 says. -/
def State.sendPull (s : State) (t : Team) (group op slices phase peer len : Nat) (lanes : List MsgLane) : State :=
  let m := s.message t .pull peer phase s.uid 0 .add len lanes
  State.sendMsg { s with rreqs := s.rreqs ++ [s.request t group op slices phase m], uid := s.uid + 1 } m

/-- The pulls of a command's contributions leave, one for each other member. A function whose key is 0 sends none and fails as such a request
does (R251), and so does a pull to a member that no route reaches (R261). -/
def State.collPull (s : State) (t : Team) (c : CollCmd) (ids : List Nat) : Nat × State :=
  let ds := c.others ids
  if ds = [] ∨ c.count = 0 then (0, s)
  else if (s.funcOf t).all fun f => f.xwkey == 0 then (0x15, s)
  else if ds.any fun d => decide (9215 < d) || !s.reachable d then (0x13, s)
  else (0, ds.zipIdx.foldl (fun s d => s.sendPull t c.group c.id d.2 c.phase d.1 (collElem c.ctl.toNat) []) s)

/-- COLL_EXECUTE: the next descriptor in acceptance order is checked, takes its instance number and is matched with the other
members (R354, steps 1 to 3); the pulls of their contributions leave (R250, R252). A command that takes no instance holds an open number in
its status word. A range in host memory is asked for (R278). -/
def execCollExecute (found : CollMatch) (s : State) : Host.Outcome State Fault Refusal :=
  match findBy (fun c : CollCmd => !c.served) s.colls with
  | none => .next s
  | some c =>
    match s.team? c.team with
    | none => .next s
    | some t =>
      let ids := s.groupOf t c.ctl.toNat
      let put := fun (s : State) (f : CollCmd → CollCmd) => { s with colls := modBy (fun x => x.id == c.id) f s.colls }
      let early := fun (code : Nat) =>
        let k := s.choose (2 ^ 32)
        put k.2 fun x => { x with served := true, inst := k.1, code := code }
      if s.groupPoisoned (((s.partOf t).map (·.dgtbase)).getD 0) (collGroup c.ctl.toNat) then .next (early 0x1C)
      else if s.collBad t c then .next (early 0x10)
      else if !ids.contains s.devId then .next (early 0x11)
      else
        let g := collGroup c.ctl.toNat
        let k := (((s.launch? c.launch).bind fun l => findBy (fun x : Nat × Nat => x.1 == g) l.instances).map Prod.snd).getD 0
        let s := s.modLaunch c.launch fun l => { l with instances := (g, k + 1) :: l.instances.filter fun x => x.1 != g }
        let code := if ids.length = 1 then 0 else match found with
          | .agree => 0
          | .mismatch => 0x12
          | .unreachable => 0x13
        let c := { c with served := true, inst := k % 2 ^ 32, rank := (ids.idxOf? s.devId).getD 0, members := ids.length }
        let r := if code = 0 then s.collPull t c ids else (code, s)
        let s := put r.2 fun x => { x with served := true, inst := c.inst, rank := c.rank, members := c.members, code := r.1 }
        let f := s.funcOf t
        .next (if r.1 = 0 then s.askHostRange ((f.map (·.vf)).getD 256) c.id ((f.map (·.root)).getD 0) c.src (collSrcLen c.ctl.toNat c.count ids.length)
          else s)

/-- One combination of a reduction (R354): float ADD rounds to nearest even, MIN and MAX follow R207, integer ADD wraps. -/
def collStep (op : RedOp) (t : NumTy) (x y : Nat) : Nat :=
  let n := numBits t
  match op with
  | .add => if collFloat t then ((numFmt t).add x y).1 else (x + y) % 2 ^ n
  | .min => if collFloat t then ((numFmt t).minmax false x y).1 else if asInt (numSigned t) n y < asInt (numSigned t) n x then y else x
  | .max => if collFloat t then ((numFmt t).minmax true x y).1 else if asInt (numSigned t) n x < asInt (numSigned t) n y then y else x
  | .and => Nat.land x y
  | .or => Nat.lor x y
  | .xor => Nat.xor x y

/-- A float result is a canonical NaN where it is a NaN (R197), also that of a group of one member. -/
def collCanon (t : NumTy) (x : Nat) : Nat := if collFloat t then match (numFmt t).val x with
  | .nan _ => (numFmt t).nan
  | _ => x
  else x

/-- Combining terms: float terms in an order that the spec leaves open, two free choices at each combination. -/
def combine (f : Nat → Nat → Nat) (free : Bool) : Nat → List Nat → State → Nat × State
  | 0, l, s => (l.headD 0, s)
  | n + 1, l, s =>
    if l.length ≤ 1 then (l.headD 0, s)
    else
      let i := if free then s.choose l.length else (0, s)
      let x := l.getD i.1 0
      let l := l.eraseIdx i.1
      let j := if free then i.2.choose l.length else (0, i.2)
      combine f free n (f x (l.getD j.1 0) :: l.eraseIdx j.1) j.2

/-- The bytes that DST receives from the members' contributions, in rank order. -/
def State.collResult (s : State) (c : CollCmd) (parts : List (List Byte)) : List Byte × State :=
  let ctl := c.ctl.toNat
  let e := collElem ctl
  if collKind ctl = 1 then (parts.flatten, s)
  else
    let base := if collKind ctl = 2 then c.rank * c.count else 0
    match collType ctl, collRed ctl with
    | some t, some op =>
      let r := mapAcc (fun (s : State) i =>
        let v := combine (collStep op t) (collFloat t) parts.length (parts.map fun p => leNat ((p.drop ((base + i) * e)).take e)) s
        (leBytes e (collCanon t v.1), v.2)) s (List.range c.count)
      (r.1.flatten, r.2)
    | _, _ => ([], s)

/-- The pulls of a command are over. -/
def State.dropPulls (s : State) (cmd : Nat) : State := { s with rreqs := s.rreqs.filter fun r => !(r.msg.kind == MsgKind.pull && r.op == cmd) }

def State.dropColl (s : State) (cmd : Nat) : State := { s with colls := s.colls.filter fun x => x.id != cmd }

/-- The command ends: its status word, on an error the breaking of its barrier, and its operation finishes (R355, R261). -/
def State.collEnd (s : State) (c : CollCmd) (code : Nat) : State :=
  let s := s.landScr c.team c.phase [] c.stat (leBytes 4 code ++ leBytes 4 c.inst)
  let s := if code = 0 then s else s.modTeam c.team fun t => t.engineEnd c.bar.toNat false 0
  let s := (s.dropPulls c.id).dropColl c.id
  (s.finishOp c.team c.group c.op).finishPub c.team

/-- An exchange that ended early: DST may hold any bytes, up to a fault of its own. -/
def State.collSpoil (s : State) (c : CollCmd) (t : Team) : State :=
  let f := s.funcOf t
  let root := (f.map (·.root)).getD 0
  let m := collDstLen c.ctl.toNat c.count c.members
  let k := s.choose ((((s.dstFaults root false c.dst m).map Prod.fst).min?).getD m + 1)
  let b := k.2.freeBytes k.1
  b.2.engWrite ((f.map (·.vf)).getD 256) root c.dst b.1

/-- A command ends once the Undo Log has room for its status word (R138, R140; log 105). -/
def State.collFinish (s : State) (t : Team) (c : CollCmd) (code : Nat) (f : State → State) : State :=
  if s.undoFits t c.phase (s.lineKeys t c.stat 8) then (f s).collEnd c code else s.makeRoom t

/-- The pulls of a command that wait for their contributions, in rank order. -/
def State.collPulls (s : State) (cmd : Nat) : List RemReq := s.rreqs.filter fun r => r.msg.kind == MsgKind.pull && r.op == cmd

/-- Each contribution answers the latest sending of its pull: a late first reply is dropped (R250). -/
def answersPulls : List RemReq → List PullReply → Nat → Bool
  | [], [], _ => true
  | q :: qs, p :: ps, n => q.msg.seq == p.seq && p.data.length == n && answersPulls qs ps n
  | _, _, _ => false

/-- The local DST has been written: its bytes are credited (R354, step 5), and the status word comes next. -/
def State.collCredit (s : State) (c : CollCmd) (n : Nat) : State :=
  { (s.dropPulls c.id).modTeam c.team (fun t => t.engineEnd c.bar.toNat true n) with
    colls := modBy (fun x => x.id == c.id) (fun x => { x with landed := true, cap := some (x.cap.getD s.ver) }) s.colls }

/-- What the exchange met at another member: a code of R261, or a cause of R254 with its code (R261). -/
def exchangeCode (fail : Nat) : Option Nat :=
  if fail = 0 ∨ [0x13, 0x14, 0x15, 0x1A, 0x1C].contains fail then some fail
  else if fail ≤ 6 then some (causeCode fail)
  else none

/-- COLL_COMPLETE: the oldest command's exchange with the other members, whose contributions come in rank order, or what it met there;
the local DST is written at memory and credited, and a second event writes the status word (R354, steps 4 to 6; R355). -/
def execCollComplete (cmd : Nat) (parts : List PullReply) (fail : Nat) (s : State) : Host.Outcome State Fault Refusal :=
  match s.colls.head?.filter fun c => c.id == cmd && c.served with
  | none => .next s
  | some c =>
    match s.team? c.team, exchangeCode fail with
    | some t, some fail =>
      let f := s.funcOf t
      let root := (f.map (·.root)).getD 0
      let vf := (f.map (·.vf)).getD 256
      let n := collSrcLen c.ctl.toNat c.count c.members
      let m := collDstLen c.ctl.toNat c.count c.members
      if c.code ≠ 0 then .next (s.collFinish t c c.code id)
      else if c.landed then .next (s.collFinish t c 0 id)
      else if s.awaitsHost cmd then .next s
      else if c.count = 0 then .next (s.collCredit c 0)
      else if fail = 0 ∧ !answersPulls (s.collPulls cmd) parts n then .next s
      else
        let bad := s.dstFaults root false c.dst m
        let code := lowestCode ((if fail = 0 ∨ c.members = 1 then [] else [fail]) ++ (s.srcFaults root false c.src n 0).map (·.2.code) ++
          bad.map (·.2.code))
        if code ≠ 0 then .next (s.collFinish t c code fun s => s.collSpoil c t)
        else
          let own := s.engRead root none c.ver c.cap c.src n
          let got := parts.map PullReply.data
          let all := got.take c.rank ++ [own.1] ++ got.drop c.rank
          let r := own.2.collResult c all
          let r := if rangeMeets c.src n c.dst m ∧ ¬(c.src = c.dst ∧ n = m) then r.2.freeBytes m else r
          let s := r.2.engWrite vf root c.dst r.1
          .next (s.collCredit c m)
    | _, _ => .next s

end Sys2Proof.Machine
end

