-- ==== Sys2Proof/Machine/Control.lean ====
section
/-!
DEFINITION. Control transfer (R340, R428), fragments (R21 to R31), the window and register quota (R12 to R18, R48), special
registers (R54, R382, R418), TRAP (R454), WAITC (R72) and NOP.
-/
namespace Sys2Proof.Machine

/-- The address of the instruction itself: the working fragment has already moved past its one word. -/
def Ctx.here (c : Ctx) : VAddr := c.f.pc - 4

def Ctx.goto (c : Ctx) (pc : VAddr) : Ctx := { c with f := { c.f with pc := pc } }

/-- A word offset from the instruction's address. -/
def Ctx.target {w : Nat} (c : Ctx) (off : BitVec w) : VAddr := c.here + BitVec.ofInt 52 (4 * off.toInt)

/-- The slices of a fragment that take a branch (R22). -/
def Ctx.taken (c : Ctx) (m : BraMode) (p : Nat) : BitVec 8 :=
  ((List.range 8).filter fun i =>
    c.f.slices.getLsbD i && sliceTakes m ((c.act.filter fun l => l / 4 == i).map (c.g.pred p).getLsbD)).foldl (fun x i => x ||| (1#8 <<< i)) 0

/-- The fragment moves, falls through or splits (R23). Both parts keep the age. -/
def Ctx.split (c : Ctx) (take : BitVec 8) (target : VAddr) : Ctx :=
  let stay := c.f.slices &&& ~~~take
  if take = 0 then c
  else if stay = 0 then c.goto target
  else
    let go : Frag := { c.f with slices := take, pc := target, starve := 0 }
    let rest : Frag := { c.f with slices := stay, starve := 0 }
    if take.getLsbD c.ref.slice then { c with f := go, g := { c.g with frags := c.g.frags ++ [rest] } }
    else { c with f := rest, g := { c.g with frags := c.g.frags ++ [go] } }

def execBra (o : BraOps) (s : State) :=
  plain (.bra o) (fun c => c.split (c.taken o.m o.p) (c.target o.off)) s

/-- CALL (R340): the return address into the s pair. -/
def execCall (d : Reg) (off : BitVec 18) (s : State) :=
  plain (.call d off) (fun c => (c.wr d 2 0 c.f.pc.toNat).goto (c.target off)) s

/-- A transfer to an address that a register gives; misaligned: ALIGN, with the pc unchanged (R74). -/
def jump (c : Ctx) (t : VAddr) : Res := if t.toNat % 4 = 0 then .ok (c.goto t) else .trap (trapAt tAlign t.toNat c.mask)

def execRet (a : Reg) (s : State) := issue (.ret a) noEarly (fun c => jump c (BitVec.ofNat 52 (c.rd a 2 0))) s

def execBrx (a : Reg) (imm : BitVec 11) (s : State) :=
  issue (.brx a imm) noEarly (fun c => jump c (BitVec.ofNat 52 (c.rd a 2 0) + BitVec.ofInt 52 (4 * imm.toInt))) s

/-- REGANG (R26): the fragment parks at the instruction. -/
def execRegang (s : State) :=
  plain .regang (fun c =>
    let c := { c with f := { c.f with pc := c.here, wait := .regang } }
    c.setGroup c.group.regang) s

/-- GUARD (R384). -/
def execGuard (o : GuardOps) (s : State) :=
  plain (.guard o) (fun c =>
    { c with f := { c.f with guard := some (maskOf (c.act.filter fun l => (c.g.pred o.p).getLsbD l != o.neg), o.cnt.toNat + 1) } }) s

def execNop (s : State) := plain .nop id s

/-- TRAP (R454). -/
def execTrap (imm : BitVec 11) (s : State) :=
  issue (.trap imm) noEarly (fun c =>
    if c.act = [] then .ok c
    else .trap ⟨0x800 + imm.toNat, 0, c.mask, imm.zeroExtend 32, 0, 0, some c.f.pc⟩) s

/-- WAITC (R72): its wait is an interlock. -/
def execWaitc (o : WaitcOps) (s : State) :=
  plain (.waitc o) id s

/-! ### The window and the quota -/

/-- Registers that a group gains hold no value that the spec gives: free values (R16, log 10). -/
def Ctx.grow (c : Ctx) (a : Nat) : Ctx :=
  if a ≤ c.g.alloc then { c with g := { c.g with alloc := a } }
  else
    let lo := 32 * c.g.alloc
    let n := 32 * a - lo
    let vals := (List.range n).filterMap fun i =>
      let x := BitVec.ofNat 32 (Config.freeChoice (c.s.freeCtr + i))
      if x = 0 then none else some (lo + i, x)
    { c with
      s := { c.s with freeCtr := c.s.freeCtr + n }
      g := { c.g with alloc := a, v := c.g.v.filter (fun p => decide (p.1 < lo)) ++ vals } }

/-- What a WINB allocates: its role's budget, or what the group has, where it has executed the pending transfer (R16, R48). -/
def Ctx.allowance (c : Ctx) : Nat := if c.t.live.quota.isSome && c.g.xferDone then c.g.alloc else c.t.budget c.g.role

/-- A new base: for the next instruction of every fragment, but for those that issue on this clock, which keep the old one (R48, R461). -/
def Ctx.setWin (c : Ctx) (w : Nat) : Ctx :=
  let more := c.s.plan.any fun r => r.team == c.ref.team && r.group == c.ref.group
  { c with g := if more then { c.g with winNext := some w, latch := none } else { c.g with win := w, winNext := none, latch := none } }

def execWinb (base : BitVec 4) (s : State) :=
  issue (.winb base) noEarly (fun c =>
    let a := c.allowance
    let w := 32 * base.toNat
    if a < w + 96 then .trap (trapAt tRegrange 0 c.mask) else .ok ((c.grow a).setWin w)) s

/-- The pending transfer takes effect once every live src group has executed it (R16). -/
def Team.transfer (t : Team) : Team :=
  match t.live.quota with
  | none => t
  | some q =>
    if t.live.groups.any fun g => g.role == q.src && g.alive && !g.xferDone then t
    else
      { t with live := { t.live with
        quota := none
        budgets := modAt q.dst.toNat (· + 8 * q.cnt) (modAt q.src.toNat (· - 8 * q.cnt) t.live.budgets)
        groups := t.live.groups.map fun g => { g with xferDone := false } } }

/-- The working copies after a change of the whole team. -/
def Ctx.onTeam (c : Ctx) (f : Team → Team) : Ctx := c.viaState fun s => s.modTeam c.ref.team f

/-- The group's part of a transfer (R15, step 3); registers that its role gained before and no WINB has given it yet stay so (R16). -/
def Ctx.release (c : Ctx) (o : RqxferOps) (limit : Nat) : Ctx :=
  let q : Quota := match c.t.live.quota with
    | some q => { q with count := q.count + 1 }
    | none => ⟨o.src, o.dst, o.cnt.toNat, 1⟩
  { c with
    t := { c.t with live := { c.t.live with quota := some q } }
    g := { c.g with alloc := min c.g.alloc limit, xferDone := true, v := c.g.v.filter fun p => decide (p.1 < 32 * limit) } }

/-- RQXFER in the order of R14; its waits are interlocks. -/
def execRqxfer (o : RqxferOps) (s : State) :=
  issue (.rqxfer o) noEarly (fun c =>
    if !c.t.live.groups.any (fun g => g.role == o.dst) then .trap (c.dynamic (.rqxfer o))
    else if !c.t.sameXfer o then
      let w := (c.t.live.quota.map fun q => Config.quotaWord q.src.toNat q.dst.toNat q.cnt q.count).getD 0
      .trap ⟨tIllegal, 0, c.mask, w, BitVec.ofNat 32 ((encode (.rqxfer o)).headD 0), 7, none⟩
    else if !c.t.xferFits o then .trap (trapAt tRegrange 0 c.mask)
    else if c.t.xferLimit o < c.g.win + 96 then .trap (trapAt tRegrange 0 c.mask)
    else .ok ((c.release o (c.t.xferLimit o)).onTeam Team.transfer)) s

/-! ### Special registers -/

/-- The value of a special register in a lane (R54). A GET of FPEV includes every event counted so far, of whichever group: R213 lets it
include any part of those of other groups (DESIGN CHOICE, log 112). -/
def Ctx.special (c : Ctx) (n l : Nat) : Word :=
  let w := BitVec.ofNat 32
  let grid := (c.launch.map (·.grid)).getD (1, 1, 1)
  let gx := max grid.1 1
  let gy := max grid.2.1 1
  match n with
  | 0x000 => w l
  | 0x001 => w (l / 4)
  | 0x002 => w c.ref.group
  | 0x003 => w c.g.role.toNat
  | 0x004 => w (c.t.idx % gx)
  | 0x005 => w (c.t.idx / gx % gy)
  | 0x006 => w (c.t.idx / gx / gy)
  | 0x008 => w (c.meta fun m => m.dim.getD 0 0)
  | 0x009 => w (c.meta fun m => m.dim.getD 1 0)
  | 0x00A => w (c.meta fun m => m.dim.getD 2 0)
  | 0x00C => w grid.1
  | 0x00D => w grid.2.1
  | 0x00E => w grid.2.2
  | 0x010 => w c.g.tilew
  | 0x011 => c.g.cflags.zeroExtend 32
  | 0x012 => look c.g.rng l
  | 0x013 => w c.t.phasen
  | 0x014 => w (c.meta (·.escq))
  | 0x015 => w c.g.escu
  | 0x018 => w ((c.coreOf.map (·.clk)).getD 0)
  | 0x020 => w c.g.trap.code
  | 0x021 => w c.g.trap.pc.toNat
  | 0x022 => w c.g.trap.addr.toNat
  | 0x023 => w (c.g.trap.addr.toNat / 2 ^ 32)
  | 0x024 => c.g.trap.lanes
  | 0x025 => c.g.trap.aux0
  | 0x026 => c.g.trap.aux1
  | 0x027 => c.g.trap.aux2
  | 0x030 => w (c.meta fun m => 0x1000000 * m.und + 0x10000 * m.acc + 0x100 * m.scr + m.reg)
  | 0x031 => w (c.meta (·.cpring))
  | 0x060 => w c.s.devId
  | 0x061 => w ((c.func.map (·.vf)).getD 0)
  | 0x062 => w ((c.part.map (·.id)).getD 0)
  | n => if 0x040 ≤ n ∧ n ≤ 0x05D then (c.launch.map fun l => look l.fpev (n - 0x040)).getD 0 else 0

def execGet (d : Reg) (n : BitVec 11) (s : State) :=
  plain (.get d n) (fun c => c.result d 1 fun l => (c.special n.toNat l).toNat) s

/-- PUT (R418): a group-scope register takes its value from the lowest active lane. -/
def execPut (a : Reg) (n : BitVec 11) (s : State) :=
  issue (.put a n) noEarly (fun c =>
    let x := c.word a c.low
    if c.act = [] then .ok c
    else match n.toNat with
      | 0x010 =>
        if [2, 4, 8, 16, 32].contains x.toNat then .ok { c with g := { c.g with tilew := x.toNat } } else .trap (c.dynamic (.put a n))
      | 0x011 => .ok { c with g := { c.g with cflags := x.truncate 2 } }
      | 0x012 =>
        .ok (c.each c.act fun d l =>
          let v := c.word a l
          { d with g := { d.g with rng := put d.g.rng l (if v = 0 then 1 else v) } })
      | 0x021 =>
        if x.toNat % 4 = 0 then .ok { c with g := { c.g with trap := { c.g.trap with pc := BitVec.ofNat 52 (c.g.trap.pc.toNat / 2 ^ 32 * 2 ^ 32 + x.toNat) } } }
        else .trap (c.dynamic (.put a n))
      | _ => .ok c) s

end Sys2Proof.Machine
end

