-- ==== Sys2Proof/Machine/CopyRing.lean ====
section
/-!
DEFINITION. The copy ring (R65 to R70): CPYP (R68, R358, R359), and the Copy Engine's taking and completing of an entry (R66, R67,
R144, R156, R285, R299).
-/
namespace Sys2Proof.Machine

/-- An entry's fields (R66) from its 32 bytes as one number. -/
structure CopyEntry where
  src : Nat
  dst : Nat
  len : Nat
  ctl : Nat
  rows : Nat
  stride : Nat
  deriving DecidableEq, Repr

def entryOf (x : Nat) : CopyEntry := ⟨bits x 0 64, bits x 64 64, bits x 128 32, bits x 160 32, bits x 192 32, bits x 224 32⟩

def CopyEntry.total (e : CopyEntry) : Nat := max e.rows 1 * e.len
def CopyEntry.kind (e : CopyEntry) : Nat := bits e.dst 62 2
def CopyEntry.target (e : CopyEntry) : Nat := bits e.dst 57 5
def CopyEntry.off (e : CopyEntry) : Nat := bits e.dst 0 52
def CopyEntry.stampAt (e : CopyEntry) : Nat := (e.off + e.total + 7) / 8 * 8
def CopyEntry.dec (e : CopyEntry) : Bool := bits e.ctl 20 1 == 1
def CopyEntry.enc (e : CopyEntry) : Bool := bits e.ctl 21 1 == 1
def CopyEntry.slot (e : CopyEntry) : Nat := bits e.ctl 22 8
def CopyEntry.bar (e : CopyEntry) : Option Nat := if bits e.ctl 0 20 = 0xFFFFF then none else some (16 * bits e.ctl 0 20)

/-- The source ranges of the rows: virtual address and length. -/
def CopyEntry.named (e : CopyEntry) : List (Nat × Nat) :=
  if e.len = 0 then [] else (List.range (max e.rows 1)).map fun r => (e.src + r * e.stride, e.len)

/-- Those that the engine reads: none of an entry over 16 MiB, which it refuses. -/
def CopyEntry.ranges (e : CopyEntry) : List (Nat × Nat) := if 2 ^ 24 < e.total then [] else e.named

/-- The run of a register destination: the target group's registers, where the entry may write them (R66). -/
def CopyEntry.run (e : CopyEntry) (t : TeamData) : Option (List Nat) :=
  match t.groups[e.target]? with
  | none => none
  | some g =>
    if e.kind = 1 ∧ e.total % 128 = 0 ∧ g.alive ∧ e.off + e.total / 128 ≤ g.alloc then some ((List.range (e.total / 128)).map (e.off + ·))
    else none

/-! ### CPYP -/

/-- The entries that a CPYP posts: one from an s octet, one for each active lane from a v octet. -/
def Ctx.copyEntries (c : Ctx) (d : Reg) : List Nat := (c.lanes d).map fun l => c.rd d 8 l

/-- The checks made before any wait (R68, R99). -/
def earlyCpyp (d : Reg) (c : Ctx) : Option Trap := if c.hopeless (.cpyp d) then some (c.dynamic (.cpyp d)) else none

/-- A change of one group of the team, the issuing one or another. -/
def Ctx.onGroup (c : Ctx) (k : Nat) (f : Group → Group) : Ctx :=
  if k = c.ref.group then { c with g := f c.g } else { c with t := c.t.modGroup k f }

/-- One entry goes into its slot; it counts in CP, and a register destination's run is scoreboarded (R49). -/
def Ctx.postEntry (r : Ring) (c : Ctx) (x : Nat × Nat) : Ctx :=
  let e := entryOf x.1
  let seq := (r.tail + x.2) % 2 ^ 64
  let regs := (e.run c.t.live).getD []
  let c := regs.foldl (fun (c : Ctx) id => c.note (.vreg e.target id)) c
  let c := c.onGroup e.target fun g => { g with sb := addAllNew (regs.map vName) g.sb }
  (c.scrPut (r.base + seq % r.count * 32) (leBytes 32 x.1)).addOp .cp false (.copy seq)

def bodyCpyp (d : Reg) (c : Ctx) : Res :=
  let es := c.copyEntries d
  let r := c.ring
  if c.act = [] then .ok c
  else c.afterPublish (es.flatMap fun x => (entryOf x).named.flatMap fun p => c.physical p.1 p.2) fun c =>
    let c := es.zipIdx.foldl (Ctx.postEntry r) c
    let tail := leBytes 8 ((r.tail + es.length) % 2 ^ 64)
    .ok ((c.scrPut (c.meta (·.cpring) + 16) tail).scrPut (c.meta (·.cpring) + 24) tail)

def execCpyp (d : Reg) (s : State) := issue (.cpyp d) (earlyCpyp d) (bodyCpyp d) s

/-! ### The Copy Engine -/

/-- A barrier that an entry may name (R67, code 0x09). -/
def State.nameable (s : State) (t : Team) (b : Nat) : Bool :=
  let m := s.metaOf t (·.mirOff)
  decide (b + 16 ≤ s.scrSizeOf t) &&
    !(decide (2 ≤ s.metaOf t (·.tset)) && rangeMeets b 16 m (s.metaOf t (·.mirSize))) &&
    (t.bars.any (fun x => x.addr == b) || decide (t.bars.length < 256))

/-- An XTS slot that serves the team's partition (R286). -/
def State.slotBound (s : State) (t : Team) (slot : Nat) : Bool :=
  s.keySlots.any fun k => k.slot == slot && k.v && k.type == 1 && some k.part == (s.partOf t).map (·.id)

/-- The code that the full check of an entry finds; 0 for none (R67). -/
def State.entryCode (s : State) (t : Team) (e : CopyEntry) : Nat :=
  let bad := fun (b : Bool) (k : Nat) => if b then [k] else []
  lowestCode (
    bad (e.kind == 0 && decide (s.scrSizeOf t < e.off + e.total ∨ s.scrSizeOf t < e.stampAt + 8)) 1 ++
    bad (e.kind == 3 || bits e.dst 52 5 != 0 || bits e.ctl 30 2 != 0 || decide (2 ^ 24 < e.total)) 2 ++
    bad (e.kind == 1 && (e.run t.live).isNone) 3 ++
    bad ((e.dec && e.kind != 0) || (e.enc && e.kind != 2) || (e.enc && e.dec)) 4 ++
    bad ((e.dec || e.enc) && !s.slotBound t e.slot) 5 ++
    bad (e.bar.any fun b => !s.nameable t b) 9)

/-- The free barrier of a stage slot has been given back (R156). -/
def stageReady (scr : Store 8) (f : Nat) : Bool := barDone (barRead scr (f + 16)) (barRead scr f).gen

/-- A command at a stage slot that moves no byte yet. -/
def Team.stageHeld (t : Team) (e : CopyEntry) : Bool :=
  e.bar.any fun b => t.bars.any (fun x => x.addr == b && x.stage) && !stageReady t.live.scr b

def CopyCmd.entry (c : CopyCmd) : CopyEntry := ⟨c.src, c.dst.toNat, c.len, c.ctl.toNat, c.rows, c.stride⟩

/-- The entry at the head of a ring. -/
def Ring.next (r : Ring) (scr : Store 8) : CopyEntry := entryOf (readNat scr (r.base + r.head % r.count * 32) 32)

/-- A ring that the engine may serve now (R65, R67, R141); an entry held at a stage slot stays where it is (R69, R156). -/
def State.servable (s : State) (t : Team) : Bool :=
  let r := ringOf t.live.scr (s.metaOf t (·.cpring)) (s.scrSizeOf t)
  let e := r.next t.live.scr
  !t.saved && r.ok && decide (r.head < r.notify) && (!t.rb || decide (s.entryPhase t r.head < t.phasen)) &&
    !(s.entryCode t e == 0 && t.stageHeld e)

/-- The team whose turn it is: the next one after the team served last. -/
def State.ringTurn (s : State) (core : Core) : Option Team :=
  let ts := s.teams.filter fun t => t.core == core.id && s.servable t
  let pick := fun (l : List Team) => l.foldl (fun (b : Option Team) t => match b with
    | none => some t
    | some x => if t.id < x.id then some t else b) none
  match pick (ts.filter fun t => decide (core.rot < t.id)) with
  | some t => some t
  | none => pick ts

/-- COPY_ENTRY_TAKE: the engine of a core takes the next entry in rotation, and HEAD advances (R67, R69). -/
def execCopyEntryTake (core : Nat) (s : State) : Host.Outcome State Fault Refusal :=
  match (s.core? core).bind s.ringTurn with
  | none => .next s
  | some t =>
    let off := s.metaOf t (·.cpring)
    let r := ringOf t.live.scr off (s.scrSizeOf t)
    let e := r.next t.live.scr
    let phase := s.entryPhase t r.head
    let code := s.entryCode t e
    let op := t.copyOp r.head
    let id := s.uid
    let cmd : CopyCmd :=
      { id := id, team := t.id, gen := t.gen, core := core, phase := phase, group := (op.map (·.1)).getD 256, op := (op.map (·.2.id)).getD 0,
        seq := r.head, src := e.src, dst := BitVec.ofNat 64 e.dst, len := e.len, ctl := BitVec.ofNat 32 e.ctl, rows := e.rows, stride := e.stride,
        code := code, ver := s.ver, cap := none,
        torn := if e.kind = 0 then t.torn.filter fun x => decide (e.off ≤ x ∧ x < e.off + e.total) else [] }
    let head := leBytes 8 ((r.head + 1) % 2 ^ 64)
    let s := s.modTeam t.id fun t =>
      let t := t.landData phase fun d => { d with scr := writeBytes d.scr (off + 8) head }
      let t := if e.kind = 1 then t.land phase e.target fun g => { g with sb := addAllNew (((e.run t.live).getD []).map vName) g.sb } else t
      { t with
        torn := t.torn.filter fun x => !cmd.torn.contains x
        bars := match e.bar with
          | some b => if s.nameable t b && !t.bars.any (fun x => x.addr == b) then t.bars ++ [⟨b, false⟩] else t.bars
          | none => t.bars }
    let s := { (s.modCore core fun k => { k with rot := t.id }) with copies := s.copies ++ [cmd], uid := id + 1 }
    let vf := ((s.funcOf t).map (·.vf)).getD 256
    let root := ((s.funcOf t).map (·.root)).getD 0
    .next (if code = 0 then e.ranges.foldl (fun s p => s.askHostRange vf id root p.1 p.2) s else s)

/-- Bytes to register `base + j` of lane `l`, byte 4 × (32 j + l) first (R66); a word may be reached in part. -/
def landRun (base : Nat) (bs : List Byte) (g : Group) : Group :=
  (List.range ((bs.length + 3) / 4)).foldl (fun g i =>
    let part := (bs.drop (4 * i)).take 4
    let old := (g.getId (vName (base + i / 32)) (i % 32)).toNat / 2 ^ (8 * part.length)
    g.setId (vName (base + i / 32)) (i % 32) (BitVec.ofNat 32 (leNat part + 2 ^ (8 * part.length) * old))) g

/-- The phase of a command is being published, or has been: what it writes goes to the drain (R136). -/
def Team.handed (t : Team) (phase : Nat) : Bool := decide (phase < t.phasen) || t.pub.any fun p => decide (phase ≤ p.phase)

/-- A piece of memory cut into its 64-byte lines (R129). -/
def linePieces (p : Nat × List Byte) : List (Nat × List Byte) :=
  (linesOf p.1 p.2.length).map fun l =>
    let lo := max p.1 (64 * l)
    (lo, (p.2.drop (lo - p.1)).take (min (p.1 + p.2.length) (64 * l + 64) - lo))

/-- A global write of the posting team's phase, line by line: into the Phase Buffer, or into the drain once the phase has ended (R67, R129). -/
def State.globalWrite (s : State) (tid phase : Nat) (ps : List (Nat × List Byte)) : State :=
  let ls := ps.flatMap linePieces
  s.modTeam tid fun t =>
    if t.handed phase then { t with drain := t.drain ++ ls.map fun p => ⟨phase, .st p.1 p.2⟩ }
    else { t with pb := t.pb ++ ls.map fun p => .st p.1 p.2 }

/-- The Phase Buffer has no room for a GLOBAL payload and its stamp in the phase of their command (R129); `n` counts their bytes. -/
def Team.noRoom (t : Team) (phase va n : Nat) : Bool :=
  !t.handed phase && decide (64 * t.live.groups.length < t.lines + (linesOf va n).length)

/-- The registers of a run, as first writes of a phase (R140). -/
def runKeys (group base n : Nat) : List UndoKey := (List.range ((n + 127) / 128)).map fun i => .vreg group (base + i)

/-- The first writes of a phase that a register landing of that phase makes (R140). -/
def Team.noteRun (t : Team) (phase group base n : Nat) : Team :=
  if phase < t.phasen then t else { t with undo := addAllNew (runKeys group base n) t.undo }

/-- What an entry's landing writes into the team for the first time in a phase. -/
def State.entryKeys (s : State) (t : Team) (code : Nat) (e : CopyEntry) : List UndoKey :=
  if e.kind = 1 then (if code = 0 then runKeys e.target e.off e.total else [])
  else if e.kind = 0 ∧ e.stampAt + 8 ≤ s.scrSizeOf t then (if code = 0 then s.lineKeys t e.off e.total else []) ++ s.lineKeys t e.stampAt 8
  else []

/-- Step 2 of R67: the payload, or a prefix of it before a fault; the code found. -/
def State.movePayload (s : State) (t : Team) (c : CopyCmd) (root : Nat) : Nat × State :=
  let e := c.entry
  let slot := some e.slot
  let faults := (e.ranges.zipIdx.flatMap fun p => s.srcFaults root e.dec p.1.1 p.1.2 (p.2 * e.len)) ++
    (if e.kind = 2 then s.dstFaults root e.enc e.off e.total else [])
  let code := lowestCode (faults.map (·.2.copyCode))
  let pre := s.choose (((faults.map (·.1)).min?).getD 0 + 1)
  let n := if faults = [] then e.total else pre.1
  let s := if faults = [] then s else pre.2
  let r := e.ranges.zipIdx.foldl (fun (acc : List Byte × State) p =>
    let x := acc.2.engRead root slot c.ver c.cap p.1.1 (min p.1.2 (n - p.2 * e.len))
    (acc.1 ++ x.1, x.2)) ([], s)
  let data := r.1.take n
  let s := r.2
  (code,
    if e.kind = 0 then s.landScr t.id c.phase c.torn e.off data
    else if e.kind = 1 then s.modTeam t.id fun t => (t.noteRun c.phase e.target e.off data.length).land c.phase e.target (landRun e.off data)
    else s.globalWrite t.id c.phase (s.engPieces (some t) root slot e.off data))

/-- Step 3: the stamp, at its place or in STAMPR. An entry that encrypts without a right to (codes 0x04 and 0x05) may write no PROT page, so a
stamp whose place lies on one goes to STAMPR (DESIGN CHOICE, log 115). -/
def State.stampEntry (s : State) (t : Team) (c : CopyCmd) (root code : Nat) : State :=
  let e := c.entry
  let val := leBytes 8 (if code = 0 then c.seq else 2 ^ 63 + c.seq % 2 ^ 55 * 256 + code)
  if e.kind = 0 ∧ e.stampAt + 8 ≤ s.scrSizeOf t then s.landScr t.id c.phase c.torn e.stampAt val
  else if e.kind = 2 ∧ s.dstFaults root (e.enc && !e.dec && s.slotBound t e.slot) e.stampAt 8 = [] then
    s.globalWrite t.id c.phase (s.engPieces (s.team? t.id) root (some e.slot) e.stampAt val)
  else s.modTeam t.id fun t => t.landData c.phase fun d => { d with scr := writeBytes d.scr (s.metaOf t (·.cpring) + 32) val }

/-- COPY_ENTRY_COMPLETE: payload, stamp, then the credit (R67); a refused entry moves nothing and breaks its barrier. It waits
for host memory, and for the boundary that makes room in the Phase Buffer or in the Undo Log (R129, R138, R140; log 105). -/
def execCopyEntryComplete (cmd : Nat) (s : State) : Host.Outcome State Fault Refusal :=
  match findBy (fun c : CopyCmd => c.id == cmd) s.copies with
  | none => .next s
  | some c =>
    match s.team? c.team with
    | none => .next s
    | some t =>
      let e := c.entry
      if s.awaitsHost cmd then .next s
      else if c.code = 0 ∧ e.kind = 2 ∧ t.noRoom c.phase e.off (e.stampAt + 8 - e.off) then
        .next (s.makeRoom t)
      else if !s.undoFits t c.phase (s.entryKeys t c.code e) then .next (s.makeRoom t)
      else
        let root := ((s.funcOf t).map (·.root)).getD 0
        let m := if c.code = 0 then s.movePayload t c root else
          (lowestCode (c.code :: (if c.code = 9 then (e.ranges.flatMap fun p => (s.srcFaults root e.dec p.1 p.2 0).map (·.2.copyCode)) ++
            (if e.kind = 2 then (s.dstFaults root e.enc e.off e.total).map (·.2.copyCode) else []) else [])), s)
        let s := m.2.stampEntry t c root m.1
        let named := bits e.ctl 0 20
        let s := s.modTeam t.id fun t =>
          let t := if e.kind = 1 then t.land c.phase e.target fun g => g.clearSb (((e.run t.live).getD []).map vName) else t
          if c.code = 9 ∨ named = 0xFFFFF then t else t.engineEnd named (m.1 == 0) e.total
        let s := { s with copies := s.copies.filter fun x => x.id != cmd }
        .next ((s.finishOp t.id c.group c.op).finishPub t.id)

end Sys2Proof.Machine
end

