-- ==== Sys2Proof/Machine/Escort.lean ====
section
/-!
DEFINITION. Escorted requests (R180 to R192): LDE (R390), ATOME (R326, R327), their landing, the ESCFAULT trap (R188, R189), and
RFT (R429), which reissues a retained request (R190).
-/
namespace Sys2Proof.Machine

/-! ### Departure -/

/-- The checks in flight (R187): the lowest faulting lane's code and address, and every lane that faults, whatever its code (R189). -/
def Ctx.escCheck (c : Ctx) (k : Access) (lanes : List (Nat × Nat)) : Except EscFault (List (Nat × Nat × Bool)) :=
  match c.translateLanes k lanes with
  | .ok ps => .ok ps
  | .error t => .error ⟨t.code, maskOf ((lanes.filter fun l => (c.s.access c.root k l.2).toOption.isNone).map (·.1)), t.addr⟩

/-- A request on its way: its addresses translated, a load's own and snapshot bytes settled, the escort's values taken along; it
counts in ES under its phase, and its registers are scoreboarded (R49, R183). -/
def Ctx.depart (c : Ctx) (e : Escort) : Ctx :=
  let op := c.s.uid
  let carried := e.regs.flatMap fun id => ((List.range 32).filter fun l => e.slices / 2 ^ (l / 4) % 2 == 1).map fun l => (id, l, c.g.getId id l)
  let go := fun (c : Ctx) (e : Escort) =>
    let e := { e with op := op, carried := carried, ver := c.s.ver, hi := none, faulted := false }
    let c : Ctx :=
      { c with s := { c.s with uid := op + 1 }
               g := { c.g with escs := c.g.escs ++ [e], ops := c.g.ops ++ [⟨op, .es, e.phase, false, .esc op⟩] } }
    let c := c.setSb (e.dst ++ e.regs)
    if e.phase < c.t.phasen then c else (e.dst ++ e.regs).foldl (fun c id => c.noteReg id) c
  match c.escCheck (if e.atom.isSome then .store else .load) e.lanes with
  | .error x => go c { e with pas := [], vals := [], mchk := false, bad := some x }
  | .ok ps =>
    let ls := laneAccs ps
    if e.atom.isSome then
      go (ls.foldl (fun (c : Ctx) l => c.askHost l.addr e.nb) c) { e with pas := ls, vals := [], mchk := false, bad := none }
    else
      let r := c.settleLanes e.sem e.elem e.nb ls
      go (r.ctx.keepLines e.sem ls) { e with pas := r.rest, vals := r.vals, mchk := r.mchk, bad := none }

/-- The cost of R182. -/
def escCost (mask : BitVec 24) (slices : Nat) : Nat :=
  16 * (maskBits mask).length * ((List.range 8).filter fun i => slices / 2 ^ i % 2 == 1).length

/-- LDE and ATOME in the order of R183: alignment, the refusal test, an ATOME's publish, departure. -/
def bodyEscort (i : Instr) (sp : Fin 8) (d a b : Reg) (mask : BitVec 24) (nd el nb : Nat) (sem : Sem) (atom : Option (Bool × AtomOp))
    (c : Ctx) : Res :=
  let eas := c.act.map fun l => (l, c.vaOf a 0 l)
  let slices := laneSlices c.mask
  let cost := escCost mask slices
  if c.act = [] then .ok c
  else match alignOf nb eas with
    | some t => .trap t
    | none =>
      if c.meta (·.escq) < c.g.escu + cost ∨ (c.coreOf.map (·.elb)).getD 0 < cost then .ok (c.setPred sp.val fun _ => false)
      else if atom.isSome && c.t.pub.isSome then .wait
      else if atom.isNone && (c.escCheck .load eas).toOption.any (fun ps => c.readsBehind (laneAccs ps) nb) then .wait
      else
        let e : Escort :=
          { handle := 0, op := 0, phase := c.t.phasen, lanes := eas, operand := c.act.map fun l => (l, BitVec.ofNat 64 (c.rd d nd l)),
            carried := [], regs := (escortRuns b mask).filterMap fun r => c.g.regId r.1 0, dst := c.runIds d nd, slices := slices, elem := el,
            nb := nb, sem := sem, atom := atom, wbase := c.g.win / 32, cost := cost,
            words := ((encode i).getD 0 0, (encode i).getD 1 0), pas := [], vals := [], ver := 0, hi := none, mchk := false,
            bad := none, faulted := false }
        let c := if atom.isSome then c.viaState fun s => s.publishOnly c.ref.team .device none else c
        let c := if atom.isNone && sem == .acq then c.refresh else c
        let c := c.setPred sp.val fun _ => true
        .ok (({ c with g := { c.g with escu := c.g.escu + cost }
                       s := c.s.modCore c.t.core fun k => { k with elb := k.elb - cost } } : Ctx).depart e)

def execLde (o : LdeOps) (s : State) :=
  issue (.lde o) noEarly (bodyEscort (.lde o) o.sp o.d o.a o.b o.mask o.w.regs (elemBytes o.sz) (xferBytes o.w o.sz) o.sc none) s

def execAtome (o : AtomeOps) (s : State) :=
  issue (.atome o) noEarly (bodyEscort (.atome o) o.sp o.d o.a o.b o.mask (atomRegs o.wide) (atomBytes o.wide) (atomBytes o.wide) .default
    (some (o.wide, o.op))) s

/-! ### Landing (R186, R188) -/

/-- The escort's registers as they come back. -/
def Escort.back (e : Escort) (g : Group) : Group := e.carried.foldl (fun g x => g.setId x.1 x.2.1 x.2.2) g

/-- The quota and the core's reserve take the cost back. -/
def State.escRelease (s : State) (core cost : Nat) : State := s.modCore core fun k => { k with elb := k.elb + cost }

/-- The lowest record slot that no retained request of the core has. -/
def State.freeHandle (s : State) (core : Nat) : Nat :=
  let used := (s.teams.filter fun t => t.core == core).flatMap fun t => t.live.groups.flatMap fun g => (g.escs.filter (·.faulted)).map (·.handle)
  (findBy (fun h => !used.contains h) (List.range (used.length + 1))).getD 0

/-- A request that has landed is gone from its group. -/
def Group.escDone (g : Group) (e : Escort) : Group :=
  (({ g with escs := g.escs.filter fun x => x.op != e.op, escu := g.escu - e.cost } : Group).clearSb (e.dst ++ e.regs)).finish e.op

/-- A landing without a fault: the escort, and the results by lane. -/
def State.escLand (s : State) (t : Team) (group : Nat) (e : Escort) (res : List (Nat × List Byte)) : State :=
  (s.modTeam t.id fun t =>
    (t.land e.phase group fun g => res.foldl (fun g v => g.landLane e.dst e.elem e.nb false v.1 v.2) (e.back g)).modGroup group
      fun g => g.escDone e).escRelease t.core e.cost

/-- A faulted landing (R188). -/
def State.escFault (s : State) (t : Team) (group : Nat) (e : Escort) : State :=
  let h := s.freeHandle t.core
  s.modTeam t.id fun t =>
    (t.land e.phase group e.back).modGroup group fun g =>
      ((({ g with escs := modBy (fun x => x.op == e.op) (fun x => { x with handle := h, faulted := true }) g.escs
          } : Group).hold (Pending.esc e.op h e.slices)).clearSb e.regs).finish e.op

/-- A request of a team that is gone, or that a rollback cancelled, is dropped at landing (R184, R186). -/
def State.escLate (s : State) (op : Nat) : State :=
  { s with cores := s.cores.map fun k =>
      { k with
        elb := k.elb + ((k.late.filter fun x => x.1 == op).map (·.2)).sum
        late := k.late.filter fun x => x.1 != op } }

/-- An older load or escort of the group of the same bytes is still to be read (R192). -/
def Team.escBehind (t : Team) (group : Nat) (e : Escort) : Bool := (t.group? group).any fun g => g.olderMeets e.op e.pas e.nb

/-- The drain still holds a write of the team to bytes of host memory on which an ATOME acts. -/
def Team.hostBehind (t : Team) (s : State) (e : Escort) : Bool :=
  e.atom.isSome && e.pas.any fun l => s.regionOf l.addr == some RegionKind.host && t.drain.any fun i => i.item.meets l.addr e.nb

/-- ESCORT_LANDING; a poisoned line is a machine check once the escort is back (R187, R299). An ATOME waits for its own publish, and for the team's
previous one before its boundary (R138, R145, R326). -/
def execEscortLanding (team group esc : Nat) (s : State) : Host.Outcome State Fault Refusal :=
  match (s.team? team).bind fun t => (t.group? group).bind fun g => (findBy (fun e => e.op == esc && !e.faulted) g.escs).map fun e => (t, e) with
  | none => .next (s.escLate esc)
  | some (t, e) =>
    if s.awaitsHost esc ∨ (e.atom.isSome ∧ t.pub.isSome) ∨ t.escBehind group e ∨ t.hostBehind s e then .next s
    else if e.bad.isSome then .next (s.escFault t group e)
    else if e.mchk ∨ e.pas.any (fun l => s.poisoned l.addr e.nb) then .next ((s.escLand t group e []).machineCheck team group e.phase)
    else match e.atom with
      | none =>
        let r := s.readLanes t e.sem e.ver e.hi e.elem e.nb e.pas
        let s := (r.2.1.cacheRead e.sem e.nb e.pas).modTeam team fun _ => r.2.2
        .next (s.escLand r.2.2 group e (e.vals ++ r.1))
      | some (wide, op) =>
        let ls : List AtomLane := e.pas.map fun p =>
          ⟨p.lane, p.addr, (((findBy (fun (x : Nat × DWord) => x.1 == p.lane) e.operand).map Prod.snd).getD 0).toNat, 0⟩
        let r := s.atomAtMemory team group wide (atomFn op wide) ls
        let s := r.2.escLand t group e (r.1.map fun x => (x.1, leBytes (atomBytes wide) x.2))
        .next (s.afterAtomic team .device)

/-! ### The trap, and the return from one -/

/-- ESCFAULT's registers (R189). -/
def Escort.trap (e : Escort) (f : EscFault) : Trap :=
  { code := tEscfault, addr := f.addr, lanes := f.lanes, aux0 := BitVec.ofNat 32 (65536 * (e.handle % 256) + 4096 * (e.wbase % 16) + f.cause),
    aux1 := BitVec.ofNat 32 e.words.1, aux2 := BitVec.ofNat 32 e.words.2, pc := none }

/-- ESCFAULT_TAKEN: in place of the fragment's next issue (R188). -/
def execEscfaultTaken (s : State) : Host.Outcome State Fault Refusal :=
  match s.cur.bind s.ctx with
  | none => .fault .noIssuer
  | some c =>
    match c.pending with
    | some (.esc k h m) =>
      let c := { c with g := { c.g with pend := c.g.pend.erase (.esc k h m) } }
      match findBy (fun e => e.faulted && e.handle == h) c.g.escs with
      | none => .next c.commit
      | some e =>
        let s := c.takeTrap (e.trap (e.bad.getD ⟨tPage, 0, 0⟩))
        .next (s.modTeam c.ref.team fun t => t.modGroup c.ref.group fun g => { g with handler := g.handler.map fun x => { x with esc := some h } })
    | _ => .next s

/-- The reissue of the retained request (R190): never refused, its escort read as it is now, in its own phase. -/
def Ctx.reissue (c : Ctx) : Ctx :=
  match c.g.handler.bind fun h => if h.retry ∧ c.g.trap.code = tEscfault then h.esc else none with
  | none => c
  | some h =>
    match findBy (fun e => e.faulted && e.handle == h) c.g.escs with
    | none => c
    | some e => ({ c with g := { c.g with escs := c.g.escs.filter fun x => x.op != e.op } } : Ctx).depart e

/-- RFT (R429). -/
def execRft (s : State) := plain .rft (fun c => c.reissue.returnFromTrap) s

end Sys2Proof.Machine
end

