-- ==== Sys2Proof/Machine/Lnch.lean ====
section
/-!
DEFINITION. LNCH (R35, R393 to R395) and the arrival of launch records from the host (R2, R3, R33, R278, R287, R288).
-/
namespace Sys2Proof.Machine

/-- LNCH publishes at DEVICE scope, asks the host for a record that lies there (R278), and then waits for the front end (R394). -/
def execLnch (d a : Reg) (q : BitVec 6) (s : State) :=
  issue (.lnch d a q) noEarly (fun c =>
    let va := c.vaOf a 0 c.low
    if c.act = [] then .ok c
    else if va % 64 ≠ 0 then .trap (trapAt tAlign va c.mask)
    else match c.s.access c.root .load va with
      | .error k => .trap (trapAt k va c.mask)
      | .ok r => c.publishFirst .device fun c => c.hostFirst [r.1] 64 fun c => .ok { c with f := { c.f with wait := .lnch r.1 q.toNat d } }) s

/-- The status of LNCH (R395). -/
def State.lnchStatus (s : State) (vf q seq : Nat) : Nat :=
  match s.arrival vf q seq with
  | .new => 0
  | .again => 1
  | .none =>
    let run := (s.func? vf).any s.acks
    let en := (s.queue? vf q).any (·.en)
    if run && en then 2 else 3

/-- LNCH_COMPLETE: the front end reads the record as published data and answers; the status is written and the boundary taken. -/
def execLnchComplete (team group slice : Nat) (s : State) : Host.Outcome State Fault Refusal :=
  match s.ctx ⟨team, group, slice⟩ with
  | none => .next s
  | some c =>
    match c.f.wait with
    | .lnch pa q d =>
      if c.t.pub.isSome then .next s
      else
        let bs := c.s.bytesNow pa 64
        let vf := (c.func.map (·.vf)).getD 256
        let st := c.s.lnchStatus vf q (leNat (bs.take 8))
        let c := { c with f := { c.f with wait := .run }, s := if st = 0 then c.s.accept vf q bs else c.s }
        .next ((c.wr d 1 0 st).boundary .device false false none).commit
    | _ => .next s

/-- A record of the bounce channel fails authentication: the channel enters ERROR (R288). -/
def State.channelError (s : State) (vf : Nat) : State := s.modFunc vf fun f => { f with chanErr := true }

/-- A record authenticates: it is the one that carries this content under the function's key and the device's own count of the records that
have arrived (R287), with the KIND and function of the message, its length and its tag. -/
def Func.opens (f : Func) (kind : Nat) (plain wire : List Byte) : Bool :=
  f.chanKey.any fun key => gcmRecord 1 f.vf key f.rxCtr kind plain == wire

/-- What every message of the host meets first (R287, R288): a confidential partition's function takes it from a record of the channel, as it
came over the wire, which has no key or is in ERROR, or whose authentication fails. -/
def State.hostMsg (s : State) (vf kind : Nat) (plain wire : List Byte) (k : Func → State → State) : Host.Outcome State Fault Refusal :=
  match s.func? vf with
  | none => .next s
  | some f =>
    if !s.channelUp f then .next s
    else if !f.opens kind plain wire && s.confidential f then .next (s.channelError vf)
    else .next (k f (if s.confidential f then s.modFunc vf fun f => { f with rxCtr := (f.rxCtr + 1) % 2 ^ 64 } else s))

/-- LAUNCH_RECORD (R2, R3, R33, R278): accepted and acknowledged, acknowledged again, or not acknowledged. -/
def execLaunchRecord (vf q : Nat) (bytes wire : List Byte) (s : State) : Host.Outcome State Fault Refusal :=
  s.hostMsg vf 1 (Config.hostContent 1 [q] (fit 64 bytes)) wire fun _ s =>
    let bs := fit 64 bytes
    let seq := leNat (bs.take 8)
    match s.arrival vf q seq with
    | .again => s.send vf (.ack q seq)
    | .new => (s.accept vf q bs).send vf (.ack q seq)
    | .none => s

end Sys2Proof.Machine
end

