-- ==== Sys2Proof/Machine/Reshard.lean ====
section
/-!
DEFINITION. RSHARD and the Re-Shard Engine (R261 to R266, R434, R435).
-/
namespace Sys2Proof.Machine

/-! ### Layout records (R263) -/

structure Layout where
  rank : Nat
  elem : Nat
  shape : List Nat
  mrank : Nat
  mesh : List Nat
  map : List Nat
  devtab : Nat
  base : Nat
  deriving DecidableEq, Repr

def prod (l : List Nat) : Nat := l.foldl (· * ·) 1

def Layout.size (l : Layout) : Nat := prod l.mesh

/-- The mesh dimension that a tensor dimension is split over. -/
def Layout.axis (l : Layout) (t : Nat) : Option Nat := if l.map.getD t 0xFF = 0xFF then none else some (l.map.getD t 0xFF)

/-- A record's fields, where they lie within their limits. A tensor or mesh extent of 0 has no blocks. -/
def layoutOf (bs : List Byte) : Option Layout :=
  let f := fun (o n : Nat) => leNat ((bs.drop o).take n)
  let l : Layout :=
    { rank := f 6 1, elem := f 7 1, shape := (List.range 4).map fun i => f (8 + 4 * i) 4, mrank := f 24 1,
      mesh := (List.range 3).map fun i => f (26 + 2 * i) 2, map := (List.range 4).map fun i => f (32 + i) 1, devtab := f 40 8, base := f 48 8 }
  let dims := List.range l.rank
  let axes := dims.filterMap l.axis
  let ok := f 0 4 == 0x3154594C && f 4 2 == 1 && decide (1 ≤ l.rank ∧ l.rank ≤ 4) && [1, 2, 4, 8].contains l.elem &&
    decide (1 ≤ l.mrank ∧ l.mrank ≤ 3) && f 25 1 == 0 && f 36 4 == 0 && f 56 8 == 0 &&
    (List.range 4).all (fun i => if i < l.rank then l.shape.getD i 0 != 0 else l.shape.getD i 0 == 1) &&
    (List.range 3).all (fun i => if i < l.mrank then l.mesh.getD i 0 != 0 else l.mesh.getD i 0 == 1) &&
    (List.range 4).all (fun i => if i < l.rank then (l.axis i).all fun m => decide (m < l.mrank) else l.map.getD i 0 == 0xFF) &&
    dims.all (fun i => (l.axis i).all fun m => l.shape.getD i 0 % max (l.mesh.getD m 1) 1 == 0) &&
    axes.eraseDups.length == axes.length
  if ok then some l else none

/-- The coordinate of a linear mesh index in dimension `m` (row-major). -/
def Layout.coord (l : Layout) (i m : Nat) : Nat := i / prod (l.mesh.drop (m + 1)) % max (l.mesh.getD m 1) 1

/-- The box of a mesh index: the low and high ends of each tensor dimension. -/
def Layout.lo (l : Layout) (i : Nat) : List Nat :=
  (List.range l.rank).map fun t => match l.axis t with
    | none => 0
    | some m => l.coord i m * (l.shape.getD t 1 / max (l.mesh.getD m 1) 1)

def Layout.hi (l : Layout) (i : Nat) : List Nat :=
  (List.range l.rank).map fun t => match l.axis t with
    | none => l.shape.getD t 1
    | some m => (l.coord i m + 1) * (l.shape.getD t 1 / max (l.mesh.getD m 1) 1)

/-- The elements of a box. -/
def boxSize (lo hi : List Nat) : Nat := prod ((hi.zip lo).map fun p => p.1 - p.2)

/-- The bytes of a shard. -/
def Layout.shard (l : Layout) : Nat := boxSize (l.lo 0) (l.hi 0) * l.elem

/-! ### RSHARD (R435) -/

/-- Bytes that have taken effect at a virtual range, where it translates and lies on no protected page. -/
def State.peek (s : State) (root va n : Nat) : Option (List Byte) :=
  if s.srcFaults root false va n 0 = [] then
    some ((pages va n).flatMap fun p => match s.translate root p.1 with
      | some (_, pa) => s.bytesNow pa p.2.2
      | none => [])
  else none

/-- The device table of a layout. -/
def State.devices (s : State) (root : Nat) (l : Layout) : Option (List Nat) :=
  if 65536 < l.size then none
  else (s.peek root l.devtab (2 * l.size)).map fun bs => (List.range l.size).map fun i => leNat ((bs.drop (2 * i)).take 2)

/-- The ranges that RSHARD reads of the team's own memory: the records, their device tables, and the source shard where the device
holds one. -/
def Ctx.rshardRanges (c : Ctx) (src dst : Nat) : List (Nat × Nat) :=
  let tab := fun (va : Nat) => ((c.s.peek c.root va 64).bind layoutOf).map fun l => (l.devtab, 2 * l.size)
  let own := ((c.s.peek c.root src 64).bind layoutOf).bind fun l => (c.s.devices c.root l).bind fun ds =>
    if ds.contains c.s.devId then some ((c.func.map (·.xwbase)).getD 0 + l.base, l.shard) else none
  [(src, 64), (dst, 64)] ++ (tab src).toList ++ (tab dst).toList ++ own.toList

def Ctx.postRshard (c : Ctx) (src dst prog bar : Nat) : Ctx :=
  let id := c.s.uid
  let pa := ((c.s.translate c.root prog).map Prod.snd).getD 0
  let cmd : RseCmd :=
    { id := id, team := c.ref.team, gen := c.t.gen, phase := c.t.phasen, group := c.ref.group, op := id, src := src, dst := dst, prog := prog,
      progPa := pa, bar := BitVec.ofNat 32 bar, ver := c.s.ver, running := false, elem := 0, dlo := [], dhi := [], sbase := 0, dbase := 0, pieces := [],
      flight := [], credited := 0, stop := none }
  let c := c.addOp .co false (.rshard id)
  { c with s := { c.s with rses := c.s.rses ++ [cmd] } }

def execRshard (d : Reg) (s : State) :=
  issue (.rshard d) noEarly (fun c =>
    let x := c.rd d 8 0
    let src := bits x 0 64
    let dst := bits x 64 64
    let prog := bits x 128 64
    let bar := bits x 192 32
    if c.act = [] then .ok c
    else if bits x 224 32 ≠ 0 ∨ bits bar 20 12 ≠ 0 then .trap (c.dynamic (.rshard d))
    else if src % 64 ≠ 0 then .trap (trapAt tAlign src c.mask)
    else if dst % 64 ≠ 0 then .trap (trapAt tAlign dst c.mask)
    else if prog % 8 ≠ 0 then .trap (trapAt tAlign prog c.mask)
    else match c.checkNamed (.rshard d) bar with
      | .error t => .trap t
      | .ok c =>
        match c.s.dstFaults c.root false prog 16 with
        | (o, .page) :: _ => .trap (trapAt tPage (prog + o) c.mask)
        | (o, _) :: _ => .trap (trapAt tPerm (prog + o) c.mask)
        | [] =>
          if c.t.pb = [] ∧ c.t.drain = [] then .ok (c.posting.postRshard src dst prog bar)
          else c.afterPublish ((c.rshardRanges src dst).flatMap fun r => c.physical r.1 r.2) fun c => .ok (c.postRshard src dst prog bar)) s

/-! ### The plan (R264) -/

/-- The source boxes in mesh order, each with the devices that hold it, in mesh order. -/
def Layout.boxes (l : Layout) (ids : List Nat) : List (Nat × List Nat) :=
  ids.zipIdx.foldl (fun (acc : List (Nat × List Nat)) d =>
    if acc.any fun b => l.lo b.1 == l.lo d.2 then modBy (fun b => l.lo b.1 == l.lo d.2) (fun b => (b.1, b.2 ++ [d.1])) acc
    else acc ++ [(d.2, [d.1])]) []

/-- The plan of destination index `i`: for each box the replica taken, and where it meets the destination box. -/
def planOf (src dst : Layout) (ids : List Nat) (i : Nat) : List Piece :=
  (src.boxes ids).filterMap fun b =>
    let lo := ((src.lo b.1).zip (dst.lo i)).map fun p => max p.1 p.2
    let hi := ((src.hi b.1).zip (dst.hi i)).map fun p => min p.1 p.2
    let n := boxSize lo hi * src.elem
    if n = 0 then none
    else some { dev := b.2.getD (i % b.2.length) 0, lo := lo, hi := hi, slo := src.lo b.1, shi := src.hi b.1,
                total := (n + 4095) / 4096, done := 0, ahead := [] }

/-- The bytes of a piece and of one of its chunks. -/
def Piece.size (p : Piece) (elem : Nat) : Nat := boxSize p.lo p.hi * elem
def Piece.chunk (p : Piece) (elem c : Nat) : Nat := min 4096 (p.size elem - 4096 * c)
def Piece.prefix (p : Piece) (elem : Nat) : Nat := min (4096 * p.done) (p.size elem)

/-- The coordinates of element `k` of a box, and the place of coordinates in a box (row-major). -/
def boxCoords : List (Nat × Nat) → Nat → List Nat
  | [], _ => []
  | (lo, hi) :: r, k =>
    let inner := boxSize (r.map Prod.fst) (r.map Prod.snd)
    (lo + k / max inner 1 % max (hi - lo) 1) :: boxCoords r k

def boxPlace : List (Nat × Nat) → List Nat → Nat
  | (lo, _) :: r, x :: xs => (x - lo) * boxSize (r.map Prod.fst) (r.map Prod.snd) + boxPlace r xs
  | _, _ => 0

/-- The window offsets of the elements of a chunk: at the source and at the destination. -/
def RseCmd.elems (c : RseCmd) (p : Piece) (chunk : Nat) : List (Nat × Nat) :=
  (List.range (p.chunk c.elem chunk / max c.elem 1)).map fun j =>
    let x := boxCoords (p.lo.zip p.hi) (4096 * chunk / max c.elem 1 + j)
    (c.sbase + c.elem * boxPlace (p.slo.zip p.shi) x, c.dbase + c.elem * boxPlace (c.dlo.zip c.dhi) x)

/-! ### The progress record (R265, R266) -/

def State.rseFunc (s : State) (c : RseCmd) : Option Func := (s.team? c.team).bind s.funcOf
def State.rseRoot (s : State) (c : RseCmd) : Nat := ((s.rseFunc c).map (·.root)).getD 0

/-- Writing a field of the record, where it translates. -/
def State.progWrite (s : State) (c : RseCmd) (o : Nat) (bs : List Byte) : State :=
  if s.dstFaults (s.rseRoot c) false (c.prog + o) bs.length = [] then
    s.engWrite (((s.rseFunc c).map (·.vf)).getD 256) (s.rseRoot c) (c.prog + o) bs
  else s

def State.modRse (s : State) (id : Nat) (f : RseCmd → RseCmd) : State := { s with rses := modBy (fun c => c.id == id) f s.rses }

/-- A credit of a command's barrier. -/
def State.rseCredit (s : State) (c : RseCmd) (n : Nat) : State :=
  (s.modTeam c.team fun t => t.engineEnd c.bar.toNat true n).modRse c.id fun c => { c with credited := c.credited + n }

/-- Withdrawing an engine's credits without taking LAND below 0, and breaking its barrier (R262). -/
def Team.withdraw (t : Team) (ctl n : Nat) : Team :=
  if bits ctl 0 20 = 0xFFFFF then t else t.engineBar (16 * bits ctl 0 20) fun o => { o with land := o.land - n, brk := true }

/-- The command has written its status: it retires from CO (R266). -/
def State.rseEnd (s : State) (c : RseCmd) (ok : Bool) : State :=
  let s := if ok then s else s.modTeam c.team fun t => t.engineEnd c.bar.toNat false 0
  (({ s with rses := s.rses.filter fun x => x.id != c.id } : State).finishOp c.team c.group c.op).finishPub c.team

/-- A status reached before any byte moves. -/
def State.rseRefuse (s : State) (c : RseCmd) (code : Nat) : State := (s.progWrite c 6 (leBytes 2 code)).rseEnd c false

/-- The next chunk that the command has not issued, in ascending order. -/
def RseCmd.next (c : RseCmd) : Option (Nat × Nat) :=
  (c.pieces.zipIdx.flatMap fun p => ((List.range p.1.total).filter fun k =>
    decide (p.1.done ≤ k) && !p.1.ahead.contains k && !c.flight.contains (p.2, k)).map fun k => (p.2, k)).head?

/-- One more chunk is pulled from its source window with RLD semantics (R252), within the bound of 8. A function whose key is 0 sends
no request (R251): the chunk fails as such a request does. -/
def State.rsePull (s : State) (id : Nat) : State :=
  match findBy (fun c : RseCmd => c.id == id) s.rses with
  | none => s
  | some c =>
    match c.next with
    | none => s
    | some (p, k) =>
      if 8 ≤ c.flight.length ∨ c.stop.isSome then s
      else match c.pieces[p]?, s.team? c.team with
        | some q, some t =>
          let stop := fun (code : Nat) => s.modRse id fun c => { c with stop := some (code, q.dev) }
          if q.dev ≠ s.devId ∧ (9215 < q.dev ∨ !s.reachable q.dev) then stop 0x13
          else if q.dev ≠ s.devId ∧ (s.rseFunc c).all (fun f => f.xwkey == 0) then stop 0x15
          else
            let s := s.modRse id fun c => { c with flight := c.flight ++ [(p, k)] }
            if q.dev = s.devId then s
            else
              s.sendPull t p c.id k c.phase q.dev c.elem ((c.elems q k).zipIdx.map fun e => ⟨e.2, e.1.1, []⟩)
        | _, _ => s

def State.rsePulls (s : State) (id : Nat) : State := (List.range 8).foldl (fun s _ => s.rsePull id) s

/-- All chunks are done. -/
def RseCmd.all (c : RseCmd) : Bool := c.pieces.all fun p => decide (p.total ≤ p.done)

/-- The fresh record of a plan. -/
def freshRecord (plan : Nat) (ps : List Piece) : List Byte :=
  leBytes 4 0x31475250 ++ leBytes 2 ps.length ++ leBytes 2 1 ++ leBytes 4 plan ++ leBytes 2 0xFFFF ++ leBytes 2 0 ++
    ps.flatMap fun p => leBytes 4 0 ++ leBytes 4 p.total

/-- What the engine makes of the layouts: a status, or both layouts, the destination index, the pieces and the plan's CRC. -/
def State.rsePlan (s : State) (c : RseCmd) : Except Nat (Layout × Layout × Nat × List Piece × Nat) :=
  let root := s.rseRoot c
  let codes := fun (va n : Nat) => (s.srcFaults root false va n 0).map (·.2.code)
  let bad := codes c.src 64 ++ codes c.dst 64
  let a := (s.peek root c.src 64).getD []
  let b := (s.peek root c.dst 64).getD []
  if bad ≠ [] then .error (lowestCode bad)
  else match layoutOf a, layoutOf b with
    | some x, some y =>
      if x.rank ≠ y.rank ∨ x.elem ≠ y.elem ∨ x.shape ≠ y.shape ∨ 65536 < x.size ∨ 65536 < y.size then .error 0x17
      else
        let tabs := codes x.devtab (2 * x.size) ++ codes y.devtab (2 * y.size)
        let xs := (s.devices root x).getD []
        let ys := (s.devices root y).getD []
        if tabs ≠ [] then .error (lowestCode tabs)
        else if xs.eraseDups.length ≠ xs.length ∨ ys.eraseDups.length ≠ ys.length then .error 0x17
        else match ys.idxOf? s.devId with
          | none => .error 0x11
          | some i =>
            let ps := planOf x y xs i
            if 64 < ps.length then .error 0x18 else .ok (x, y, i, ps, (crc32 (a ++ b)).toNat)
    | _, _ => .error 0x17

/-- The record's rows of R266: a status, a fresh start (none), or the DONE counts to resume from. -/
def State.examine (s : State) (c : RseCmd) (ps : List Piece) (plan : Nat) : Except Nat (Option (List Nat)) :=
  let root := s.rseRoot c
  let n := 16 + 8 * ps.length
  let faults := (s.dstFaults root false c.prog n).map (·.2.code)
  match s.peek root c.prog 16 with
  | none => .error (lowestCode ((s.srcFaults root false c.prog 16 0).map (·.2.code)))
  | some h =>
    let f := fun (o k : Nat) => leNat ((h.drop o).take k)
    if f 0 4 ≠ 0x31475250 then (if faults = [] then .ok none else .error (lowestCode faults))
    else if f 8 4 ≠ plan ∨ f 4 2 ≠ ps.length then .error 0x19
    else match s.peek root (c.prog + 16) (8 * ps.length) with
      | none => .error (lowestCode ((s.srcFaults root false (c.prog + 16) (8 * ps.length) 0).map (·.2.code)))
      | some e =>
        let done := (List.range ps.length).map fun i => leNat ((e.drop (8 * i)).take 4)
        let total := (List.range ps.length).map fun i => leNat ((e.drop (8 * i + 4)).take 4)
        if total ≠ ps.map (·.total) ∨ (done.zip total).any fun p => decide (p.2 < p.1) then .error 0x19
        else if faults = [] then .ok (some done) else .error (lowestCode faults)

/-- A command may start (R266, R435): at most four run, none runs on its record, and none of those posted before it could start. -/
def State.rseReady (s : State) (c : RseCmd) : Bool :=
  let busy := fun (x : RseCmd) => s.rses.any fun y => y.running && y.progPa == x.progPa
  !c.running && !busy c && decide ((s.rses.filter (·.running)).length < 4) &&
    (s.rses.takeWhile fun x => x.id != c.id).all fun x => x.running || busy x

/-- RSHARD_START (R263, R264, R266). -/
def execRshardStart (cmd : Nat) (s : State) : Host.Outcome State Fault Refusal :=
  match findBy (fun c : RseCmd => c.id == cmd) s.rses with
  | none => .next s
  | some c =>
    if !s.rseReady c then .next s
    else match s.rsePlan c with
      | .error k => .next (s.rseRefuse c k)
      | .ok (x, y, i, ps, plan) =>
        match s.examine c ps plan with
        | .error k => .next (s.rseRefuse c k)
        | .ok old =>
          let ps := match old with
            | none => ps
            | some done => ps.zipIdx.map fun p => { p.1 with done := done.getD p.2 0 }
          let c := { c with
            running := true, ver := s.ver, elem := x.elem, dlo := y.lo i, dhi := y.hi i, sbase := x.base, dbase := y.base, pieces := ps }
          let s := s.modRse cmd fun _ => c
          let s := match old with
            | none => s.progWrite c 0 (freshRecord plan ps)
            | some _ => s.progWrite c 6 (leBytes 2 1)
          let s := s.rseCredit c ((ps.map fun p => p.prefix c.elem).sum)
          .next (if c.all then (s.progWrite c 6 (leBytes 2 0)).rseEnd c true else s.rsePulls cmd)

/-- The pieces of each element of a chunk in the function's own window, or the first failure's code. -/
def State.elemWindows (s : State) (f : Func) (store : Bool) (elem : Nat) (offs : List Nat) : Except Nat (List (List (Nat × Nat × Nat))) :=
  offs.mapM fun o => match s.window f store o elem with
    | .error k => Except.error (causeCode k)
    | .ok ps => Except.ok ps

/-- Bytes at physical addresses; one that has been written since `ver` is a free value (R264, log 62). -/
def State.pulled (s : State) (ver : Nat) (as : List Nat) : List Byte × State :=
  mapAcc (fun (s : State) a =>
    if s.hist.any (fun h => decide (ver < h.ver) && h.addr == a) then
      let f := s.freeBytes 1
      (f.1.headD 0, f.2)
    else (look s.mem a, s)) s as

/-- A chunk of this device's own window: its bytes, or the code of its failure (R249, R261). -/
def State.ownChunk (s : State) (c : RseCmd) (offs : List Nat) : Except Nat (List Byte × State) :=
  match s.rseFunc c with
  | none => .error 0x15
  | some f =>
    if f.xwkey = 0 then .error 0x15
    else match s.elemWindows f false c.elem offs with
      | .error k => .error k
      | .ok ws => if ws.any fun ps => ps.any fun p => s.poisoned p.1 p.2.2 then .error 0x1C
        else .ok (s.pulled c.ver (ws.flatten.flatMap fun p => (List.range p.2.2).map (p.1 + ·)))

/-- The physical pieces of a chunk at the local shard, or the code of a fault there. -/
def State.shardPieces (s : State) (c : RseCmd) (offs : List Nat) (bs : List Byte) : Except Nat (List (Nat × List Byte)) :=
  match s.rseFunc c with
  | none => .error 0x15
  | some f => match s.elemWindows f true c.elem offs with
    | .error k => .error k
    | .ok ws => .ok (ws.zipIdx.flatMap fun w => piecesOf w.1 ((bs.drop (c.elem * w.2)).take c.elem))

/-- The unbroken prefix of completed chunks. -/
def Piece.settle : Nat → Piece → Piece
  | 0, p => p
  | n + 1, p => if p.ahead.contains p.done then Piece.settle n { p with done := p.done + 1, ahead := p.ahead.filter (· != p.done) } else p

/-- RSHARD_CHUNK_COMPLETE: the chunk takes effect at local memory, is credited, and DONE advances; after the last one STATUS 0 is written before the
final credit. A late first reply to a chunk that was pulled again is dropped (R250). A failure, at the source or here, stops the command (R264,
R266); one at the source is a cause of R254 or a code of R261. -/
def execRshardChunkComplete (cmd piece chunk : Nat) (data : PullReply) (fail : Nat) (s : State) : Host.Outcome State Fault Refusal :=
  match findBy (fun c : RseCmd => c.id == cmd) s.rses with
  | none => .next s
  | some c =>
    match c.pieces[piece]? with
    | none => .next s
    | some p =>
      let es := c.elems p chunk
      let own := decide (p.dev = s.devId)
      let n := p.chunk c.elem chunk
      let pullOf := fun (r : RemReq) => r.msg.kind == MsgKind.pull && r.op == cmd && r.group == piece && r.slices == chunk
      let got : Except Nat (List Byte × State) :=
        if own then s.ownChunk c (es.map Prod.fst)
        else match exchangeCode fail with
          | some 0 => .ok (data.data, s)
          | k => .error (k.getD 0x13)
      let odd := !own && (!s.rreqs.any (fun r => pullOf r && r.msg.seq == data.seq) ||
        (if fail = 0 then data.data.length != n else (exchangeCode fail).isNone || fail == 0x1A))
      if !c.flight.contains (piece, chunk) ∨ odd then .next s
      else
        let s := { s with rreqs := s.rreqs.filter fun r => !pullOf r }
        let s := s.modRse cmd fun c => { c with flight := c.flight.filter (· != (piece, chunk)) }
        let stop := fun (code dev : Nat) => s.modRse cmd fun c => { c with stop := some (c.stop.getD (code, dev)) }
        match got with
        | .error k => .next (stop k (if own then 0xFFFF else p.dev))
        | .ok (bs, now) =>
          match s.shardPieces c (es.map Prod.snd) bs with
          | .error k => .next (stop k 0xFFFF)
          | .ok ps =>
            let s : State := State.physWrite { s with freeCtr := now.freeCtr } (((s.rseFunc c).map (·.vf)).getD 256) ps
            let q := Piece.settle p.total { p with ahead := chunk :: p.ahead }
            let s := s.modRse cmd fun c => { c with pieces := c.pieces.set piece q }
            let s := if q.done = p.done then s else s.progWrite c (16 + 8 * piece) (leBytes 4 q.done)
            let all := (findBy (fun c : RseCmd => c.id == cmd) s.rses).any RseCmd.all
            .next (if all && c.stop.isNone then ((s.progWrite c 6 (leBytes 2 0)).rseCredit c n).rseEnd c true
              else (s.rseCredit c n).rsePulls cmd)

/-- RSHARD_STOP: once no chunk is in flight, DONE, FAILDEV and STATUS are written in that order; then a cancelled command's credits are
withdrawn, and the barrier breaks (R261, R262, R266, R276). -/
def execRshardStop (cmd : Nat) (s : State) : Host.Outcome State Fault Refusal :=
  match findBy (fun c : RseCmd => c.id == cmd) s.rses with
  | none => .next s
  | some c =>
    match c.stop with
    | none => .next s
    | some (code, dev) =>
      if c.flight ≠ [] then .next s
      else
        let s := c.pieces.zipIdx.foldl (fun s p => s.progWrite c (16 + 8 * p.2) (leBytes 4 p.1.done)) s
        let s := (s.progWrite c 12 (leBytes 2 dev)).progWrite c 6 (leBytes 2 code)
        let s := if code = 0x1A then s.modTeam c.team fun t => t.withdraw c.bar.toNat c.credited else s
        .next (s.rseEnd c false)

end Sys2Proof.Machine
end

