-- ==== Sys2Proof/Machine/Sched.lean ====
section
/-!
DEFINITION. Partitions and their time slices (R174 to R176), the dispatcher and placement (R34 to R40, R118, R124 to R126, R157 to
R159), rollback (R142, R191, R262), saving (R143, R173), and eviction (R38).
-/
namespace Sys2Proof

/-- Where in the context save area a team's checkpoint stands, and its bytes there (R173): team, generation, checkpoint. The spec gives it no
layout. -/
opaque Config.saveImage : Nat → Nat → Machine.TeamData → Nat × List Byte

/-- What a core makes of a save area whose bytes are not those that were written there. -/
opaque Config.loadImage : List Byte → Machine.TeamData

end Sys2Proof

namespace Sys2Proof.Machine

/-! ### Partitions (R174, R175) -/

/-- A partition's time runs: its own slice and its parents' (R175). -/
def runsIn (ps : List Part) : Nat → Nat → Bool
  | 0, _ => true
  | n + 1, id =>
    match findBy (fun p : Part => p.id == id) ps with
    | none => true
    | some p => (!p.ts || p.slice == .on) && (if p.level = 0 then true else runsIn ps n p.parent)

def State.inSlice (s : State) (part : Nat) : Bool := runsIn s.parts 3 part

def State.teamPart (s : State) (t : Team) : Nat := ((s.partOf t).map (·.id)).getD 64

/-- TS siblings: partitions that share their cores in turns. -/
def siblings (p q : Part) : Bool := p.ts && q.ts && p.parent == q.parent && p.level == q.level

/-- A partition is `id` or lies below it. -/
def below (ps : List Part) : Nat → Nat → Nat → Bool
  | 0, _, _ => false
  | n + 1, id, x => x == id || match findBy (fun p : Part => p.id == x) ps with
    | none => false
    | some p => p.level != 0 && below ps n id p.parent

def State.isBelow (s : State) (id x : Nat) : Bool := below s.parts 4 id x

/-- Readiness of every team (R175): a team whose rollback is asked for stays as it is until then. -/
def State.setReady (s : State) : State :=
  { s with teams := s.teams.map fun t =>
      if t.rb then t else { t with ready := !t.saved && !t.leave && s.inSlice (s.teamPart t) } }

/-! ### Room (R36, R175) -/

def Meta.units (m : Meta) : Nat := m.und + m.acc + m.scr + m.reg
def Meta.groups (m : Meta) : Nat := m.n.sum

/-- Groups of a team of `n` groups in one sector: group g goes to sector g mod 8 (R36). -/
def inSector (n i : Nat) : Nat := ((List.range n).filter fun g => g % 8 == i).length

def Config.sectorGroups : Nat := 16

/-- The pool units of a core that a partition may hold: its POOLSH share where it is time-shared. -/
def Part.share (p : Part) : Nat := if p.ts then p.poolsh else Config.poolUnits

def State.teamMeta (s : State) (t : Team) : Option Meta := (s.launchOf t).bind (·.md)

/-- The teams that stand on a core. -/
def State.resident (s : State) (core : Nat) : List Team := s.teams.filter fun t => t.core == core && !t.saved

/-- How many more teams with this metadata fit on a core. -/
def State.room (s : State) (p : Part) (m : Meta) (core : Nat) : Nat :=
  let ts := s.resident core
  let used := ((ts.filter fun t => s.teamPart t == p.id).map fun t => ((s.teamMeta t).map Meta.units).getD 0).sum
  let mixed := ts.any fun t => (s.partOf t).any fun q => q.id != p.id && !siblings p q
  let alive := (s.core? core).any (·.alive)
  let byUnits := (p.share - used) / max m.units 1
  let bySector := (List.range 8).map fun i =>
    let taken := (ts.map fun t => inSector t.live.groups.length i).sum
    if inSector m.groups i = 0 then 128 else (Config.sectorGroups - taken) / inSector m.groups i
  if mixed ∨ !alive ∨ !p.cores.getLsbD core then 0 else min byUnits (bySector.foldl min 128)

/-- How many fit on an empty core of the partition. -/
def Part.capacity (p : Part) (m : Meta) : Nat :=
  min (p.share / max m.units 1) (((List.range 8).map fun i =>
    if inSector m.groups i = 0 then 128 else Config.sectorGroups / inSector m.groups i).foldl min 128)

def Part.coreList (p : Part) : List Nat := (List.range 144).filter p.cores.getLsbD

/-! ### The metadata record (R124, R125) -/

def le (bs : List Byte) (o n : Nat) : Nat := leNat ((bs.drop o).take n)

/-- The fields of a record and its barrier table; bits 63:52 of ENTRY are dropped (DESIGN CHOICE, log 103). -/
def metaOfBytes (bs : List Byte) : Meta where
  dur := le bs 6 2 % 2 == 1
  coop := le bs 6 2 / 2 % 2 == 1
  entry := BitVec.ofNat 52 (le bs 8 8)
  n := [le bs 16 1, le bs 17 1, le bs 18 1]
  tset := le bs 19 1
  regs := [le bs 20 2, le bs 22 2, le bs 24 2]
  und := le bs 31 1
  acc := le bs 30 1
  scr := le bs 29 1
  reg := le bs 28 1
  dim := [le bs 32 1, le bs 33 1, le bs 34 1]
  escq := 128 * le bs 36 2
  cpring := le bs 40 4
  slots := le bs 44 2
  bars := (List.range (le bs 46 2)).map fun i => (le bs (128 + 16 * i) 4, le bs (132 + 16 * i) 2, le bs (136 + 16 * i) 4)
  mirOff := le bs 48 4
  mirSize := le bs 52 4
  seed := BitVec.ofNat 32 (le bs 56 4)
  tiles := (List.range 16).filterMap fun i =>
    let e := le bs (64 + 2 * i) 2
    if bits e 15 1 = 1 then some (i, bits e 14 1 == 1, bits e 0 10) else none

def ceilDiv (a b : Nat) : Nat := (a + b - 1) / b

/-- Ranges that do not overlap one another. -/
def apart : List (Nat × Nat) → Bool
  | [] => true
  | r :: l => l.all (fun x => !rangeMeets r.1 r.2 x.1 x.2) && apart l

/-- The limits of R116 to R118 and R56, on the fields; TSET and MIRRSIZE need not go together (DESIGN CHOICE, log 103). -/
def Meta.ok (m : Meta) : Bool :=
  let g := m.groups
  let regs := ((m.n.zip m.regs).map fun (p : Nat × Nat) => p.1 * p.2 * 128).sum
  let acc := (m.tiles.map fun t => 32 * t.2.2 * (if t.2.1 then 8 else 4)).sum
  let size := m.scr * 16384
  let areas := (m.cpring, 64 + 32 * m.slots) :: (if m.mirSize = 0 then [] else [(m.mirOff, m.mirSize)]) ++ m.bars.map fun b => (b.1, 16)
  decide (1 ≤ g ∧ g ≤ 32) && (m.tset == 0 || decide (2 ≤ m.tset ∧ m.tset ≤ 8)) &&
    (m.n.zip m.regs).all (fun (p : Nat × Nat) => if p.1 = 0 then p.2 == 0 else p.2 % 8 == 0 && decide (96 ≤ p.2 ∧ p.2 ≤ 480)) &&
    decide (m.units ≤ 256) && decide (ceilDiv regs 16384 ≤ m.reg) && decide (ceilDiv acc 16384 ≤ m.acc) && decide (1 ≤ m.und) &&
    m.dim.foldl (· * ·) 1 == g && decide (m.escq ≤ 262144) && m.cpring % 64 == 0 &&
    decide (2 ≤ m.slots ∧ m.slots ≤ 256) && m.slots == 2 ^ Nat.log2 m.slots && m.mirOff % 64 == 0 &&
    m.bars.all (fun b => b.1 % 16 == 0) && areas.all (fun a => decide (a.1 + a.2 ≤ size)) && apart areas &&
    m.tiles.all fun t => t.2.2 % 16 == 0 && decide (16 ≤ t.2.2 ∧ t.2.2 ≤ 512)

/-- The rules of R125 on the bytes: magic, version, entry, reserved fields, limits. -/
def metaBytesOk (bs : List Byte) : Bool :=
  le bs 0 4 == 0x4154454D && le bs 4 2 == 1 && decide (le bs 6 2 < 4) && le bs 8 8 % 4 == 0 && le bs 26 2 == 0 && le bs 35 1 == 0 &&
    le bs 38 2 == 0 && le bs 60 4 == 0 && le bs 96 32 == 0 &&
    (List.range 16).all (fun i => let e := le bs (64 + 2 * i) 2; if bits e 15 1 = 1 then bits e 10 4 == 0 else e == 0) &&
    (List.range (le bs 46 2)).all (fun i => le bs (134 + 16 * i) 2 == 0 && le bs (140 + 16 * i) 4 == 0) && (metaOfBytes bs).ok

/-- Bytes of a virtual range that translates and lies on no protected page: those that the device knows, on a poisoned line or in host memory
too, since no rule names the dispatcher among the readers of either (DESIGN CHOICE, log 45). -/
def State.readVa (s : State) (root va n : Nat) : Option (List Byte) :=
  let piece := fun (p : Nat × Nat × Nat) => match s.translate root p.1 with
    | some (pg, pa) => if pg.prot then none else some (s.bytesNow pa p.2.2)
    | none => none
  ((pages va n).mapM piece).map List.flatten

/-- The metadata of a launch, read once; none where the launch fails with BADRECORD (R39, R125), which a META with a bit of 63:52 set does too,
being no virtual address (DESIGN CHOICE, log 38). -/
def State.readMeta (s : State) (l : Launch) : Option Meta :=
  match s.func? l.vf with
  | none => none
  | some f =>
    if !l.recOk ∨ l.meta_ % 128 ≠ 0 ∨ 2 ^ 52 ≤ l.meta_ then none
    else (s.readVa f.root l.meta_ 128).bind fun h => (s.readVa f.root l.meta_ (128 + 16 * le h 46 2)).bind fun bs =>
      if metaBytesOk bs then some (metaOfBytes bs) else none

/-! ### The dispatcher (R34, R38, R158) -/

def Launch.coop (l : Launch) : Bool := l.flags / 2 % 2 == 1 || (l.md.map (·.coop)).getD false

/-- The launch still has teams to place: new ones, or saved ones, which even a launch that has failed waits for (R41). -/
def State.pending (s : State) (l : Launch) : Bool :=
  (!l.status.ended && (decide (l.placed < l.teams) || !l.recOk)) || s.teams.any fun t => t.launch == l.id && t.saved

/-- The saved teams of a launch, in index order. -/
def State.savedTeams (s : State) (l : Launch) : List Team :=
  let ts := s.teams.filter fun t => t.launch == l.id && t.saved
  (sortNat (ts.map (·.idx))).filterMap fun i => findBy (fun t => t.idx == i) ts

/-- A launch's priority: its queue's PRIO, which a launch that has been placed keeps as it stood then (R157). -/
def State.prioOf (s : State) (l : Launch) : Nat :=
  if l.placed = 0 then ((s.queue? l.vf l.q).map (·.prio)).getD 0 else l.prio

/-- The launches at the heads of the partition's queues, in the order of R158. -/
def State.heads (s : State) (part : Nat) : List Launch :=
  let ls := s.launches.filter fun l => ((s.func? l.vf).map (·.part)) == some part && s.pending l
  let hs := ls.filter fun l => !ls.any fun k => k.vf == l.vf && k.q == l.q && decide (k.acc < l.acc)
  (List.range 8).reverse.flatMap fun pr => hs.filter fun l => s.prioOf l == pr

/-- The indices of the teams that the launch places in its next step: its whole grid, a team set, or one team; saved teams come first, and
those of one set together (R37, R38, R177). -/
def State.stepTeams (s : State) (l : Launch) (m : Meta) : List Nat :=
  match (s.savedTeams l).map (·.idx) with
  | [] =>
    if l.coop then (if l.placed = 0 then List.range l.teams else [])
    else if 2 ≤ m.tset then (List.range (min m.tset (l.teams - l.placed))).map (l.placed + ·)
    else [l.placed]
  | i :: r =>
    if l.coop then i :: r
    else if 2 ≤ m.tset then (i :: r).filter fun j => j / m.tset == i / m.tset
    else [i]

/-- The sets of a step: the cores on which teams of the set stand already, and the indices to place. -/
def State.stepSets (s : State) (l : Launch) (m : Meta) : List (List Nat × List Nat) :=
  let is := s.stepTeams l m
  let here := fun (k : Nat) => (s.teams.filter fun t => t.launch == l.id && !t.saved && t.idx / m.tset == k).map (·.core)
  (is.map (· / m.tset)).eraseDups.map fun k => (here k, is.filter fun i => i / m.tset == k)

/-- Cores for one set: all distinct, on one die, and each a mesh neighbour of another one of them (R37); a set of one team has no other. -/
def State.setOk (s : State) (cores : List Nat) : Bool :=
  let phys := fun (c : Nat) => ((s.core? c).map (·.phys)).getD 0
  let next := fun (c k : Nat) => Config.meshNeighbour (phys c) (phys k) || Config.meshNeighbour (phys k) (phys c)
  cores.eraseDups == cores && decide ((cores.map (· / Config.coresPerDie)).eraseDups.length ≤ 1) &&
    (decide (cores.length ≤ 1) || cores.all fun c => cores.any fun k => k != c && next c k)

/-- A team that restarts goes to another core than the one it lost its state on (R6). -/
def State.mayStand (s : State) (l : Launch) (i core : Nat) : Bool :=
  (s.savedTeams l).all fun t => t.idx != i || t.avoid.all fun a => some a != (s.core? core).map (·.phys)

/-- The choices of `n` from a list. -/
def choices : Nat → List Nat → List (List Nat)
  | 0, _ => [[]]
  | _ + 1, [] => []
  | n + 1, x :: l => (choices n l).map (x :: ·) ++ choices (n + 1) l

/-- Teams find places among some cores, one each. -/
def arrange (ok : Nat → Nat → Bool) : List Nat → List Nat → Bool
  | [], _ => true
  | i :: r, cs => cs.any fun c => ok i c && arrange ok r (cs.erase c)

/-- Sets find their cores, where so many more teams fit on each. -/
def State.fitSets (s : State) (l : Launch) : List (List Nat × List Nat) → List (Nat × Nat) → Bool
  | [], _ => true
  | (here, is) :: r, room => (List.range Config.dies).any fun d =>
    (choices is.length ((room.filter fun c => c.1 / Config.coresPerDie == d && c.2 != 0).map (·.1))).any fun cs =>
      s.setOk (here ++ cs) && arrange (s.mayStand l) is cs && s.fitSets l r (room.map fun c => if cs.contains c.1 then (c.1, c.2 - 1) else c)

/-- The launch's next step fits the partition's cores with this room. -/
def State.fits (s : State) (p : Part) (l : Launch) (m : Meta) (room : Nat → Nat) : Bool :=
  let is := s.stepTeams l m
  if m.tset < 2 then
    let total := (p.coreList.map room).sum
    decide (is.length ≤ total) && p.coreList.all fun c => decide ((is.filter fun i => !s.mayStand l i c).length ≤ total - room c)
  else s.fitSets l (s.stepSets l m) (p.coreList.map fun c => (c, room c))

/-- A core is reserved against a launch (R158): it is free, which is read as holding no team of the partition, those of its TS siblings apart
(DESIGN CHOICE, log 113), and a cooperative launch of the same or a higher priority, whose grid does not
fit the partition's free cores, waits; of two such launches the one that the dispatcher serves first holds the reservation. -/
def State.reserved (s : State) (p : Part) (l : Launch) (core : Nat) : Bool :=
  let hs := s.heads p.id
  let first := fun (b : Launch) => l.coop && (hs.takeWhile fun h => h.id != b.id).any fun h => h.id == l.id
  (s.resident core).all (fun t => s.teamPart t != p.id) && hs.any fun b => b.id != l.id && b.coop && decide (s.prioOf l ≤ s.prioOf b) && !first b &&
    b.md.any fun m => !s.fits p b m (s.room p m)

/-- The room on a core that a launch may use. -/
def State.roomFor (s : State) (p : Part) (l : Launch) (m : Meta) (core : Nat) : Nat := if s.reserved p l core then 0 else s.room p m core

/-- Cores that may take a step of the launch, team by team in index order, with the sets of R37 (R36, R37). -/
def State.coresOk (s : State) (p : Part) (l : Launch) (m : Meta) (cores : List Nat) : Bool :=
  let at_ := (s.stepTeams l m).zip cores
  cores.length == (s.stepTeams l m).length && cores.all (fun k => decide (cores.count k ≤ s.roomFor p l m k)) &&
    at_.all (fun x => s.mayStand l x.1 x.2) &&
    (decide (m.tset < 2) || (s.stepSets l m).all fun k => s.setOk (k.1 ++ (at_.filter fun x => k.2.contains x.1).map (·.2)))

/-- The launch can place its next team now: its step fits, it lies within the reorder window unless the launch is cooperative (R40), and
no team of a cooperative launch has still to leave its core. -/
def State.canPlace (s : State) (p : Part) (l : Launch) : Bool :=
  match l.md with
  | none => true
  | some m =>
    s.fits p l m (s.roomFor p l m) &&
      if l.coop then !s.teams.any fun t => t.launch == l.id && t.leave
      else (s.stepTeams l m).all fun i => decide (i < l.retired + 256)

/-- A grid or a team that the partition can never hold, on all its cores empty (R38, R39, R42). -/
def State.tooLarge (s : State) (p : Part) (l : Launch) (m : Meta) : Bool :=
  let empty := fun (n : Nat) => p.coreList.map fun c => (c, n)
  if l.coop then
    decide (p.coreList.length * p.capacity m < l.teams) || (decide (2 ≤ m.tset) && !s.fitSets l (s.stepSets l m) (empty (p.capacity m)))
  else decide (p.share < m.units) || (decide (2 ≤ m.tset) && !s.fitSets l [([], s.stepTeams l m)] (empty 1))

/-! ### A team at its start (R118, R126) -/

def roleOf (m : Meta) (g : Nat) : Role :=
  if g < m.n.getD 0 0 then .copy else if g < m.n.getD 0 0 + m.n.getD 1 0 then .matrix else .vector

def startGroup (l : Launch) (m : Meta) (i g : Nat) : Group :=
  let role := roleOf m g
  { emptyGroup role true m.entry with
    alloc := m.regs.getD role.toNat 0
    s := putAll [] [(0, BitVec.ofNat 32 l.args), (1, BitVec.ofNat 32 (l.args / 2 ^ 32)), (2, BitVec.ofNat 32 l.arglen)]
    rng := seedsOf m.seed (i * m.groups + g) }

/-- The scratchpad at the start: barrier objects and the ring header; the rest is zero. -/
def startScr (m : Meta) : Store 8 :=
  let scr := m.bars.foldl (fun scr b => writeBytes scr b.1 (barBytes ⟨b.2.1, 0, b.2.2, 0, 0, false⟩)) []
  writeBytes scr m.cpring (leBytes 4 (m.cpring + 64) ++ leBytes 4 m.slots)

def startData (l : Launch) (m : Meta) (i : Nat) : TeamData where
  groups := (List.range m.groups).map (startGroup l m i)
  budgets := m.regs
  quota := none
  scr := startScr m
  tiles := m.tiles.map fun t => (t.1, [])
  loops := []
  seals := []

/-- A team as it starts (R118, R126); every entry of the barrier table is registered, however many there are (DESIGN CHOICE, log 103). -/
def startTeam (id core stamp ver : Nat) (l : Launch) (m : Meta) (i : Nat) : Team :=
  let d := startData l m i
  { id := id, launch := l.id, idx := i, core := core, stamp := stamp, saved := false, ready := false, gen := 0, phasen := 0, live := d,
    ckpt := d, dur := d, durPhase := 0, pb := [], rsts := [], drain := [], pub := none, sent := [], snap := [], snapMark := ver, undo := [],
    undoAfter := false, bars := ((m.bars.map fun b => b.1).eraseDups).map fun a => ⟨a, false⟩, binds := [], sealKept := [], torn := [], rb := false,
    leave := false, ending := .no, durDies := l.copies, durChans := l.copyChans }

/-- The stamp of a team on its core: the core's placement counter (R159). -/
def TeamData.stamp (d : TeamData) (n : Nat) : TeamData :=
  { d with groups := d.groups.map fun g => { g with frags := g.frags.map fun f => { f with age := n } } }

def Team.stampAt (t : Team) (core n : Nat) : Team :=
  { t with core := core, stamp := n, saved := false, avoid := none, live := t.live.stamp n, ckpt := t.ckpt.stamp n, dur := t.dur.stamp n }

/-- The cost of the escorted requests that a team's checkpoint keeps (R191). -/
def Team.keptCost (t : Team) : Nat := ((t.live.groups.flatMap (·.escs)).map (·.cost)).sum

/-! ### Rollback (R142, R191, R243, R262) -/

/-- The team has nothing under way that a rollback waits for: operations of earlier phases (R141), a ring entry posted in one that the engine
has yet to take among them, and an instruction whose boundary is still to be taken (R138). -/
def State.mayRollback (s : State) (t : Team) : Bool :=
  let phase := t.phasen
  let op := fun (o : Op) => !o.fin && (decide (o.phase < phase) || match o.kind with
    | .land l => l.boundary
    | .remote _ _ a => a.isSome
    | .seala .. | .stored => true
    | _ => false)
  t.live.groups.all (fun g =>
      !g.ops.any op && g.escs.all (fun e => e.faulted || (decide (phase ≤ e.phase) && e.atom.isNone)) &&
      g.frags.all fun f => f.stage == 0 && match f.wait with
        | .lnch .. => false
        | _ => true) &&
    (s.untaken t).all (fun p => decide (phase ≤ p)) &&
    !s.copies.any (fun c => c.team == t.id && decide (c.phase < phase)) && !s.gaths.any (fun c => c.team == t.id && decide (c.phase < phase)) &&
    !s.colls.any (fun c => c.team == t.id && decide (c.phase < phase)) && !s.rses.any fun c => c.team == t.id && decide (c.phase < phase) && c.stop.isNone

/-- A faulted request of an earlier phase stands with the checkpoint (R191). -/
def keptEscs (phase : Nat) (g : Group) : List Escort := g.escs.filter fun e => e.faulted && decide (e.phase < phase)

/-- The traps that stand with the checkpoint, in issue order (R188): one for each of those requests, though its handler ran when the
rollback came, and the remote failures of earlier phases. -/
def keptPend (phase : Nat) (g : Group) : List Pending :=
  let remote := g.pend.filter fun p => match p with
    | .remote _ k .. => decide (k < phase)
    | .esc .. => false
  (((keptEscs phase g).map fun e => Pending.esc e.op e.handle e.slices).foldl Group.hold { g with pend := remote }).pend

/-- A parked BARWAIT without the outcome of its last test. -/
def FragWait.untested : FragWait → FragWait
  | .bar b k d l _ => .bar b k d l none
  | w => w

/-- A group at its checkpoint, with what the checkpoint keeps of the present (R142, R191). -/
def Group.rolled (phase : Nat) (waits : Bool) (now old : Group) : Group :=
  let kept := keptEscs phase now
  { old with
    latch := none
    sb := kept.flatMap (·.dst)
    ops := []
    escs := kept
    escu := (kept.map (·.cost)).sum
    pend := keptPend phase now
    handler := none
    frags := old.frags.map fun f => { f with starve := 0, stage := 0, wait := if f.wait = .pub ∧ !waits then .run else f.wait.untested } }

/-- Scratchpad ranges that a rollback leaves as they are: barrier objects (R150) and the mirror region (R59). -/
def State.keptRanges (s : State) (t : Team) : List (Nat × Nat) :=
  t.bars.map (fun b => (b.addr, 16)) ++ if 2 ≤ s.metaOf t (·.tset) then [(s.metaOf t (·.mirOff), s.metaOf t (·.mirSize))] else []

/-- The scratchpad of a checkpoint with some ranges of the present. -/
def mergeScr (keep : List (Nat × Nat)) (now old : Store 8) : Store 8 :=
  let inKeep := fun a => keep.any fun r => decide (r.1 ≤ a ∧ a < r.1 + r.2)
  putAll (old.filter fun c => !inKeep c.1) (now.filter fun c => inKeep c.1)

def TeamData.rolled (phase : Nat) (waits : Bool) (keep : List (Nat × Nat)) (now old : TeamData) : TeamData :=
  { old with
    groups := (now.groups.zip old.groups).map fun p => p.1.rolled phase waits p.2
    scr := mergeScr keep now.scr old.scr }

/-- The team at its checkpoint; a fragment whose restart point is a BARWAIT tests its barrier anew (R150, R332). What the team wrote under ring
entries that still stand before NOTIFY stays unspecified (R141), and what its publishes have handed over stays so. -/
def State.rolledTeam (s : State) (t : Team) : Team :=
  let d := TeamData.rolled t.phasen t.pub.isSome (s.keptRanges t) t.live t.ckpt
  let r := t.bars.foldl (fun (t : Team) b => t.retest b.addr) { t with live := d }
  let ps := s.posted { t with live := d }
  { r with
    ckpt := d, gen := t.gen + 1, pb := [], rsts := [], undo := [], undoAfter := false, rb := false
    torn := t.torn.filter fun x => ps.any fun p => decide (p.1 ≤ x ∧ x < p.1 + p.2)
    ntLines := t.ntLines.filter fun x => decide (x.1 < t.phasen) }

/-- The Escort Landing Buffer at a rollback: records of the phase leave it; requests in flight leave it when their replies come. -/
def State.rollEscorts (s : State) (t : Team) : State :=
  let es := if t.saved then [] else (t.live.groups.flatMap (·.escs)).filter fun e => decide (t.phasen ≤ e.phase)
  s.modCore t.core fun k =>
    { k with
      elb := k.elb + ((es.filter (·.faulted)).map (·.cost)).sum
      late := k.late ++ (es.filter (!·.faulted)).map fun e => (e.op, e.cost) }

/-- A cancelled COLL uses up its instance, reports CANCELLED and breaks its barrier; DST may hold any bytes of it (R262). -/
def State.cancelColl (s : State) (c : CollCmd) : State :=
  let g := collGroup c.ctl.toNat
  let k := (((s.launch? c.launch).bind fun l => findBy (fun x : Nat × Nat => x.1 == g) l.instances).map Prod.snd).getD 0
  let inst := if c.served then c.inst else k % 2 ^ 32
  let s := match s.team? c.team with
    | some t => if c.served && c.code == 0 then s.collSpoil c t else s
    | none => s
  let s := if c.served then s else s.modLaunch c.launch fun l => { l with instances := (g, k + 1) :: l.instances.filter fun x => x.1 != g }
  let s := s.modTeam c.team fun t => (t.onScr fun m => writeBytes m c.stat (leBytes 4 0x1A ++ leBytes 4 inst)).withdraw c.bar.toNat 0
  (s.dropPulls c.id).dropColl c.id

/-- The commands of the rolled-back phase are cancelled (R70, R262). An RSHARD that runs stops as on a fault: its record is written, and its
credits are withdrawn, once no chunk is in flight (R266, R276). -/
def State.cancelCmds (s : State) (t : Team) : State :=
  let mine := fun (team phase : Nat) => team == t.id && decide (t.phasen ≤ phase)
  let s := { s with copies := s.copies.filter fun c => !mine c.team c.phase }
  let gs := s.gaths.filter fun c => mine c.team c.phase
  let s := gs.foldl (fun s c => s.modTeam t.id fun t => t.withdraw c.ctl.toNat c.credited) s
  let s := { s with gaths := s.gaths.filter fun c => !mine c.team c.phase }
  let idle := s.rses.filter fun c => mine c.team c.phase && !c.running
  let s := idle.foldl (fun s c => s.modTeam t.id fun t => t.withdraw c.bar.toNat 0) s
  let stopped := fun (c : RseCmd) => { c with stop := some (0x1A, 0xFFFF) }
  let s := { s with
    rses := modBy (fun c => mine c.team c.phase) stopped (s.rses.filter fun c => !mine c.team c.phase || c.running) }
  (s.colls.filter fun c => mine c.team c.phase).foldl State.cancelColl s

/-- A rollback of a team (R142). -/
def State.rollTeam (s : State) (t : Team) : State :=
  ((s.rollEscorts t).modTeam t.id fun _ => s.rolledTeam t).cancelCmds t |>.setReady

/-- A team is to leave its core, after a rollback (R172, R173). -/
def State.askLeave (s : State) (team : Nat) : State :=
  s.modTeam team fun t => if t.saved ∨ t.ending ≠ .no then t else { t with rb := true, leave := true }

/-! ### A restart from a durable checkpoint (R5, R6) -/

/-- The operations that a loss cut short, of the phases before the durable checkpoint: what they were to write is no value the spec gives. -/
def State.fillCut (s : State) (phase : Nat) (now old : Group) : Group × State :=
  let ops := now.ops.filter fun o => !o.fin && decide (o.phase < phase)
  let regs := ops.flatMap fun o => match o.kind with
    | .load l => l.dst
    | .land l => l.dst
    | .remote l _ _ => l.dst
    | _ => []
  let cells := regs.flatMap fun r => (List.range 32).map fun l => (r, l)
  let r := cells.zipIdx.foldl (fun (g : Group) p => g.setId p.1.1 p.1.2 (BitVec.ofNat 32 (Config.freeChoice (s.freeCtr + p.2)))) old
  (r, { s with freeCtr := s.freeCtr + cells.length })

/-- One team of a durable launch goes back to its latest durable checkpoint and waits for another core (R6). What its drain owned takes
effect, but for lines of host memory behind a channel that is down, which are dropped with the team's other requests and commands; the
barrier registry and the ARMW bindings stay as they are, on a restart from the start too (DESIGN CHOICE, log 80). -/
def State.restartTeam (s : State) (tid : Nat) : State :=
  let s := s.drainAll tid
  match s.team? tid with
  | none => s
  | some t =>
    let s := (s.rollEscorts { t with phasen := 0 }).cancelCmds { t with phasen := 0 }
    let s := { s with rreqs := s.rreqs.filter fun r => !(r.team == tid && (r.held || r.msg.kind == .pull)) }
    let r := mapAcc (fun (s : State) (p : Group × Group) => s.fillCut t.durPhase p.1 p.2) s (t.live.groups.zip t.dur.groups)
    let d : TeamData :=
      { t.dur with groups := (t.live.groups.zip r.1).map fun p => p.1.rolled t.durPhase false p.2 }
    r.2.modTeam tid fun t => { t with
      live := d, ckpt := d, gen := t.gen + 1, phasen := t.durPhase, pb := [], rsts := [], drain := [], pub := none,
      snap := [], snapMark := r.2.ver, undo := [], undoAfter := false, sealKept := [], torn := [], rb := false, leave := false, saved := true,
      ready := false, ending := .no, rstOut := [], ntLines := [], area := none, lost := false, avoid := if t.saved then t.avoid else (s.core? t.core).map (·.phys) }

/-- Some teams of a durable launch restart; a cooperative launch parks its others until they are placed (R6). -/
def State.restartSome (s : State) (l : Nat) (mine : List Nat) : State :=
  let s := mine.foldl State.restartTeam s
  if (s.launch? l).any Launch.coop then
    let rest := s.teams.filter fun t => t.launch == l && !t.saved
    (rest.foldl (fun s t => s.askLeave t.id) s).modLaunch l fun k => if k.status.ended then k else { k with status := .parked }
  else s

/-! ### Rollbacks, leaving and coming back -/

/-- ROLLBACK: once it was asked for and nothing is under way that it waits for. A boundary that the Undo Log still owes comes first
(R140). A team of a durable launch whose checkpoint is lost restarts from its durable one instead (R5, R171). -/
def execRollback (team : Nat) (s : State) : Host.Outcome State Fault Refusal :=
  match s.team? team with
  | none => .next s
  | some t =>
    if t.lost then .next (s.restartSome t.launch [team])
    else if !t.rb ∨ t.ending ≠ .no then .next s
    else if t.undoAfter then .next (if t.pub.isSome then s else s.boundary team .device false false none)
    else if s.mayRollback t then .next (s.rollTeam t) else .next s

/-- The teams that must leave their cores, with whole cooperative launches, which are parked. -/
def State.evacuate (s : State) (gone : List Team) : State :=
  let coops := ((gone.filterMap s.launchOf).filter Launch.coop).map (·.id)
  let s := gone.foldl (fun s t => s.askLeave t.id) s
  coops.eraseDups.foldl (fun s l =>
    let s := ((s.teams.filter fun t => t.launch == l).map (·.id)).foldl State.askLeave s
    s.modLaunch l fun l => if l.status.ended then l else { l with status := .parked }) s

/-- CONTEXT_SWITCH: the team leaves, and with it every team of a cooperative launch, which never runs partly resident (R38; log 72). -/
def execContextSwitch (team : Nat) (s : State) : Host.Outcome State Fault Refusal :=
  .next (match s.team? team with
    | none => s
    | some t => if t.saved ∨ t.ending ≠ .no then s else s.evacuate [t])

/-- The checkpoint's bytes in the partition's context save area, encrypted by 64-byte units where the partition is confidential (R173, R285;
log 108). -/
def Part.saveBytes (p : Part) (t : Team) : Nat × List Byte :=
  let x := Config.saveImage t.id t.gen t.ckpt
  let pa := p.csave + x.1
  match p.ctxKey with
  | none => (pa, x.2)
  | some k =>
    (pa, (List.range ((x.2.length + 63) / 64)).flatMap fun i =>
      fit 64 (Config.xts (256 + p.id) k (pa / 64 + i) true (fit 64 (x.2.drop (64 * i)))))

/-- The team's checkpoint is written to the save area, where it is read again when the team is placed (`State.restore`). -/
def State.saveArea (s : State) (t : Team) : State :=
  match s.partOf t with
  | none => s
  | some p =>
    let x := p.saveBytes t
    ((s.write 0 (cells x.1 x.2)).modPart p.id fun p => { p with saves := p.saves ++ [(x.1, x.2.length)] }).modTeam t.id fun t => { t with area := some x }

/-- TEAM_SAVE: rolled back, and with no line left in the drain under either tag, the team leaves its core with its checkpoint (R143,
R173). -/
def execTeamSave (team : Nat) (s : State) : Host.Outcome State Fault Refusal :=
  match s.team? team with
  | none => .next s
  | some t =>
    if !t.leave ∨ t.rb ∨ t.drain ≠ [] ∨ t.rstOut ≠ [] then .next s
    else .next (((s.saveArea t).modTeam team fun t => { t with saved := true, leave := false, ready := false }).modCore t.core fun k =>
      { k with elb := k.elb + t.keptCost })

/-- What a team that is placed again reads in the context save area (R173): its checkpoint; where other bytes have taken its place, what a core
makes of them, a free value (log 108); where a line is poisoned, nothing: the checkpoint is lost (R171). -/
def State.restore (s : State) (t : Team) : State :=
  match t.area with
  | none => s
  | some (pa, bs) =>
    if s.poisoned pa bs.length then
      if s.durable t.launch then s.restartTeam t.id
      else (s.modTeam t.id fun t => { t with live := { t.live with seals := [] } }).launchFault t.id tMchk
    else
      let now := s.bytesNow pa bs.length
      s.modTeam t.id fun t =>
        if now = bs then { t with area := none }
        else { t with live := Config.loadImage now, ckpt := Config.loadImage now, area := none }

/-- The next team of the launch goes to a core: a new one, or one that is restored from its checkpoint (R173). -/
def State.placeOne (s : State) (launch core : Nat) : State :=
  match s.launch? launch with
  | none => s
  | some l =>
    match l.md with
    | none => s
    | some m =>
      let n := ((s.core? core).map (·.placed)).getD 0
      let s := s.modCore core fun k => { k with placed := k.placed + 1 }
      match s.savedTeams l with
      | t :: _ =>
        let s := s.restore t
        match s.team? t.id with
        | none => s
        | some t => (s.modTeam t.id fun t => t.stampAt core n).modCore core fun k => { k with elb := k.elb - t.keptCost }
      | [] =>
        if l.status.ended then s else
        let t := (startTeam (s.uid + 1) core n s.ver l m l.placed).stampAt core n
        { (s.modLaunch launch fun l => { l with placed := l.placed + 1, prio := s.prioOf l }) with teams := s.teams ++ [t], uid := s.uid + 2 }

/-- TEAM_PLACEMENT: the dispatcher serves a launch at the head of its queue, once no launch ahead of it can place a team; it reads the
metadata when the launch first comes up (R125), and places the next step's teams on cores of its choice (R36, R37, R38). -/
def execTeamPlacement (launch : Nat) (cores : List Nat) (s : State) : Host.Outcome State Fault Refusal :=
  match (s.launch? launch).bind fun l => (s.func? l.vf).bind fun f => (s.part? f.part).map fun p => (l, p) with
  | none => .next s
  | some (l, p) =>
    let hs := s.heads p.id
    if !hs.any (fun h => h.id == launch) ∨ (hs.takeWhile fun h => h.id != launch).any (s.canPlace p) then .next s
    else
      match (match l.md with
        | some m => some m
        | none => s.readMeta l) with
      | none => .next (s.failLaunch launch 7)
      | some m =>
        let l := { l with md := some m, status := if l.status = .accepted then .placing else l.status }
        let s := s.modLaunch launch fun _ => l
        if l.placed = 0 ∧ s.tooLarge p l m then .next (s.failLaunch launch 4)
        else if s.coresOk p l m cores ∧ s.canPlace p l then
          let s := cores.foldl (fun s k => s.placeOne launch k) s
          .next (s.modLaunch launch fun l => if l.status.ended then l else { l with status := .placing }).setReady
        else .next s

/-- PARKTO_EXPIRY: a parked cooperative launch with a timeout is evicted (R38, R177). Its running teams are killed; one whose groups have all
ended goes on to retire (R41, R370). -/
def execParktoExpiry (launch : Nat) (s : State) : Host.Outcome State Fault Refusal :=
  match s.launch? launch with
  | none => .next s
  | some l =>
    if l.status ≠ .parked ∨ l.parkto = 0 then .next s
    else .next ((s.failLaunch launch 3).killLaunch launch)

/-! ### Time slices and throttling (R175, R176) -/

/-- The teams of a partition and of those below it. -/
def State.teamsBelow (s : State) (part : Nat) : List Team := s.teams.filter fun t => s.isBelow part (s.teamPart t)

/-- The slice of a time-shared partition begins. -/
def State.sliceOn (s : State) (part : Nat) : State := (s.modPart part fun p => { p with slice := .on }).setReady

/-- The end of a slice, once every outgoing team has been rolled back and the drains hold no line of them (R143): the next sibling in
ascending PARTID takes its turn. -/
def State.handOn (s : State) (p : Part) : State :=
  if (s.teamsBelow p.id).any (fun t => !t.saved && (t.rb || t.drain != [] || t.rstOut != [])) then s
  else
    let s := s.modPart p.id fun p => { p with slice := .off }
    match (sortNat ((s.parts.filter fun q => siblings p q && decide (p.id < q.id)).map (·.id))).head? with
    | none => s.setReady
    | some q => s.sliceOn q

/-- SLICE_END (R175): the outgoing teams are to be rolled back; when they have been, the event hands on. -/
def execSliceEnd (part : Nat) (s : State) : Host.Outcome State Fault Refusal :=
  match s.part? part with
  | none => .next s
  | some p =>
    match p.slice with
    | .off => .next s
    | .leaving => .next (s.handOn p)
    | .on =>
      if !p.ts then .next s
      else
        let s := s.modPart part fun p => { p with slice := .leaving }
        let ids := ((s.teamsBelow part).filter fun t => !t.saved && t.ending == .no).map (·.id)
        .next ((ids.foldl (fun s i => s.modTeam i fun t => { t with rb := true }) s).handOn { p with slice := .leaving })

/-- TIME_SLICE_START (R175): a period begins, when no sibling is in its turn, with the turn of the lowest PARTID. -/
def execTimeSliceStart (part : Nat) (s : State) : Host.Outcome State Fault Refusal :=
  match s.part? part with
  | none => .next s
  | some p => .next (if p.ts && p.slice == .off && !s.parts.any (fun q => siblings p q && (q.slice != .off || decide (q.id < p.id))) then s.sliceOn part else s)

/-- THROTTLE_REPORT (R176). The step rises where the queue is more than half full and the partition's share of it exceeds BWMIN, and falls
otherwise. -/
def execThrottleReport (part : Nat) (q : QueueReading) (s : State) : Host.Outcome State Fault Refusal :=
  .next (s.modPart part fun p =>
    let rest := p.busy.filter (· != q.ctrl)
    { p with
      step := if q.depth < 2 * q.total ∧ p.bwmin * q.total < 4096 * q.share then min 5 (p.step + 1) else p.step - 1
      busy := if q.depth ≤ 2 * q.total then rest ++ [q.ctrl] else rest })

/-! ### The end of groups and teams (R40, R41, R188, R370) -/

/-- GROUP_END: every lane has retired, nothing is outstanding, and no trap is pending; one that is pending ends the team (R188). -/
def execGroupEnd (team group : Nat) (s : State) : Host.Outcome State Fault Refusal :=
  match (s.team? team).bind fun t => t.group? group with
  | none => .next s
  | some g =>
    if g.ended ∨ g.live ≠ 0 ∨ g.frags ≠ [] then .next s
    else match g.pend with
      | .esc .. :: _ => .next (s.launchFault team tEscfault)
      | .remote .. :: _ => .next (s.launchFault team tRemote)
      | [] =>
        if g.ops ≠ [] ∨ g.escs ≠ [] then .next s
        else .next (s.modTeam team fun t => t.modGroup group fun g => { g with ended := true })

/-- The last steps of R370: contexts close, and the team goes into the reorder window. -/
def State.finishTeam (s : State) (t : Team) : State :=
  let s := s.closeSeals t.id
  let s := { s with teams := s.teams.filter fun x => x.id != t.id, copies := s.copies.filter fun c => c.team != t.id }
  s.modLaunch t.launch fun l => { l with ended := l.ended ++ [t.idx] }

/-- TEAM_END: every group has ended; the team publishes, waits for that, and ends (R370). A remote store that fails meanwhile ends it
by a fault. -/
def execTeamEnd (team : Nat) (s : State) : Host.Outcome State Fault Refusal :=
  match s.team? team with
  | none => .next s
  | some t =>
    if t.running ∨ t.pub.isSome then .next s
    else if t.live.groups.any fun g => g.pend ≠ [] then .next (s.launchFault team tRemote)
    else
      let done := fun (s : State) => match s.team? team with
        | some t => if t.pub.isNone ∧ t.drain = [] ∧ t.rstOut = [] ∧ !t.lost ∧ !s.rses.any (fun c => c.team == team) then s.finishTeam t else s
        | none => s
      if t.ending = .no then
        let s := s.modTeam team fun t => { t with ending := .publishing, rb := false, leave := false }
        .next (done (s.publishOnly team (if t.rsts = [] then .device else .domain) none))
      else .next (done s)

/-- TEAM_RETIRE: the next team retires in index order, or the launch, all of whose teams have, is reported in its turn (R40, R41). -/
def execTeamRetire (launch : Nat) (s : State) : Host.Outcome State Fault Refusal :=
  match s.launch? launch with
  | none => .next s
  | some l =>
    match s.nextRetired l with
    | some i => .next (s.retireTeam l i)
    | none => .next (if s.complete l ∧ s.inTurn l then s.reportLaunch l else s)

end Sys2Proof.Machine
end

