-- ==== Sys2Proof/Machine/Part.lean ====
section
/-!
DEFINITION. System software's writes: queue configuration (R157, R214), partition descriptors (R174, R177), and the management
registers (R60, R61, R251, R258, R281, R282, R286, R294).
-/
namespace Sys2Proof.Machine

/-! ### Functions and frozen registers (R281, R282) -/

/-- A root pointer that reaches no table: no entry stands past the 48-bit physical addresses. A function's context before system
software sets it, and after R284. -/
def noRoot : Nat := 2 ^ 48

/-- A virtual function that nothing has configured. -/
def Func.reset (vf : Nat) : Func where
  vf := vf
  part := 64
  ifst := .unlocked
  session := false
  chanErr := false
  rxCtr := 0
  txCtr := 0
  root := noRoot
  privBase := 0
  privStride := 0
  privLimit := 0
  xwbase := 0
  xwsize := 0
  xwkey := 0
  policy := 0
  token := 0
  credits := 0
  held := []
  out := []
  queues := []
  report := none

/-- A function's record, made when it is first addressed. -/
def State.withFunc (s : State) (vf : Nat) : State :=
  if 256 ≤ vf ∨ (s.func? vf).isSome then s else { s with funcs := s.funcs ++ [Func.reset vf] }

/-- Locked or running: the registers of R282 are frozen. -/
def Func.frozen (f : Func) : Bool := f.ifst == .locked || f.ifst == .run

/-- A write to a register that the functions `sel` freeze: it has no effect and they enter ERROR; a function in ERROR refuses it. -/
def State.guarded (s : State) (sel : Func → Bool) (w : State → State) : State :=
  let fs := s.funcs.filter fun f => sel f && f.frozen
  if fs ≠ [] then (fs.map (·.vf)).foldl (fun s vf => s.enterError vf) s
  else if s.funcs.any fun f => sel f && f.ifst == .error then s
  else w s

/-- A write to a register that never freezes: a function in ERROR refuses it (R281). -/
def State.openWrite (s : State) (vf : Nat) (w : Func → Func) : State :=
  (s.withFunc vf).modFunc vf fun f => if f.ifst = .error then f else w f

/-- A write to a register of one function. -/
def State.funcWrite (s : State) (vf : Nat) (w : Func → Func) : State :=
  (s.withFunc vf).guarded (fun f => f.vf == vf) fun s => s.modFunc vf w

/-- A queue's registers, made when they are first written. -/
def Func.modQueue (f : Func) (q : Nat) (w : Queue → Queue) : Func :=
  let f := if f.queues.any (fun k => k.q == q) then f else { f with queues := f.queues ++ [⟨q, false, 0, 0, none⟩] }
  { f with queues := modBy (fun k => k.q == q) w f.queues }

/-- QCFG_WRITE (R157). -/
def execQcfgWrite (vf q : Nat) (value : Word) (s : State) : Host.Outcome State Fault Refusal :=
  if 64 ≤ q then .next s
  else .next (s.funcWrite vf fun f => f.modQueue q fun k => { k with en := value.getLsbD 31, prio := bits value.toNat 0 3 })

/-! ### Partition descriptors (R174) -/

/-- A descriptor's fields; what is not of the descriptor starts anew. -/
def partOfBytes (bs : List Byte) : Part where
  id := le bs 0 2
  parent := le bs 2 2
  level := le bs 4 1
  rank := le bs 5 1
  ts := le bs 6 2 % 2 == 1
  prot := le bs 6 2 / 2 % 2 == 1
  tenant := le bs 6 2 / 4 % 2 == 1
  cores := BitVec.ofNat 192 (le bs 8 24)
  bwmin := le bs 32 4
  tperiod := le bs 36 4
  tbudget := le bs 40 4
  poolsh := le bs 44 2
  csave := le bs 48 8
  dgtbase := 0
  sealout := 0
  sealCount := 0
  step := 0
  slice := if le bs 6 2 % 2 = 1 then .off else .on

/-- The descriptor of a partition. -/
def Part.bytes (p : Part) : List Byte :=
  leBytes 2 p.id ++ leBytes 2 p.parent ++ leBytes 1 p.level ++ leBytes 1 p.rank ++
    leBytes 2 ((if p.ts then 1 else 0) + (if p.prot then 2 else 0) + (if p.tenant then 4 else 0)) ++ leBytes 24 p.cores.toNat ++
    leBytes 4 p.bwmin ++ leBytes 4 p.tperiod ++ leBytes 4 p.tbudget ++ leBytes 2 p.poolsh ++ leBytes 2 0 ++ leBytes 8 p.csave ++ leBytes 8 0

/-- The layout of one descriptor. -/
def descOk (bs : List Byte) : Bool :=
  let p := partOfBytes bs
  bs.length == 64 && decide (p.id < 64 ∧ p.level < 3 ∧ p.rank < 64 ∧ le bs 6 2 < 8 ∧ p.cores.toNat < 2 ^ 144) &&
    le bs 46 2 == 0 && le bs 56 8 == 0 && ((p.level == 0) == (p.parent == 0xFFFF)) &&
    (if p.ts then decide (1 ≤ p.level ∧ 1 ≤ p.tbudget ∧ p.tbudget ≤ p.tperiod) else p.tperiod == 0 && p.tbudget == 0)

/-- The conditions of R174 on all descriptors together. -/
def partsOk (ps : List Part) : Bool :=
  ps.all fun p =>
    (p.level == 0 || ps.any fun q => q.id == p.parent && q.level + 1 == p.level && p.cores &&& ~~~q.cores == 0) &&
    decide (((ps.filter fun q => q.level != 0 && q.parent == p.id).map (·.bwmin)).sum ≤ p.bwmin) &&
    (!p.ts || (decide (((ps.filter fun q => siblings p q).map (·.poolsh)).sum ≤ 256) &&
      decide (((ps.filter fun q => siblings p q).map (·.tbudget)).sum ≤ p.tperiod))) &&
    ps.all fun q => q.id == p.id ||
      (q.rank != p.rank && (p.level != 0 || q.level != 0 || p.cores &&& q.cores == 0) &&
        (p.level == 0 || q.level != p.level || q.parent != p.parent || p.ts || q.ts || p.cores &&& q.cores == 0) &&
        (!siblings p q || (p.cores == q.cores && p.tperiod == q.tperiod)))

/-- The functions that freeze a partition's descriptor: its own, those below it, and those of its TS siblings (R282). -/
def State.freezesDesc (s : State) (id : Nat) (f : Func) : Bool :=
  s.isBelow id f.part || match s.part? id, s.part? f.part with
    | some p, some q => siblings p q
    | _, _ => false

/-! ### Shrinking (R177) -/

/-- A partition has lost cores: its teams on them leave. -/
def State.shrink (s : State) (id : Nat) : State :=
  match s.part? id with
  | none => s
  | some p => s.evacuate (s.teams.filter fun t => s.teamPart t == id && !t.saved && !p.cores.getLsbD t.core)

/-- A new descriptor takes the place of an old one, whose other registers stay. -/
def State.putPart (s : State) (p : Part) : State :=
  match s.part? p.id with
  | none => { s with parts := s.parts ++ [p] }
  | some q => s.modPart p.id fun _ =>
      { p with dgtbase := q.dgtbase, sealout := q.sealout, sealCount := q.sealCount, step := q.step, slice := if p.ts == q.ts then q.slice else p.slice,
               busy := q.busy, short := q.short, ctxKey := q.ctxKey, saves := q.saves }

/-- PARTITION_DESCRIPTOR_WRITE (R174, R177): one that breaks a condition is refused. -/
def execPartitionDescriptorWrite (bytes : List Byte) (s : State) : Host.Outcome State Fault Refusal :=
  let p := partOfBytes bytes
  .next (s.guarded (s.freezesDesc p.id) fun s =>
    if descOk bytes && partsOk (p :: s.parts.filter fun q => q.id != p.id) then ((s.putPart p).shrink p.id).setReady else s)

/-! ### The other registers -/

/-- A write to a register of a partition that its functions freeze (R282). -/
def State.partWrite (s : State) (id : Nat) (w : Part → Part) : State := s.guarded (fun f => f.part == id) fun s => s.modPart id w

def State.keySlot (s : State) (slot : Nat) : KeySlot := (findBy (fun k : KeySlot => k.slot == slot) s.keySlots).getD ⟨slot, false, 0, 0, 0, 0⟩

def State.modSlot (s : State) (slot : Nat) (w : KeySlot → KeySlot) : State :=
  { s with keySlots := (s.keySlots.filter fun k => k.slot != slot) ++ [w (s.keySlot slot)] }

/-- A physical range that system software names as host or CXL memory; CXL memory is at most 8 TiB (R1). -/
def State.setRegion (s : State) (base size : Nat) (k : RegionKind) : State :=
  let rs := (if size = 0 then [] else [(⟨base, size, k⟩ : Region)]) ++ s.regions.filter fun r => r.base != base || r.kind != k
  if Config.cxlBytes < ((rs.filter fun r => r.kind == .cxl).map (·.size)).sum then s else { s with regions := rs }

/-- MGMT_REGISTER_WRITE. What a private stride or base and a context root that are not aligned become is the model's choice (DESIGN
CHOICE, log 71). -/
def execMgmtRegisterWrite (reg : MgmtReg) (value : Nat) (s : State) : Host.Outcome State Fault Refusal :=
  match reg with
  | .fpthr vf q => .next (if 64 ≤ q then s else s.funcWrite vf fun f => f.modQueue q fun k => { k with fpthr := value % 2 ^ 32 })
  | .xwbase vf => .next (s.funcWrite vf fun f => { f with xwbase := value % 2 ^ 52 / 65536 * 65536 })
  | .xwsize vf => .next (s.funcWrite vf fun f => { f with xwsize := if value ≤ 2 ^ 40 then value / 65536 * 65536 else f.xwsize })
  | .xwkey vf => .next (s.funcWrite vf fun f => { f with xwkey := BitVec.ofNat 32 value })
  | .dgtbase p => .next (s.partWrite p fun p => { p with dgtbase := value % 2 ^ 48 })
  | .sealout p => .next (s.partWrite p fun p => { p with sealout := BitVec.ofNat 64 (value % 2 ^ 52) })
  | .ksbind slot =>
    let k := s.keySlot slot
    .next (if 256 ≤ slot then s else s.guarded (fun f => k.v && f.part == k.part) fun s =>
      s.modSlot slot fun k => { k with v := bits value 15 1 == 1, part := bits value 0 6 })
  | .root vf => .next (s.openWrite vf fun f => { f with root := value % 2 ^ 48 })
  | .privBase vf => .next (s.openWrite vf fun f => { f with privBase := value % 2 ^ 52 })
  | .privStride vf => .next (s.openWrite vf fun f => { f with privStride := value % 2 ^ 52 / 65536 * 65536 })
  | .privLimit vf => .next (s.openWrite vf fun f => { f with privLimit := value % 2 ^ 52 })
  | .funcPart vf =>
    let s := s.withFunc vf
    .next (s.modFunc vf fun f => if f.ifst = .unlocked ∧ value < 64 then { f with part := value } else f)
  | .hostRange base => .next (s.setRegion base value .host)
  | .cxlRange base => .next (s.setRegion base value .cxl)

end Sys2Proof.Machine
end

