-- ==== Sys2Proof/Machine/Hosts.lean ====
section
/-!
DEFINITION. The host's requests: device memory (R279), host-memory replies (R278), trap replies (R170), kills (R280), credits (R278),
the interface state machine and its report (R281 to R283), function-level reset (R284), and key exchange (R286, R288).
-/
namespace Sys2Proof.Machine

/-! ### Memory requests (R278, R279) -/

/-- Where a device-memory request goes: a physical address, or the code of its error reply. A page of host memory is not the partition's
memory. -/
def State.hostAccess (s : State) (f : Func) (va : Nat) : Except Nat Nat :=
  match s.translate f.root va with
  | none => .error tPage
  | some (pg, pa) => if pg.prot then .error tProt else if s.regionOf pa = some RegionKind.host then .error tPerm else .ok pa

/-- One request covers 1 byte to 4 KiB of one 64 KiB page. -/
def requestOk (va len : Nat) : Bool := decide (1 ≤ len ∧ len ≤ 4096 ∧ va % 65536 + len ≤ 65536)

/-- A device-memory request of a function: refused in ERROR, discarded where it keeps no limits of R279, or served. -/
def State.memRequest (s : State) (f : Func) (va len : Nat) (k : Nat → State) : State :=
  if f.ifst = .error then s.send f.vf .refused
  else if !requestOk va len then s
  else match s.hostAccess f va with
    | .error c => s.send f.vf (.readError c)
    | .ok pa => k pa

/-- DEVICE_MEMORY_WRITE: the bytes take effect at memory, whatever RO and INV say. -/
def execDeviceMemoryWrite (vf : Nat) (va : VAddr) (data wire : List Byte) (s : State) : Host.Outcome State Fault Refusal :=
  s.hostMsg vf 8 (Config.hostContent 8 [va.toNat, data.length] data) wire fun f s => s.memRequest f va.toNat data.length fun pa => s.physWrite vf [(pa, data)]

/-- DEVICE_MEMORY_READ_REQUEST: the bytes that have taken effect; a poisoned line answers with the code of MCHK. -/
def execDeviceMemoryReadRequest (vf : Nat) (va : VAddr) (len : Nat) (wire : List Byte) (s : State) : Host.Outcome State Fault Refusal :=
  s.hostMsg vf 9 (Config.hostContent 9 [va.toNat, len] []) wire fun f s => s.memRequest f va.toNat len fun pa =>
    s.send vf (if s.poisoned pa len then .readError tMchk else .readReply (s.bytesNow pa len))

/-- HOST_MEMORY_READ_REPLY: the device knows the bytes, and what waited for those lines goes on. -/
def execHostMemoryReadReply (vf pa : Nat) (data wire : List Byte) (s : State) : Host.Outcome State Fault Refusal :=
  s.hostMsg vf 7 (Config.hostContent 7 [pa] data) wire fun _ s =>
    let ws := (cells pa data).filter fun w => s.regionOf w.1 == some RegionKind.host && s.hostWait.any fun x => x.2 == lineOf w.1
    let s := s.learn ws
    { s with hostWait := s.hostWait.filter fun x => !decide (pa ≤ 64 * x.2 ∧ 64 * x.2 + 64 ≤ pa + data.length) }

/-! ### Trap replies and kills (R170, R280) -/

/-- A handler of the function that is parked under a token. -/
def State.parkedHandler (s : State) (vf token : Nat) : Option (Team × Nat × Group) :=
  ((s.teams.filter fun t => (s.funcOf t).any fun f => f.vf == vf).flatMap fun t => t.live.groups.zipIdx.filterMap fun g =>
    if (g.1.handler.bind (·.token)).any (fun k => k.toNat == token) then some (t, g.2, g.1) else none).head?

/-- The handler goes on: it will reissue and return. -/
def Group.answer (g : Group) : Group :=
  match g.handler with
  | none => g
  | some h =>
    { (g.modFrag h.slice fun f => if f.wait = .host then { f with wait := .run } else f) with
      handler := some { h with retry := true, token := none, todo := [.rft] } }

/-- TRAP_REPLY: RETRY resumes the handler, KILL faults the launch; a token of no parked handler is discarded. -/
def execTrapReply (vf token : Nat) (kill : Bool) (wire : List Byte) (s : State) : Host.Outcome State Fault Refusal :=
  s.hostMsg vf 4 (leBytes 4 token ++ leBytes 2 (if kill then 1 else 0) ++ leBytes 2 0) wire fun _ s => match s.parkedHandler vf token with
    | none => s
    | some (t, g, gr) =>
      if kill then s.launchFault t.id gr.trap.code
      else s.modTeam t.id fun t => t.modGroup g Group.answer

/-- KILL_REQUEST. -/
def execKillRequest (vf q seq : Nat) (wire : List Byte) (s : State) : Host.Outcome State Fault Refusal :=
  s.hostMsg vf 11 (Config.hostContent 11 [q, seq] []) wire fun _ s => match findBy (fun l : Launch => l.vf == vf && l.q == q && l.seq == seq) s.launches with
    | none => s
    | some l => (s.failLaunch l.id 5).killLaunch l.id

/-! ### Credits (R278) -/

/-- Held records go out in order while credits last. -/
def flushHeld (sealed : Bool) : List (List Byte) → Func → Func
  | [], f => { f with held := [] }
  | b :: r, f =>
    if f.credits = 0 then { f with held := b :: r } else flushHeld sealed r ({ f with credits := f.credits - 1 }.put sealed (.record b))

def State.flush (s : State) (vf : Nat) : State :=
  match s.func? vf with
  | none => s
  | some f => if s.channelUp f then s.modFunc vf fun f' => flushHeld (s.confidential f) f.held f' else s

/-- COMPLETION_CREDIT. -/
def execCompletionCredit (vf n : Nat) (s : State) : Host.Outcome State Fault Refusal :=
  .next ((s.modFunc vf fun f => { f with credits := f.credits + n }).flush vf)

/-! ### Physical ranges of a partition -/

/-- The pages that a table reaches: physical address and size. -/
def leaves (mem : Store 8) : List Level → Nat → List (Nat × Nat)
  | [], _ => []
  | lv :: rest, table => (List.range (2 ^ lv.n)).flatMap fun i => match entry lv (readNat mem (table + 8 * i) 8) with
    | none => []
    | some (.inl p) => [(p.pa, 2 ^ lv.lo)]
    | some (.inr t) => leaves mem rest t

/-- The device memory of a partition: what its functions' contexts map, host memory left out. -/
def State.partRanges (s : State) (part : Nat) : List (Nat × Nat) :=
  (((s.funcs.filter fun f => f.part == part).flatMap fun f => leaves s.mem levels f.root).eraseDups).filter fun r =>
    s.regionOf r.1 != some RegionKind.host

/-! ### The interface (R281 to R283) -/

/-- Engines and core sequencers have numbers: 0 to 143 the sequencers, 144 to 287 the Copy Engines, 288 to 431 the Gather Engines of the cores,
432 the Collective Engine and 433 the Re-Shard Engine of the device, 434 to 437 the Sealing Engines of the dies (R289, R353, R379, R435;
log 89). -/
def engineCount : Nat := 438

def State.image (s : State) (e : Nat) : Image := (findBy (fun i : Image => i.engine == e) s.images).getD ⟨e, 0, none, 0⟩

/-- The report, from the state at lock. -/
def State.reportOf (s : State) (f : Func) : Report where
  vf := f.vf
  part := f.part
  queues := f.queues.map fun k => (k.q, k.en, k.prio, k.fpthr)
  xw := (f.xwbase, f.xwsize, f.xwkey)
  descs := (s.parts.filter fun p => s.freezesDesc p.id f).map Part.bytes
  dgtbase := ((s.part? f.part).map (·.dgtbase)).getD 0
  sealout := ((s.part? f.part).map (·.sealout)).getD 0
  binds := (s.keySlots.filter fun k => k.v && k.part == f.part).map fun k => (k.slot, k.part)
  cores := (((s.part? f.part).map Part.coreList).getD []).map fun c => (c, ((s.core? c).map (·.phys)).getD 0)
  ranges := s.partRanges f.part
  slots := (s.keySlots.filter fun k => k.v && k.part == f.part).map fun k =>
    (k.slot, k.type, if k.type = 2 ∨ k.type = 3 then Config.publicKey k.slot k.gen else [])
  images := (List.range engineCount).map fun e => (e, Config.measurement e (s.image e).active)

/-- The report's numbers and byte strings, which its signature covers. -/
def Report.numbers (r : Report) : List Nat :=
  [r.vf, r.part, r.xw.1, r.xw.2.1, r.xw.2.2.toNat, r.dgtbase, r.sealout.toNat] ++
    (r.queues.flatMap fun q => [q.1, q.2.1.toNat, q.2.2.1, q.2.2.2]) ++ (r.binds ++ r.cores ++ r.ranges).flatMap (fun p => [p.1, p.2]) ++
    (r.slots.flatMap fun k => [k.1, k.2.1]) ++ r.images.map (·.1)

def Report.strings (r : Report) : List (List Byte) := r.descs ++ r.slots.map (·.2.2) ++ r.images.map (·.2)

def refuse (vf : Nat) (s : State) : State := s.send vf .refused

/-- The Root of Trust derives a confidential partition's context-save key at lock (R285). -/
def Part.deriveKey (k : Nat) (p : Part) : Part := if p.prot ∧ p.ctxKey.isNone then { p with ctxKey := some k } else p

/-- LOCK_INTERFACE: only with an SPDM session. -/
def execLockInterface (vf : Nat) (s : State) : Host.Outcome State Fault Refusal :=
  match s.func? vf with
  | none => .next s
  | some f =>
    if f.ifst = .unlocked ∧ f.session then
      .next ((s.modFunc vf fun f => { f with ifst := .locked, report := some (s.reportOf f) }).modPart f.part (Part.deriveKey f.keyings))
    else .next (refuse vf s)

/-- GET_DEVICE_INTERFACE_REPORT: the report, signed in the SPDM session (R283). -/
def execGetDeviceInterfaceReport (vf : Nat) (s : State) : Host.Outcome State Fault Refusal :=
  match (s.func? vf).bind fun f => if f.frozen then f.report else none with
  | some r => .next (s.send vf (.report r (Config.spdmSignature vf r.numbers r.strings)))
  | none => .next (refuse vf s)

/-- START_INTERFACE. -/
def execStartInterface (vf : Nat) (s : State) : Host.Outcome State Fault Refusal :=
  match s.func? vf with
  | none => .next s
  | some f => .next (if f.ifst = .locked then s.modFunc vf fun f => { f with ifst := .run } else refuse vf s)

/-! ### Function-level reset (R284) -/

/-- Step 4: ranges are scrubbed to zero. -/
def State.scrub (s : State) (rs : List (Nat × Nat)) : State :=
  let inside := fun a => rs.any fun r => decide (r.1 ≤ a ∧ a < r.1 + r.2)
  let ls := (s.poison ++ s.cache.map (·.1)).filter fun l => inside (64 * l)
  let s := s.write 0 ((s.mem.filter fun c => inside c.1).map fun c => (c.1, 0))
  ls.foldl (fun s l => s.setPoison l false) { s with cache := s.cache.filter fun c => !inside (64 * c.1) }

/-- Step 2 for a function: its bounce-channel keys are erased, and with them the counters and what they were to protect. -/
def Func.erase (f : Func) : Func := { f with chanKey := none, chanErr := false, rxCtr := 0, txCtr := 0, waiting := [] }

/-- Step 5; a function-level reset also clears what R3 and R170 name it for. -/
def Func.unlock (flr : Bool) (f : Func) : Func :=
  let f := { f with ifst := .unlocked, report := none }
  if flr then { f with token := 0, queues := f.queues.map fun k => { k with seq := none } } else f

/-- The steps of R284 for a function and the functions of the partitions below its own, each step complete before the next. -/
def State.resetFunctions (s : State) (flr : Bool) (vf : Nat) : State :=
  match s.func? vf with
  | none => s
  | some f =>
    let fs := (s.funcs.filter fun k => k.vf == vf || (k.part != f.part && s.isBelow f.part k.part && k.ifst != .unlocked)).map (·.vf)
    let ps := ((s.funcs.filter fun k => fs.contains k.vf).map (·.part)).eraseDups
    let stopped := fun (k : Func) => if fs.contains k.vf then { k with ifst := IfState.error } else k
    let erased := fun (k : KeySlot) => if k.v && ps.contains k.part then { k with type := 0 } else k
    let unkeyed := fun (k : Func) => if ps.contains k.part then k.erase else k
    let cut := fun (k : Func) => if ps.contains k.part then { k with root := noRoot } else k
    let bare := fun (p : Part) => if ps.contains p.id then { p with ctxKey := none, saves := [] } else p
    let done := fun (k : Func) => if fs.contains k.vf then k.unlock flr else k
    let s := ps.foldl (fun s p => s.stopPart p) { s with funcs := s.funcs.map stopped }
    let ranges := ps.flatMap s.partRanges ++ (s.parts.filter fun p => ps.contains p.id).flatMap (·.saves)
    let s := { s with keySlots := s.keySlots.map erased, funcs := s.funcs.map unkeyed, parts := s.parts.map bare }
    let s := State.scrub { s with funcs := s.funcs.map cut } ranges
    { s with funcs := s.funcs.map done }

/-- FUNCTION_LEVEL_RESET, of a function that is locked, runs or is in ERROR. -/
def execFunctionLevelReset (vf : Nat) (s : State) : Host.Outcome State Fault Refusal :=
  match s.func? vf with
  | none => .next s
  | some f => .next (if f.ifst = .unlocked then s else s.resetFunctions true vf)

/-- STOP_INTERFACE: the order of R284. As every request that R281 does not list for the function's state, one to an unlocked function is refused
and changes nothing (DESIGN CHOICE, log 117). -/
def execStopInterface (vf : Nat) (s : State) : Host.Outcome State Fault Refusal :=
  match s.func? vf with
  | none => .next s
  | some f => .next (if f.ifst = .unlocked then refuse vf s else s.resetFunctions false vf)

/-! ### Keys (R286, R288) -/

/-- The records of a channel that the host had not acknowledged: the latest of those sent under the key, a free number of them, since the
transport's acknowledgements are no event of the table (R278, R288; log 109). -/
def Func.unseen (f : Func) (pick : Nat) : List HostMsg :=
  if f.txCtr = 0 then []
  else
    let sent := f.out.filter fun m => m.kind.isSome
    sent.drop (sent.length - Config.freeChoice pick % (f.txCtr + 1))

/-- A new channel key: the counters start anew, the records that were not acknowledged go out again, and what the channel held follows. -/
def Func.rekey (sealed : Bool) (pick : Nat) (f : Func) : Func :=
  let again := f.unseen pick ++ f.waiting
  again.foldl (fun f m => f.put sealed m)
    { f with session := true, chanErr := false, rxCtr := 0, txCtr := 0, chanKey := some (f.keyings + 1), keyings := f.keyings + 1, waiting := [] }

/-- SPDM_KEY_EXCHANGE: a function in ERROR refuses it (R281); otherwise the channel has a new key (R288), and slots receive derived keys with
their TYPE (R286). -/
def execSpdmKeyExchange (vf : Nat) (derived : List (Nat × Nat)) (s : State) : Host.Outcome State Fault Refusal :=
  let s := s.withFunc vf
  match s.func? vf with
  | none => .next s
  | some f =>
    if f.ifst = .error then .next (refuse vf s)
    else
      let s := ({ s.modFunc vf (Func.rekey (s.confidential f) s.freeCtr) with freeCtr := s.freeCtr + 1 } : State).flush vf
      .next ((derived.filter fun d => decide (d.1 < 256 ∧ 1 ≤ d.2 ∧ d.2 ≤ 4)).foldl (fun s d =>
        s.modSlot d.1 fun k => { k with type := d.2, gen := k.gen + 1 }) s)

end Sys2Proof.Machine
end

