-- ==== Sys2Proof/Machine/Lanes.lean ====
section
/-!
DEFINITION. Instructions across lanes: SHFL, REDUCE, SCAN, VOTE, COMPRESS, EXPAND, TRN8, and the predicate instructions PLOP and
PMOV. Tiles are those of TILEW (R209).
-/
namespace Sys2Proof.Machine

/-- The lanes of tile `t` of width `w`. -/
def tileLanes (w t : Nat) : List Nat := (List.range w).map (t * w + ·)

def Ctx.tileActs (c : Ctx) (w t : Nat) : List Nat := c.act.filter fun l => l / w == t

/-- Hardware sets E and V and never clears them (R211). -/
def Ctx.flagE (c : Ctx) : Ctx := { c with g := { c.g with cflags := c.g.cflags ||| 1 } }
def Ctx.flagV (c : Ctx) : Ctx := { c with g := { c.g with cflags := c.g.cflags ||| 2 } }

/-- SHFL's source lane (R443). -/
def shflSrc (m : ShflMode) (w l k : Nat) : Nat :=
  let t := l / w * w
  let i := l % w
  match m with
  | .idx => t + k % w
  | .up => if k ≤ i then l - k else l
  | .down => if i + k < w then l + k else l
  | .xor => t + Nat.xor i (k % w)

def execShfl (o : ShflOps) (s : State) :=
  plain (.shfl o) (fun c =>
    let r := c.readA o.r o.a 1
    r.1.result o.d 1 fun l => r.2 (shflSrc o.m c.g.tilew l (c.rd o.b 1 l))) s

/-! ### REDUCE and SCAN (R209, R210, R211) -/

/-- One combining step, with its events. -/
def redStep (op : RedOp) (t : Ty) (x y : Nat) : FRes :=
  match op with
  | .add => if t.isInt then ((x + y) % 2 ^ tyBits t, []) else (tyFmt t).add x y
  | .min => if t.isInt then (intPick false (tySigned t) (tyBits t) x y, []) else (tyFmt t).minmax false x y
  | .max => if t.isInt then (intPick true (tySigned t) (tyBits t) x y, []) else (tyFmt t).minmax true x y
  | .and => (Nat.land x y, [])
  | .or => (Nat.lor x y, [])
  | .xor => (Nat.xor x y, [])

/-- The identities of R210. -/
def redId (op : RedOp) (t : Ty) : Nat :=
  let n := tyBits t
  match op with
  | .add => if t.isInt then 0 else (tyFmt t).signBit true
  | .min => if t.isInt then wrapTo n (intMax (tySigned t) n) else (tyFmt t).infBits false
  | .max => if t.isInt then wrapTo n (intMin (tySigned t) n) else (tyFmt t).infBits true
  | .and => 2 ^ n - 1
  | .or | .xor => 0

/-- One level of the pairwise tree. -/
def pairUp (f : Nat → Nat → FRes) : List Nat → List Nat × List Nat
  | x :: y :: r =>
    let q := f x y
    let p := pairUp f r
    (q.1 :: p.1, q.2 ++ p.2)
  | l => (l, [])

/-- The tree of R209: at most 32 lanes, five levels. -/
def treeOf (f : Nat → Nat → FRes) : Nat → List Nat → FRes
  | 0, l => (l.headD 0, [])
  | n + 1, l =>
    if l.length ≤ 1 then (l.headD 0, [])
    else
      let p := pairUp f l
      let r := treeOf f n p.1
      (r.1, p.2 ++ r.2)

/-- The doubling prefix of R209. -/
def scanOf (f : Nat → Nat → FRes) : Nat → Nat → List Nat → List Nat × List Nat
  | 0, _, l => (l, [])
  | n + 1, d, l =>
    if l.length ≤ d then (l, [])
    else
      let ys := l.zipIdx.map fun p => if d ≤ p.2 then f (l.getD (p.2 - d) 0) p.1 else (p.1, [])
      let r := scanOf f n (2 * d) (ys.map (·.1))
      (r.1, ys.flatMap (·.2) ++ r.2)

/-- A float operand that becomes a result without a combining step: a NaN is written canonical, a NaN or an infinity that is written counts,
and so does a signalling NaN (R197, R212; log 102). -/
def loneVal (t : Ty) (x : Nat) : FRes :=
  if t.isInt then (x, [])
  else match (tyFmt t).val x with
    | .nan sig => nanRes (tyFmt t) (if sig then [4] else [])
    | .inf neg => infRes (tyFmt t) neg
    | .fin .. => (x, [])

/-- The result of REDUCE over the values of a tile (R209, R425). -/
def reduceVal (op : RedOp) (t : Ty) (xs : List Nat) : FRes :=
  match xs with
  | [x] => loneVal t x
  | _ => treeOf (redStep op t) 5 xs

/-- The inclusive results of SCAN (R209, R439): the first position holds its own operand. -/
def scanVals (op : RedOp) (t : Ty) (xs : List Nat) : List Nat × List Nat :=
  match scanOf (redStep op t) 5 1 xs with
  | (x :: r, ev) => ((loneVal t x).1 :: r, (loneVal t x).2 ++ ev)
  | q => q

/-- An exact sum that leaves the range of an integer type (R211). -/
def sumLeaves (t : Ty) (xs : List Nat) : Bool :=
  let n := tyBits t
  let e := (xs.map (asInt (tySigned t) n)).sum
  decide (e < intMin (tySigned t) n ∨ intMax (tySigned t) n < e)

def Ctx.reduceTile (o : ReduceOps) (v : Nat → Nat) (tile : List Nat) (c : Ctx) : Ctx :=
  let n := o.ty.regs
  if tile = [] then
    let c := c.flagE
    if o.d.isS then c.wr o.d n 0 (redId o.op o.ty) else c
  else
    let xs := tile.map v
    let r := reduceVal o.op o.ty xs
    let c := if o.ty.isInt && o.op == .add && sumLeaves o.ty xs then c.flagV else c
    let c := c.events (tyFmt o.ty).code r.2
    if o.d.isS then c.wr o.d n 0 r.1 else c.each tile fun c l => c.wr o.d n l r.1

def execReduce (o : ReduceOps) (s : State) :=
  plain (.reduce o) (fun c =>
    let r := c.readA o.r o.a o.ty.regs
    if o.d.isS then r.1.reduceTile o r.2 c.act
    else r.1.each (List.range (32 / c.g.tilew)) fun d t => d.reduceTile o r.2 (c.tileActs c.g.tilew t)) s

def Ctx.scanTile (o : ScanOps) (v : Nat → Nat) (tile : List Nat) (c : Ctx) : Ctx :=
  if tile = [] then c.flagE
  else
    let xs := tile.map v
    let r := scanVals o.op o.ty xs
    let wraps := o.ty.isInt && o.op == .add && (List.range xs.length).any fun k => sumLeaves o.ty (xs.take (k + 1))
    let c := if wraps then c.flagV else c
    let c := c.events (tyFmt o.ty).code r.2
    let out := if o.excl then redId o.op o.ty :: r.1 else r.1
    c.each tile.zipIdx fun c p => c.wr o.d o.ty.regs p.1 (out.getD p.2 0)

def execScan (o : ScanOps) (s : State) :=
  plain (.scan o) (fun c =>
    let r := c.readA o.r o.a o.ty.regs
    r.1.each (List.range (32 / c.g.tilew)) fun d t => d.scanTile o r.2 (c.tileActs c.g.tilew t)) s

/-- VOTE's result for a tile whose first lane is `base` (R458). -/
def voteVal (m : VoteMode) (p : LaneMask) (base : Nat) (tile : List Nat) : Nat :=
  match m with
  | .any => if tile.any p.getLsbD then 1 else 0
  | .all => if tile.all p.getLsbD then 1 else 0
  | .ballot => ((tile.filter p.getLsbD).map fun l => 2 ^ (l - base)).sum
  | .count => (tile.filter p.getLsbD).length

/-- VOTE over the tiles of a v destination, or over all 32 lanes for an s one (R458) and for z (DESIGN CHOICE, log 101). -/
def execVote (o : VoteOps) (s : State) :=
  plain (.vote o) (fun c =>
    let p := c.g.pred o.p
    if o.d.isV then
      c.each (List.range (32 / c.g.tilew)) fun d t =>
        let tile := c.tileActs c.g.tilew t
        if tile = [] then d.flagE else d.each tile fun d l => d.wr o.d 1 l (voteVal o.m p (t * c.g.tilew) tile)
    else
      let c := if c.act = [] then c.flagE else c
      c.wr o.d 1 0 (voteVal o.m p 0 c.act)) s

/-! ### COMPRESS, EXPAND, TRN8 -/

def Ctx.packTiles (o : SelOps) (f : Ctx → Nat → List Nat → List Nat → Ctx) (c old : Ctx) : Ctx :=
  let w := old.g.tilew
  let r := (List.range (32 / w)).foldl (fun (acc : Ctx × Nat) t =>
    let a := old.tileActs w t
    let sel := a.filter (old.g.pred o.p).getLsbD
    if a = [] then (acc.1.flagE, acc.2) else (f acc.1 t a sel, acc.2 + sel.length)) (c, 0)
  r.1.wr o.b 1 0 r.2

/-- COMPRESS (R357) writes every lane of a tile that holds an active lane. -/
def execCompress (o : SelOps) (s : State) :=
  plain (.compress o) (fun c =>
    let r := c.readA o.r o.a 1
    r.1.packTiles o (fun d t _ sel =>
      d.each (tileLanes c.g.tilew t).zipIdx fun d p => d.wr o.d 1 p.1 ((sel[p.2]?.map r.2).getD 0)) c) s

/-- EXPAND (R372). -/
def execExpand (o : SelOps) (s : State) :=
  plain (.expand o) (fun c =>
    let r := c.readA o.r o.a 1
    r.1.packTiles o (fun d t a sel =>
      let d := d.each sel.zipIdx fun d p => d.wr o.d 1 p.1 (r.2 (t * c.g.tilew + p.2))
      d.each (a.filter fun l => !sel.contains l) fun d l => d.wr o.d 1 l 0) c) s

/-- The elements of a lane and their size (R456). -/
def trnShape : TrnSize → Nat × Nat
  | .e32 => (8, 32)
  | .e16 => (16, 16)
  | .e8 => (32, 8)

def execTrn8 (o : Trn8Ops) (s : State) :=
  plain (.trn8 o) (fun c =>
    let r := c.readA o.r o.a 8
    let (n, sz) := trnShape o.m
    r.1.result o.d 8 fun l =>
      ((List.range n).map fun e => bits (r.2 (l - l % n + e)) (sz * (l % n)) sz * 2 ^ (sz * e)).sum) s

/-! ### Predicates (R415, R86) -/

def execPlop (o : PlopOps) (s : State) :=
  plain (.plop o) (fun c => c.setPred o.pd fun l => truth o.tt ((c.g.pred o.pa).getLsbD l) ((c.g.pred o.pb).getLsbD l)) s

def execPmov (o : PmovOps) (s : State) :=
  plain (.pmov o) (fun c =>
    match o.m with
    | .pv => c.setPred o.p fun l => c.word o.a l != 0
    | .vp => c.result o.d 1 fun l => if (c.g.pred o.p).getLsbD l then 1 else 0
    | .sp => c.result o.d 1 fun _ => (c.g.pred o.p).toNat
    | .ps => c.setPred o.p fun l => (c.word o.a 0).getLsbD l) s

end Sys2Proof.Machine
end

