-- ==== Sys2Proof/Machine/Loops.lean ====
section
/-!
DEFINITION. Reserving loops (R233 to R243, R349, R350, R430, R431, R460) and EXIT (R20, R369, R370), which releases what they hold.
-/
namespace Sys2Proof.Machine

/-! ### Instances -/

/-- The instance that a group's latest RLOOP created or joined. A FREE one that the team's record has passed has ended. -/
def TeamData.inst (d : TeamData) (g : Group) : Option LoopInst :=
  match g.loop with
  | none => none
  | some i =>
    if i.free then some ((findBy (fun x => x.id == i.id && x.epoch == i.epoch) d.loops).getD { i with n := 0, ctr := 0 }) else some i

/-- Two names of one FREE instance. -/
def sameFree (i : LoopInst) (g : Group) : Bool := g.loop.any fun x => x.free && i.free && x.id == i.id && x.epoch == i.epoch

/-- An instance has ended (R233): its counter is at n, and no lane of a group taking part holds an item. -/
def TeamData.ended (d : TeamData) (g : Group) (i : LoopInst) : Bool :=
  decide (i.n ≤ i.ctr) && (if i.free then d.groups.all fun x => !sameFree i x || x.slots == [] else g.slots == [])

/-- The team's data with the working group in it. -/
def Ctx.data (c : Ctx) : TeamData := c.team.live

/-- The group takes part in a live instance. -/
def Ctx.inLoop (c : Ctx) : Bool := (c.data.inst c.g).any fun i => !c.data.ended c.g i

/-- The current instance, where it carries the instruction's id (R235). -/
def Ctx.loopOf (c : Ctx) (id : Fin 8) : Option LoopInst := (c.data.inst c.g).filter fun i => i.id == id.val

def Group.slot? (g : Group) (l : Nat) : Option Slot := findBy (fun x => x.lane == l) g.slots

/-- A change of the current instance's counter. -/
def Ctx.setCtr (c : Ctx) (i : LoopInst) (k : Nat) : Ctx :=
  if i.free then
    { c with t := { c.t with live := { c.t.live with
      loops := modBy (fun x => x.id == i.id && x.epoch == i.epoch) (fun x => { x with ctr := k }) c.t.live.loops } } }
  else { c with g := { c.g with loop := some { i with ctr := k } } }

/-! ### RLOOP, RLITEM, RLDONE -/

/-- The group joins an instance, or starts it; a FREE RLOOP takes the group's next epoch. -/
def Ctx.joinLoop (c : Ctx) (i : LoopInst) : Ctx :=
  let eps := if i.free then (i.id, i.epoch + 1) :: c.g.epochs.filter fun e => e.1 != i.id else c.g.epochs
  { c with g := { c.g with loop := some i, epochs := eps } }

/-- The number of the group's next FREE RLOOP of an id (R236). -/
def Group.epoch (g : Group) (id : Nat) : Nat := ((findBy (fun x => x.1 == id) g.epochs).map (·.2)).getD 0

/-- The group has had its part of the team's FREE instance of this id: no item is left to hand out, and it holds none; other groups may
still hold theirs. Its RLOOP of the next epoch then waits for them and does not trap (R44, R236; DEDUCED, log 106). -/
def Ctx.doneWith (c : Ctx) (id : Nat) : Bool :=
  c.g.slots == [] && (c.data.inst c.g).any fun i => i.free && i.id == id && decide (i.n ≤ i.ctr)

def execRloop (a : Reg) (free : Bool) (loop : Fin 8) (s : State) :=
  issue (.rloop a free loop) noEarly (fun c =>
    let n := (c.word a c.low).toNat
    let id := loop.val
    if c.act = [] then .ok c
    else if (c.inLoop && !(free && c.doneWith id)) || n == 2 ^ 32 - 1 then .trap (c.dynamic (.rloop a free loop))
    else if !free then .ok (c.joinLoop ⟨id, false, n, 0, 0⟩)
    else
      let e := c.g.epoch id
      let old := findBy (fun x : LoopInst => x.id == id) c.t.live.loops
      let start := fun (c : Ctx) =>
        ({ c with t := { c.t with live := { c.t.live with
          loops := ⟨id, true, n, 0, e⟩ :: c.t.live.loops.filter fun x => x.id != id } } } : Ctx).joinLoop ⟨id, true, n, 0, e⟩
      match old with
      | none => .ok (start c)
      | some r =>
        if e = r.epoch + 1 then (if c.data.ended c.g r then .ok (start c) else .wait)
        else if e = r.epoch ∧ n ≠ r.n then .trap (c.dynamic (.rloop a free loop))
        else .ok (c.joinLoop ⟨id, true, n, 0, e⟩)) s

/-- One lane's item (R237). -/
def rlitemLane (d : Reg) (loop : Fin 8) (c : Ctx) (l : Nat) : Ctx :=
  match c.g.slot? l with
  | some x => c.wr d 1 l x.item
  | none =>
    match c.loopOf loop with
    | none => c
    | some i =>
      if i.ctr < i.n then
        let slot : Slot := { lane := l, admitted := false, item := i.ctr, claims := [], defer := 0 }
        (({ c with g := { c.g with slots := slot :: c.g.slots } } : Ctx).setCtr i (i.ctr + 1)).wr d 1 l i.ctr
      else c.wr d 1 l (2 ^ 32 - 1)

/-- The lanes of a mask whose item is admitted. -/
def Group.admitted (g : Group) (ls : List Nat) : List Nat := ls.filter fun l => (g.slot? l).any (·.admitted)

def execRlitem (d : Reg) (loop : Fin 8) (s : State) :=
  issue (.rlitem d loop) noEarly (fun c =>
    let held := c.g.admitted c.act
    if c.act = [] then .ok c
    else if (c.loopOf loop).isNone then .trap (c.dynamic (.rlitem d loop))
    else if held ≠ [] then .trap (illegal (encode (.rlitem d loop)) 7 (maskOf held))
    else .ok (c.each c.act (rlitemLane d loop))) s

/-- A load or store of another fragment has trapped and has not been issued again since (R431): it has no effect yet. -/
def Ctx.replaying (c : Ctx) : Bool := c.g.frags.any fun f => f.replay && f.lowest != c.f.lowest

/-- RLDONE (R240): it waits as WAITC LD=0, ST=0, and for an access that has faulted (R431); it retires the admitted items of the
fragment's slices. -/
def execRldone (loop : Fin 8) (s : State) :=
  issue (.rldone loop) noEarly (fun c =>
    let lanes := lanesOf (sliceLanes c.f.slices)
    if (c.loopOf loop).isNone then .trap (c.dynamic (.rldone loop))
    else if c.g.count .ld ≠ 0 ∨ c.g.count .st ≠ 0 ∨ c.replaying then .wait
    else .ok { c with g := { c.g with slots := c.g.slots.filter fun x => !(lanes.contains x.lane && x.admitted) } }) s

/-! ### CLAIM and WAVE (R238, R239, R241, R242) -/

/-- A granule's three signature bits (R241). -/
def sigOf (g : Nat) : BitVec 768 := (1#768 <<< (g % 256)) ||| (1#768 <<< (256 + g / 256 % 256)) ||| (1#768 <<< (512 + g / 65536 % 256))

/-- The claims are a set: posting a granule again adds nothing (R238). -/
def Slot.post (x : Slot) (g : Nat) : Slot := if x.claims.contains g then x else { x with claims := x.claims ++ [g] }

/-- The signature of an item's claims (R241). -/
def Slot.sig (x : Slot) : BitVec 768 := x.claims.foldl (fun s g => s ||| sigOf g) 0

/-- Part k of a signature. -/
def Slot.part (x : Slot) (k : Nat) : BitVec 256 := x.sig.extractLsb' (256 * k) 256

/-- The conflict test (R241): exact up to two granules on either side, by signature beyond. -/
def conflict (x y : Slot) : Bool :=
  if x.claims = [] ∨ y.claims = [] then false
  else if x.claims.length ≤ 2 ∧ y.claims.length ≤ 2 then x.claims.any y.claims.contains
  else (List.range 3).all fun k => (x.part k &&& y.part k) != 0

def execClaim (o : ClaimOps) (s : State) :=
  issue (.claim o) noEarly (fun c =>
    let n := xferBytes o.w o.sz
    let eas := c.act.map fun l => (l, c.vaOf o.a 0 l)
    if c.act = [] then .ok c
    else match alignOf n eas with
      | some t => .trap t
      | none =>
        if (c.loopOf o.loop).isNone ∨ c.g.admitted c.act ≠ [] then .trap (c.dynamic (.claim o))
        else .ok (c.each eas fun c e =>
          let gs := (List.range ((e.2 + n - 1) / 8 + 1 - e.2 / 8)).map (e.2 / 8 + ·)
          { c with g := { c.g with slots := modBy (fun x => x.lane == e.1) (fun x => gs.foldl Slot.post x) c.g.slots } })) s

/-- The slots of the other groups that take part in a FREE instance. -/
def Ctx.otherSlots (c : Ctx) (i : LoopInst) : List Slot :=
  c.t.live.groups.zipIdx.flatMap fun p => if p.2 ≠ c.ref.group ∧ sameFree i p.1 then p.1.slots else []

/-- An item is admitted (R239, R242); `now` are the items that this WAVE has admitted, all of lower index. -/
def admits (i : LoopInst) (own others now : List Slot) (x : Slot) : Bool :=
  if !i.free then !own.any fun y => decide (y.item < x.item) && conflict x y
  else
    !now.any (conflict x) &&
      !others.any fun y => conflict x y &&
        (y.admitted || (decide (8 ≤ y.defer) && (decide (x.defer < 8) || decide (y.item < x.item))))

def insertItem (x : Slot) : List Slot → List Slot
  | [] => [x]
  | y :: r => if x.item < y.item then x :: y :: r else y :: insertItem x r

/-- The candidates in ascending item index: those that this WAVE admits. -/
def admitted (i : LoopInst) (own others : List Slot) (cands : List Slot) : List Slot :=
  cands.foldl (fun now x => if admits i own others now x = true then now ++ [x] else now) []

def execWave (p loop : Fin 8) (s : State) :=
  issue (.wave p loop) noEarly (fun c =>
    if c.act = [] then .ok c
    else match c.loopOf loop with
      | none => .trap (c.dynamic (.wave p loop))
      | some i =>
        if c.g.admitted (lanesOf (sliceLanes c.f.slices)) ≠ [] then .trap (c.dynamic (.wave p loop))
        else
          let cands := (c.g.slots.filter fun x => c.act.contains x.lane).foldl (fun l x => insertItem x l) []
          let now := admitted i c.g.slots (c.otherSlots i) cands
          let won := fun l => now.any fun x => x.lane == l
          let step := fun (x : Slot) =>
            if won x.lane then { x with admitted := true } else if c.act.contains x.lane then { x with defer := x.defer + 1 } else x
          let c := { c with g := { c.g with slots := c.g.slots.map step } }
          .ok (c.setPred p.val won)) s

/-! ### EXIT -/

/-- Retiring lanes of a group: items are released (R243), slices without a lane leave their fragment, and a fragment without slices
is removed (R20). -/
def Group.retire (g : Group) (act : List Nat) : Group :=
  let live := g.live &&& ~~~(maskOf act)
  let alive : BitVec 8 := BitVec.ofNat 8 (laneSlices live)
  { g with
    live := live
    slots := g.slots.filter fun x => !act.contains x.lane
    frags := (g.frags.map fun f => { f with slices := f.slices &&& alive }).filter fun f => f.slices != 0 }

/-- EXIT (R369): where a fragment is removed the Split Table is evaluated again (R26), and a pending register transfer may now take
effect (R16). -/
def execExit (s : State) :=
  plain .exit (fun c =>
    if c.act = [] then c
    else
      let old := c.group
      let g := old.retire c.act
      let g := if g.frags.length < old.frags.length then g.regang else g
      c.setTeam ({ c.team with live := { c.team.live with groups := c.team.live.groups.set c.ref.group g } } : Team).transfer) s

end Sys2Proof.Machine
end

