-- ==== Sys2Proof/Machine/Matrix.lean ====
section
/-!
DEFINITION. The Matrix Array: MMA (R215 to R225, R399), ACCLD, ACCST, ACCZ (R227, R311, R312), and the block conversions BFPACK
and BFUNPK (R228, R337). Operands are read at issue; tiles and scratchpad change when the array completes an operation.
-/
namespace Sys2Proof.Machine

/-! ### Formats of the format block (R216, R218, R219, R220) -/

def mmaFmt : Nat → Fmt
  | 1 => .f64
  | 2 => .f32
  | 3 => .f16
  | 4 => .bf16
  | 5 => .e4m3
  | _ => .e5m2

/-- A non-block element's exact value: S8 is an integer. -/
def mmaScalar (code x : Nat) : FVal :=
  if code = 7 then
    let i := toSigned 8 x
    .fin (decide (i < 0)) i.natAbs 0
  else (mmaFmt code).val x

/-- The legal pairings of R220. -/
def mmaPair (a b acc : Nat) : Bool :=
  let fp8 := fun x => x == 5 || x == 6
  let block := fun x => (BlockFmt.ofCode? x).isSome
  (a == 1 && b == 1 && acc == 1) || (a == b && (a == 2 || a == 3 || a == 4) && acc == 2) ||
    (fp8 a && fp8 b && acc == 2) || (a == 7 && b == 7 && acc == 8) || (block a && block b && acc == 2)

/-- Element k of an A row. -/
def mmaA (code row k : Nat) : FVal :=
  match BlockFmt.ofCode? code with
  | some f => blockVal f (bits row (32 * f.regs * (k / f.elems)) (8 * f.bytes)) (k % f.elems)
  | none => mmaScalar code (bits row (8 * mmaSize code * k) (8 * mmaSize code))

/-- Element (k, n) of B. -/
def mmaB (code : Nat) (t : Bool) (cols : Nat) (src : Store 8) (b k n : Nat) : FVal :=
  match BlockFmt.ofCode? code with
  | some f => blockVal f (readNat src (b + (n * (64 / f.elems) + k / f.elems) * f.bytes) f.bytes) (k % f.elems)
  | none => mmaScalar code (readNat src (b + (if t then n * 64 + k else k * cols + n) * mmaSize code) (mmaSize code))

/-- The bytes of B. -/
def mmaBytes (code cols : Nat) : Nat :=
  match BlockFmt.ofCode? code with
  | some f => cols * (64 / f.elems) * f.bytes
  | none => 64 * cols * mmaSize code

/-- What R219 and R220 refuse. -/
def mmaBad (fb : Nat) (t sat : Bool) : Bool :=
  let a := bits fb 0 8
  let b := bits fb 8 8
  let acc := bits fb 16 8
  let one := 0xFFFFFFFF
  !mmaPair a b acc || bits fb 25 7 != 0 || bits fb 96 32 != 0 || (sat && acc != 8) || (t && (BlockFmt.ofCode? b).isSome) ||
    (acc != 2 && (bits fb 32 32 != one || bits fb 64 32 != one))

/-! ### The result (R221) -/

def FVal.one : FVal := .fin false 1 0

/-- The F32 scale at an address; 0xFFFF_FFFF means 1.0. -/
def mmaScale (src : Store 8) (base i : Nat) : FVal :=
  if base = 0xFFFFFFFF then .one else Fmt.f32.val (readNat src (base + 4 * i) 4)

/-- One product, with the sign that NEG gives it. -/
def mmaTerm (neg : Bool) (x y : FVal) : FVal := if neg then (x.mul y).neg else x.mul y

/-- The integer of an exact value with exponent 0. -/
def FVal.toInt : FVal → Int
  | .fin neg m _ => if neg then -(m : Int) else m
  | _ => 0

/-- The new element from the old one; `xs` are the 64 pairs of the row and the column. The scale multiplies each term, so that an infinite scale
of terms of both signs gives NaN, where the scaled sum would be an infinity (R221; DESIGN CHOICE, log 120). -/
def mmaElem (acc : Nat) (neg sat : Bool) (scale : FVal) (old : Nat) (xs : List (FVal × FVal)) : FRes :=
  if acc = 2 then
    Fmt.f32.ofVal .rn 0 (xs.foldl (fun s x => s.add (mmaTerm neg scale (x.1.mul x.2))) (Fmt.f32.val old))
  else if acc = 1 then
    xs.foldl (fun r x =>
      let y := Fmt.f64.ofVal .rn 0 ((mmaTerm neg x.1 x.2).add (Fmt.f64.val r.1))
      (y.1, addAllNew y.2 r.2)) (old, [])
  else
    let sum := (xs.map fun x => (mmaTerm neg x.1 x.2).toInt).sum + toSigned 32 old
    (wrapTo 32 (if sat then clampInt true 32 sum else sum), [])

/-! ### What an operation does when the array completes it -/

def TeamData.tile (d : TeamData) (k : Nat) : Store 64 := ((findBy (fun p => p.1 == k) d.tiles).map (·.2)).getD []

def TeamData.setTile (d : TeamData) (k : Nat) (x : Store 64) : TeamData :=
  { d with tiles := modBy (fun p => p.1 == k) (fun _ => (k, x)) d.tiles }

def tileKey (row col : Nat) : Nat := 512 * row + col

def tileGet (x : Store 64) (row col : Nat) : Nat := (look x (tileKey row col)).toNat
def tilePut (x : Store 64) (row col v : Nat) : Store 64 := put x (tileKey row col) (BitVec.ofNat 64 v)

/-- A row set to zero in every column below `n`. -/
def tileZero (n : Nat) (x : Store 64) (row : Nat) : Store 64 := (List.range n).foldl (fun x j => tilePut x row j 0) x

def MxOp.size (m : MxOp) : Nat := if m.wide then 8 else 4

/-- One row of an MMA: the tile and the events. -/
def MxOp.mmaRow (m : MxOp) (zf t sat : Bool) (b fb : Nat) (acc : Store 64 × List Nat) (r : Nat × Nat × Nat) : Store 64 × List Nat :=
  let ac := bits fb 16 8
  let row := (List.range 64).map fun k => mmaA (bits fb 0 8) r.2.2 k
  let sa := mmaScale m.src (bits fb 32 32) r.1
  let x := if zf then tileZero m.nmax acc.1 r.1 else acc.1
  (List.range m.n).foldl (fun z n =>
    let col := (List.range 64).map fun k => mmaB (bits fb 8 8) t m.n m.src b k n
    let y := mmaElem ac (bits fb 24 1 == 1) sat (sa.mul (mmaScale m.src (bits fb 64 32) n)) (tileGet z.1 r.1 n) (row.zip col)
    (tilePut z.1 r.1 n y.1, z.2 ++ y.2)) (x, acc.2)

/-- The whole effect on a team's tiles, with the events; the rows of an ACCST go to the scratchpad by `State.accstRow`. -/
def MxOp.apply (m : MxOp) (d : TeamData) : TeamData × List Nat :=
  let x := d.tile m.tile
  match m.what with
  | .mma zf t sat b fb =>
    let r := m.rows.foldl (m.mmaRow zf t sat b fb) (x, [])
    (d.setTile m.tile r.1, r.2)
  | .accld =>
    (d.setTile m.tile (m.rows.foldl (fun x r =>
      (List.range m.n).foldl (fun x j => tilePut x r.1 j (readNat m.src (r.2.1 + j * m.size) m.size)) x) x), [])
  | .accst => (d, [])
  | .accz => (d.setTile m.tile (m.rows.foldl (fun x r => tileZero m.nmax x r.1) x), [])

/-- The outstanding operation that a core's array completes next (R224). -/
def State.mxNext (s : State) (core : Nat) : Option (Nat × Nat × Op × MxOp) :=
  let all := s.teams.flatMap fun t => t.live.groups.zipIdx.flatMap fun g => g.1.ops.filterMap fun o => match o.kind with
    | .mx m => if m.core = core ∧ ¬ o.fin then some (t.id, g.2, o, m) else none
    | _ => none
  all.foldl (fun b x => match b with
    | none => some x
    | some y => if x.2.2.2.order < y.2.2.2.order then some x else some y) none

/-- A reflective store of the group, older than an operation, that has yet to land in its own team at some of these bytes (R225). -/
def Team.reflBefore (t : Team) (group op : Nat) (l : List (Nat × Nat)) : Bool :=
  (t.group? group).any fun g => g.ops.any fun o => decide (o.id < op) && match o.kind with
    | .refl _ data left => left.contains t.id && data.any fun d => l.any fun r => rangeMeets d.1 d.2.length r.1 r.2
    | _ => false

/-- One row of an ACCST lands: bytes that a copy or gather has yet to land are free, and so are those of an outstanding ATOMS (R141, R323). -/
def State.accstRow (m : MxOp) (tile : Store 64) (tid group : Nat) (o : Op) (s : State) (r : Nat × Nat × Nat) : State :=
  match s.team? tid with
  | none => s
  | some t =>
    let bs := (List.range m.n).flatMap fun j => leBytes m.size (tileGet tile r.1 j)
    let x := s.tear t r.2.1 bs.length
    let y := (x.2.1.modTeam tid fun _ => x.2.2).landing tid x.1 r.2.1 bs
    (y.2.tearMx tid (some (group, o.id)) r.2.1 y.1).modTeam tid fun t =>
      t.landData o.phase fun d => { d with scr := writeBytes d.scr r.2.1 y.1 }

/-- MX_OPERATION_COMPLETE: the oldest operation of the core's array takes effect and finishes (R71, R221, R224); one of an
earlier phase belongs to the checkpoint as well (R141). -/
def execMxOperationComplete (core : Nat) (s : State) : Host.Outcome State Fault Refusal :=
  match s.mxNext core with
  | none => .next s
  | some (tid, gi, o, m) =>
    match s.team? tid with
    | none => .next s
    | some t =>
      if m.reads ≠ [] ∧ t.reflBefore gi o.id m.reads then .next s
      else
        let s := s.countEv t.launch t.idx gi (if m.wide then 0 else 1) (m.apply t.live).2
        .next (if m.what = .accst then
            ((m.rows.foldl (State.accstRow m (t.live.tile m.tile) tid gi o) s).modTeam tid fun t => t.modGroup gi fun g => g.finish o.id)
          else s.modTeam tid fun t => (t.landData o.phase fun d => (m.apply d).1).modGroup gi fun g => g.finish o.id)

/-! ### Issue -/

/-- A tile's declaration: f64, Nmax. -/
def Ctx.tileDecl (c : Ctx) (k : Nat) : Option (Bool × Nat) :=
  ((c.launch.bind (·.md)).bind fun m => findBy (fun x => x.1 == k) m.tiles).map (·.2)

/-- The first write of a tile row's 256-byte segments in a phase (R140). -/
def Ctx.noteRow (cols : Nat) (wide : Bool) (tile : Nat) (c : Ctx) (row : Nat) : Ctx :=
  let per := if wide then 32 else 64
  c.each (List.range ((cols + per - 1) / per)) fun c i => c.note (.seg tile row i)

/-- An operation joins the core's array in issue order. -/
def Ctx.mxIssue (c : Ctx) (f : Nat → MxOp) : Ctx :=
  let order := (c.coreOf.map (·.mxNext)).getD 0
  let c := { c with s := c.s.modCore c.t.core fun k => { k with mxNext := k.mxNext + 1 } }
  c.addOp .mx false (.mx (f order))

/-- The scratchpad bytes of some ranges. -/
def Ctx.snapScr (c : Ctx) (rs : List (Nat × Nat)) : Store 8 :=
  c.t.live.scr.filter fun p => rs.any fun r => decide (r.1 ≤ p.1 ∧ p.1 < r.1 + r.2)

/-- A range that the scratchpad does not hold. -/
def Ctx.outside (c : Ctx) (a n : Nat) : Bool := decide (2 ^ 31 ≤ a ∨ c.scrSize < a + n)

def firstBad (l : List (Nat × Bool)) : Option Nat := (l.find? (·.2)).map (·.1)

def Reg.num : Reg → Nat
  | .v k => k.val
  | .s k => k.val
  | .z => 0

/-- A run past the allocation (R50). -/
def Ctx.pastAlloc (c : Ctx) (a : Reg) (n : Nat) : Bool := decide (c.g.alloc < c.g.win + Reg.num a + n)

/-- MMA in the order of R223. -/
def bodyMma (o : MmaOps) (c : Ctx) : Res :=
  let fb := c.rd o.fmt 4 0
  let n := (c.word o.nreg 0).toNat
  let a := bits fb 0 8
  let ac := bits fb 16 8
  let b := (c.word o.b 0).toNat
  let sa := bits fb 32 32
  let sb := bits fb 64 32
  let one := 0xFFFFFFFF
  let run := mmaRun a
  let nb := mmaBytes (bits fb 8 8) n
  let al := if (BlockFmt.ofCode? (bits fb 8 8)).isSome then 1 else mmaSize (bits fb 8 8)
  if c.act = [] then .ok (c.readA o.r o.a 1).1
  else if mmaBad fb o.t o.sat ∨ n = 0 ∨ n % 16 ≠ 0 then .trap (c.dynamic (.mma o))
  else match c.tileDecl o.tile.val with
    | none => .trap (trapAt tAccrange 0 c.mask)
    | some (wide, nmax) =>
      if wide ≠ (ac == 1) ∨ nmax < n then .trap (trapAt tAccrange 0 c.mask)
      else if c.pastAlloc o.a run then .trap (trapAt tRegrange 0 c.mask)
      else match firstBad [(b, b % al != 0), (sa, sa != one && sa % 4 != 0), (sb, sb != one && sb % 4 != 0)] with
        | some x => .trap (trapAt tAlign x c.mask)
        | none =>
          match firstBad [(b, c.outside b nb), (sa, sa != one && c.outside sa 128), (sb, sb != one && c.outside sb (4 * n))] with
          | some x => .trap (trapAt tScratch x c.mask)
          | none =>
            let r := c.readA o.r o.a run
            let reads := (b, nb) :: (if sa = one then [] else c.act.map fun l => (sa + 4 * l, 4)) ++ (if sb = one then [] else [(sb, 4 * n)])
            let d := c.act.foldl (Ctx.noteRow (if o.zf then nmax else n) wide o.tile.val) r.1
            .ok (d.mxIssue fun k =>
              { what := .mma o.zf o.t o.sat b fb, tile := o.tile.val, wide := wide, nmax := nmax, n := n,
                rows := c.act.map fun l => (l, 0, r.2 l), src := c.snapScr reads, reads := reads, core := c.t.core, order := k })

def execMma (o : MmaOps) (s : State) := issue (.mma o) noEarly (bodyMma o) s

/-- ACCLD and ACCST (R311). -/
def bodyAcc (i : Instr) (st : Bool) (o : AccOps) (c : Ctx) : Res :=
  let n := (c.word o.b 0).toNat
  if c.act = [] then .ok c
  else if n = 0 ∨ n % 16 ≠ 0 then .trap (c.dynamic i)
  else match c.tileDecl o.tile.val with
    | none => .trap (trapAt tAccrange 0 c.mask)
    | some (wide, nmax) =>
      let e := if wide then 8 else 4
      let rows := c.act.map fun l => (l, if o.a.isV then (c.word o.a l).toNat else (c.word o.a 0).toNat + l * n * e)
      if nmax < n then .trap (trapAt tAccrange 0 c.mask)
      else match alignOf e rows with
        | some t => .trap t
        | none =>
          match faultOf (rows.map fun r => (r.1, r.2, if c.outside r.2 (n * e) || (st && c.inMirror r.2 (n * e)) then some tScratch else none)) with
          | some t => .trap t
          | none =>
            let reads := if st then [] else rows.map fun r => (r.2, n * e)
            let d := if st then rows.foldl (fun (d : Ctx) r => d.noteScr r.2 (n * e)) c else c.act.foldl (Ctx.noteRow n wide o.tile.val) c
            .ok (d.mxIssue fun k =>
              { what := if st then .accst else .accld, tile := o.tile.val, wide := wide, nmax := nmax, n := n,
                rows := rows.map fun r => (r.1, r.2, 0), src := c.snapScr reads, reads := reads, core := c.t.core, order := k })

def execAccld (o : AccOps) (s : State) := issue (.accld o) noEarly (bodyAcc (.accld o) false o) s
def execAccst (o : AccOps) (s : State) := issue (.accst o) noEarly (bodyAcc (.accst o) true o) s

def execAccz (tile : Fin 16) (s : State) :=
  issue (.accz tile) noEarly (fun c =>
    if c.act = [] then .ok c
    else match c.tileDecl tile.val with
      | none => .trap (trapAt tAccrange 0 c.mask)
      | some (wide, nmax) =>
        .ok ((c.act.foldl (Ctx.noteRow nmax wide tile.val) c).mxIssue fun k =>
          { what := .accz, tile := tile.val, wide := wide, nmax := nmax, n := nmax, rows := c.act.map fun l => (l, 0, 0), src := [],
            reads := [], core := c.t.core, order := k })) s

/-! ### Block conversions (R228, R337) -/

/-- BFPACK in one lane: the records' registers as one number, and the generator (R204). -/
def packRecs (f : BlockFmt) (rm : Rm) (x : Nat) : List Nat → Word → Nat × Word
  | [], s => (0, s)
  | j :: js, s =>
    let r := blockPack f rm ((List.range f.elems).map fun k => bits x (32 * (j * f.elems + k)) 32) s
    let z := packRecs f rm x js r.2
    (r.1 * 2 ^ (32 * f.regs * j) + z.1, z.2)

/-- BFUNPK in one lane. -/
def unpackRecs (f : BlockFmt) (x recs : Nat) : Nat :=
  packBits 32 ((List.range (recs * f.elems)).map fun k =>
    (Fmt.f32.ofVal .rn 0 (blockVal f (bits x (32 * f.regs * (k / f.elems)) (8 * f.bytes)) (k % f.elems))).1)

/-- The two runs: REGRANGE (R50). -/
def bfRuns (o : BfOps) (na nd : Nat) (f : Ctx → Ctx) (c : Ctx) : Res :=
  if c.act = [] then .ok c
  else if c.pastAlloc o.a na || c.pastAlloc o.d nd then .trap (trapAt tRegrange 0 c.mask)
  else .ok (f c)

def execBfpack (o : BfOps) (s : State) :=
  let k := recCount o.two
  let na := k * o.fmt.elems
  let nd := k * o.fmt.regs
  issue (.bfpack o) noEarly (bfRuns o na nd fun c => c.each c.act fun d l =>
    let r := packRecs o.fmt o.rm (c.rd o.a na l) (List.range k) (look c.g.rng l)
    ({ d with g := { d.g with rng := put d.g.rng l r.2 } } : Ctx).wr o.d nd l r.1) s

def execBfunpk (o : BfOps) (s : State) :=
  let k := recCount o.two
  let na := k * o.fmt.regs
  let nd := k * o.fmt.elems
  issue (.bfunpk o) noEarly (bfRuns o na nd fun c => c.result o.d nd fun l => unpackRecs o.fmt (c.rd o.a na l) k) s

end Sys2Proof.Machine
end

