-- ==== Sys2Proof/Machine/Phase.lean ====
section
/-!
DEFINITION. PHASE (R135, R136, R412), the completion of publishes, and the quiet reports of R145.
-/
namespace Sys2Proof.Machine

/-- An explicit publish: a boundary at issue, and the fragment waits for it (R136). -/
def bodyPublish (sc : Scope) (dur refresh : Bool) (c : Ctx) : Res :=
  if c.t.pub.isSome then .wait
  else
    let c := { c with f := { c.f with wait := .pub } }
    .ok (c.boundary sc (dur && (c.launch.map Launch.durable).getD false) refresh (some (c.ref.group, c.ref.slice)))

def execPhasePub (sc : Scope) (s : State) := issue (.phasePub sc) noEarly (bodyPublish sc false false) s
def execPhaseBoth (sc : Scope) (s : State) := issue (.phaseBoth sc) noEarly (bodyPublish sc false true) s
def execPhasePubDur (sc : Scope) (s : State) := issue (.phasePubDur sc) noEarly (bodyPublish sc true false) s

/-- PHASE.REF (R412): no effect at GROUP or TEAM scope. -/
def execPhaseRef (sc : Scope) (s : State) :=
  plain (.phaseRef sc) (fun c =>
    let r := c.s.demote c.t sc
    let c := { c with s := r.2 }
    if scopeWide r.1 then c.refresh else c) s

/-- PUBLISH_COMPLETE: lines of the drain take effect at memory, and the team's publish ends where nothing is left of it at its
scope; engine commands may land later, once their sources have been read (R136, R141, R155). The groups of reductions that met poison take a machine
check (R299). -/
def execPublishComplete (team : Nat) (lines : List Nat) (s : State) : Host.Outcome State Fault Refusal :=
  let drained := s.drainSome team lines
  let bad := match s.team? team, drained.team? team with
    | some t, some t' => t.drain.filter fun i => s.redPoison t i && !t'.drain.contains i
    | _, _ => []
  .next (bad.foldl (fun s i => s.machineCheck team i.item.redGroup i.phase) ((drained.finishPub team).finishRead team))

/-- This device's count of a source's messages under a tag. -/
def State.received (s : State) (src team : Nat) (tag : Bool) : Nat :=
  ((findBy (fun r : RxCount => r.src == src && r.team == team && r.tag == tag) s.rxCounts).map (·.count)).getD 0

/-- QUIET_REPORT: a peer's cumulative count arrives (R145); the device is its own peer for messages to itself (R249). -/
def execQuietReport (peer team : Nat) (tag : Bool) (count : Nat) (s : State) : Host.Outcome State Fault Refusal :=
  let count := if peer = s.devId then min count (s.received peer team tag) else count
  .next ((s.modTeam team fun t =>
    { t with sent := modBy (fun q => q.peer == peer && q.tag == tag) (fun q => { q with seen := max q.seen count }) t.sent }).finishPub team)

/-- QUIET_REPORT_SEND: this device reports its count of a source's messages (R145). The report leaves as it is, over no route and with no
hop count (DESIGN CHOICE, log 118: R249 speaks of messages, and does not say whether a report is one). -/
def execQuietReportSend (src team : Nat) (tag : Bool) (s : State) : Host.Outcome State Fault Refusal :=
  .next { s with quietOut := s.quietOut ++ [(src, team, tag, s.received src team tag)] }

end Sys2Proof.Machine
end

