-- ==== Sys2Proof/Machine/Seal.lean ====
section
/-!
DEFINITION. The Sealing Engine: SEALO, SEALA, SEALC, the absorbing of a range and the writing of a record (R289 to R295, R440).
-/
namespace Sys2Proof.Machine

def Ctx.sealCtx (c : Ctx) (h : Nat) : Option SealCtx := (findBy (fun x : Nat × SealCtx => x.1 == h) c.t.live.seals).map Prod.snd

/-- An open handle: one whose SEALC is not under way. -/
def Ctx.openCtx (c : Ctx) (h : Nat) : Option SealCtx := (c.sealCtx h).filter fun x => !x.closing

def setSeal (h : Nat) (f : SealCtx → SealCtx) (l : List (Nat × SealCtx)) : List (Nat × SealCtx) :=
  modBy (fun x => x.1 == h) (fun x => (x.1, f x.2)) l

/-- SEALO's result (R290, R440): the reserved fields first, then room, then the slot. -/
def Ctx.sealOpen (c : Ctx) (x : Nat) : Nat × Ctx :=
  let slot := bits x 0 8
  let alg := bits x 8 2
  let ok := c.s.keySlots.any fun k => k.slot == slot && k.v && some k.part == c.part.map (·.id) && k.type == alg + 2
  if bits x 10 22 ≠ 0 ∨ 2 ≤ alg then (0x80000003, c)
  else match findBy (fun h => (c.sealCtx h).isNone) (List.range 4) with
    | none => (0x80000001, c)
    | some h =>
      if !ok then (0x80000002, c)
      else (h, { c with t := { c.t with live := { c.t.live with seals := c.t.live.seals ++ [(h, ⟨alg, slot, none, [], false, false⟩)] } } })

/-- SEALO retires from CP at issue (R440). -/
def execSealo (d a : Reg) (s : State) :=
  issue (.sealo d a) noEarly (fun c =>
    if c.act = [] then .ok c
    else
      let r := c.sealOpen (c.rd a 1 0)
      .ok ((r.2.wr d 1 0 r.1).addOp .cp true .stored)) s

/-- SEALA (R291, R440): the range is read by the engine, a scratchpad range as it stands at issue, for which the earlier scratchpad writes of the
group have landed. -/
def execSeala (a : Reg) (s : State) :=
  issue (.seala a) noEarly (fun c =>
    let x := c.rd a 4 0
    let addr := bits x 0 64
    let len := bits x 64 32
    let w := bits x 96 32
    let h := bits w 0 2
    let scr := bits w 30 1 == 1
    let post := fun (c : Ctx) =>
      let id := c.s.uid
      let c := c.addOp .cp false (.seala h (!scr) addr len c.s.ver (if scr then readBytes c.t.live.scr addr len else []))
      if scr then c else { c with s := c.s.askHostRange ((c.func.map (·.vf)).getD 256) id c.root addr len }
    if c.act = [] then .ok c
    else if (c.openCtx h).isNone ∨ bits w 2 28 ≠ 0 ∨ bits w 31 1 ≠ 0 ∨ 2 ^ 24 < len then .trap (c.dynamic (.seala a))
    else if scr ∧ (c.scrSize < addr + len ∨ 2 ^ 31 ≤ addr) then .trap (trapAt tScratch addr c.mask)
    else if c.t.pub.isSome ∨ (scr ∧ c.g.ops.any fun o => o.writesScr addr len) then .wait
    else if scr ∨ (c.t.pb = [] ∧ c.t.drain = []) then .ok (post c.posting)
    else c.afterPublish (c.physical addr len) fun c => .ok (post c)) s

/-- A SEALA of a context of the team that has still to be absorbed, older than `op`. -/
def Team.sealAhead (t : Team) (h op : Nat) : Bool :=
  t.live.groups.any fun g => g.ops.any fun o => !o.fin && decide (o.id < op) && match o.kind with
    | .seala k _ _ _ _ _ => k == h
    | _ => false

/-- SEALC (R292, R440): the context's handle is no longer open. -/
def execSealc (a b : Reg) (s : State) :=
  issue (.sealc a b) noEarly (fun c =>
    let h := c.rd a 1 0
    let addr := c.rd b 2 0
    if c.act = [] then .ok c
    else if addr % 64 ≠ 0 then .trap (trapAt tAlign addr c.mask)
    else match c.openCtx h with
      | none => .trap (c.dynamic (.sealc a b))
      | some x =>
        if x.seq.isNone && !c.team.sealAhead h c.s.uid then .trap (c.dynamic (.sealc a b))
        else
          let c := { c with t := { c.t with live := { c.t.live with seals := setSeal h (fun y => { y with closing := true }) c.t.live.seals } } }
          .ok (c.posting.addOp .cp false (.sealc h addr))) s

/-! ### Absorbing (R291) -/

/-- The next value of a slot's counter (R291). -/
def State.takeSeal (s : State) (slot : Nat) : Nat × State :=
  (((findBy (fun k : KeySlot => k.slot == slot) s.keySlots).map (·.seq)).getD 0,
    { s with keySlots := modBy (fun k => k.slot == slot) (fun k => { k with seq := (k.seq + 1) % 2 ^ 64 }) s.keySlots })

/-- A context absorbs a range, or fails; a failed one ignores it. -/
def SealCtx.absorb (x : SealCtx) (bs : Option (List Byte)) : SealCtx :=
  if x.failed then x else match bs with
    | none => { x with failed := true }
    | some b => { x with bytes := x.bytes ++ b }

/-- The oldest operation of a group that satisfies a test. -/
def Group.firstOp (g : Group) (p : Op → Bool) : Option Op := findBy (fun o => !o.fin && p o) g.ops

/-- An operation of the Sealing Engine that a group still waits for: a SEALA to absorb, or one that has absorbed and is to take its
boundary. -/
def isSeala (o : Op) : Bool :=
  o.cls == .cp && match o.kind with
    | .seala .. | .stored => true
    | _ => false

def isSealc (o : Op) : Bool := match o.kind with
  | .sealc .. => true
  | _ => false

/-- The boundary of R138 after the range has been absorbed; it waits for the team's previous publish (R145). -/
def State.sealBoundary (s : State) (tid group op : Nat) : State :=
  match s.team? tid with
  | none => s
  | some t => if t.pub.isSome then s else (s.finishOp tid group op).boundary tid .device false false none

/-- SEALA_ABSORB: the group's next range is absorbed, and the boundary is taken (R291, R138). -/
def execSealaAbsorb (team group : Nat) (s : State) : Host.Outcome State Fault Refusal :=
  match (s.team? team).bind fun t => (t.group? group).bind fun g => (g.firstOp isSeala).map fun o => (t, o) with
  | none => .next s
  | some (t, o) =>
    match o.kind with
    | .seala h glob a len ver d =>
      if s.awaitsHost o.id then .next s
      else
        let root := ((s.funcOf t).map (·.root)).getD 0
        let r := if glob then s.engRead root none ver none a len else (d, s)
        let bs := if glob && s.srcFaults root false a len 0 != [] then none else some r.1
        let old := ((findBy (fun x : Nat × SealCtx => x.1 == h) t.live.seals).map Prod.snd)
        let q := if old.any fun x => x.seq.isNone then
            let k := r.2.takeSeal ((old.map (·.slot)).getD 0)
            (some k.1, k.2)
          else (none, r.2)
        let s := q.2.modTeam team fun t =>
          (t.landData o.phase fun d => { d with seals := setSeal h (fun x => { x.absorb bs with seq := x.seq.orElse fun _ => q.1 }) d.seals }).modGroup
            group fun g => g.setKind o.id .stored
        .next (s.sealBoundary team group o.id)
    | _ => .next (s.sealBoundary team group o.id)

/-- A range reaches host memory while the function's channel is down: nothing written there takes effect until it is up (R288). -/
def State.hostHeld (s : State) (f : Option Func) (root va len : Nat) : Bool :=
  f.any (fun k => !s.channelUp k) && (pages va len).any fun p =>
    (s.translate root p.1).any fun r => s.regionOf r.2 == some RegionKind.host

/-- SEALC_RECORD: once every earlier SEALA of the context has been absorbed, the record is built, signed and written, or goes to the
SEALOUT ring, and the context is free (R292, R294, R295). A record in host memory waits for the channel. Executed again after a rollback, a
record that went to the SEALOUT ring takes a new place there, raises its count and posts an event anew (DESIGN CHOICE, log 26). -/
def execSealcRecord (team group : Nat) (s : State) : Host.Outcome State Fault Refusal :=
  match (s.team? team).bind fun t => (t.group? group).bind fun g => (g.firstOp isSealc).map fun o => (t, o) with
  | none => .next s
  | some (t, o) =>
    match o.kind with
    | .sealc h addr =>
      match findBy (fun x : Nat × SealCtx => x.1 == h) t.live.seals with
      | none => .next (s.finishOp team group o.id)
      | some (_, x) =>
        if t.sealAhead h o.id then .next s
        else
          let f := s.funcOf t
          let root := (f.map (·.root)).getD 0
          if s.dstFaults root false addr 3392 = [] ∧ s.hostHeld f root addr 3392 then .next s else
          let seq := x.seq.getD 0
          let rec_ := match findBy (fun k : Nat × Nat × List Byte => k.1 == h && k.2.1 == seq) t.sealKept with
            | some k => k.2.2
            | none => s.sealRecord (((s.partOf t).map (·.id)).getD 0) x false
          let s := if s.dstFaults root false addr 3392 = [] then s.engWrite ((f.map (·.vf)).getD 256) root addr rec_
            else s.sealOutRing t (sealStatus x false) rec_
          let s := s.modTeam team fun t =>
            let t := t.landData o.phase fun d => { d with seals := d.seals.filter fun y => y.1 != h }
            if o.phase = t.phasen then { t with sealKept := t.sealKept ++ [(h, seq, rec_)] } else t
          .next ((s.finishOp team group o.id).finishPub team)
    | _ => .next s

end Sys2Proof.Machine
end

