-- ==== Sys2Proof/Machine/Service.lean ====
section
/-!
DEFINITION. Integrity, retirement and service (R5, R6, R171, R178, R267, R296 to R306).
-/
namespace Sys2Proof.Machine

/-! ### Error logs (R301) -/

/-- One entry of a die's log, which keeps the last 1,024; the producer count has 8 bytes. -/
def Die.log1 (src kind unit detail : Nat) (d : Die) : Die :=
  let l := d.log ++ [⟨d.clock, src, kind, unit % 256, detail % 2 ^ 32⟩]
  { d with log := l.drop (l.length - 1024), count := (d.count + 1) % 2 ^ 64 }

def State.modDie (s : State) (id : Nat) (f : Die → Die) : State := { s with dies := modBy (fun d => d.id == id) f s.dies }

def State.logErr (s : State) (die src kind unit detail : Nat) : State := s.modDie die (Die.log1 src kind unit detail)

/-- An entry about a line of memory: its channel's die and number, and physical address bits 47:16. -/
def State.logLine (s : State) (src kind line : Nat) : State :=
  s.logErr (s.chanOf line / 16 % 4) src kind (s.chanOf line % 16) (line / 1024)

/-! ### The outcome of a loss (R5, R6, R171, R303) -/

/-- A launch ends failed and its running teams are killed; `fault` is the team that faulted and its code (R41). -/
def State.failKill (s : State) (launch code : Nat) (fault : Option (Nat × Nat)) : State :=
  let s := s.modLaunch launch fun l =>
    if l.status.ended then l
    else match fault with
      | none => { l with status := .failed code }
      | some (i, k) => { l with status := .failed code, fteam := BitVec.ofNat 32 i, fcode := k }
  s.killLaunch launch

/-- A launch has placed teams and its partition's memory has a line on a channel: the channel lies within its footprint (R5, R303). -/
def State.onChannel (s : State) (on : Nat → Bool) (l : Launch) : Bool :=
  l.placed != 0 && (s.func? l.vf).any fun f => (s.partRanges f.part).any fun r => (List.range (r.2 / 64)).any fun i => on (r.1 / 64 + i)

/-- One unit of R5 has failed within the footprint of some launches, and the state of the teams `gone` with it. A launch that has failed
already only loses those teams. The second such unit before a durable checkpoint makes the launch report DEVICE-FAILED (R303); a durable
launch restarts the teams (R5, R6); another one that has lost a team reports `code`. -/
def State.loseUnit (s : State) (gone : List Team) (touched : List Nat) (code fcode : Nat) : State :=
  let step := fun (s : State) (id : Nat) =>
    match s.launch? id with
    | none => s
    | some l =>
      let mine := gone.filter fun t => t.launch == id
      let kill := fun (s : State) => (mine.map (·.id)).foldl (fun s t => s.killTeam t) s
      let first := (mine.map (·.idx)).min?
      if l.status.ended then kill s
      else if l.hit then (kill s).failKill id 6 none
      else
        let s := s.modLaunch id fun k => { k with hit := true }
        if mine = [] then s
        else if l.durable then s.restartSome id (mine.map (·.id))
        else (kill s).failKill id code (if fcode = 0 then none else first.map fun i => (i, fcode))
  (gone.map (·.launch) ++ touched).eraseDups.foldl step s

/-! ### Errors in memories (R296, R298, R299) -/

/-- The team that owns a word, and whether its checkpoint stands without it. -/
def sramTeam : SramLoc → Nat
  | .vreg t .. | .sreg t .. | .scratch t _ | .tile t .. | .pred t .. | .pbLine t _ | .rstLine t .. | .drainLine t _ | .undoLog t => t

def Team.intact (t : Team) : SramLoc → Bool
  | .vreg _ g r => t.undo.contains (.vreg g r)
  | .sreg _ g r => t.undo.contains (.sreg g r)
  | .scratch _ l => t.undo.contains (.line l)
  | .tile _ k r c => t.undo.contains (.seg k r c)
  | .pred _ g p => t.undo.contains (.pred g p)
  | .pbLine _ l => t.pb.any fun i => i.lines.contains l
  | .rstLine _ p l => t.rsts.any fun r => r.peer == p && r.lanes.any fun x => lineOf x.off == l
  | .drainLine .. | .undoLog _ => false

/-- A machine check of every group of a team, whose checkpoint stands (R171, R298). -/
def State.mchkTeam (s : State) (t : Team) : State :=
  (s.modTeam t.id fun t => { t with live := { t.live with groups := t.live.groups.map Group.machineTrap } }).askRollback t.id

/-- SRAM_ECC_ERROR: corrected in place and logged, or a machine check of the owning team (R171, R298). A saved team owns no word. -/
def execSramEccError (loc : SramLoc) (correctable : Bool) (s : State) : Host.Outcome State Fault Refusal :=
  match s.team? (sramTeam loc) with
  | none => .next s
  | some t =>
    let s := if t.saved then s else s.logErr (t.core / 36) 1 (if correctable then 0 else 3) t.core 0
    if t.saved ∨ correctable then .next s
    else if t.intact loc then .next (s.mchkTeam t)
    else if (s.launchOf t).any fun l => l.status.ended then .next (s.killTeam t.id)
    else if s.durable t.launch then .next (s.restartSome t.launch [t.id])
    else .next (s.launchFault t.id tMchk)

/-- The teams of durable launches that hold a core and whose launch is among some. -/
def State.durableTeams (s : State) (ls : List Nat) : List Team := s.teams.filter fun t => !t.saved && ls.contains t.launch && s.durable t.launch

/-- CACHE_ECC_ERROR: a clean line is dropped, a dirty one goes to DRAM as poisoned. The loss of a dirty line is the failure of its cache slice
for the launches with memory there (R5, R303; log 119). -/
def execCacheEccError (line : Nat) (correctable : Bool) (s : State) : Host.Outcome State Fault Refusal :=
  let s := s.logLine 4 (if correctable then 0 else 3) line
  if correctable then .next s
  else
    let dirty := s.cache.any fun c => c.1 == line && c.2
    let s := { s with cache := s.cache.filter fun c => c.1 != line }
    let touched := (s.launches.filter fun l => s.onChannel (· == line) l).map (·.id)
    .next (if dirty then (s.setPoison line true).loseUnit (s.durableTeams touched) touched 1 tMchk else s)

/-- DRAM_ECC_ERROR. -/
def execDramEccError (line : Nat) (correctable : Bool) (s : State) : Host.Outcome State Fault Refusal :=
  let s := s.logLine 5 (if correctable then 0 else 3) line
  .next (if correctable then s else s.setPoison line true)

/-- CXL_POISON: the line is poisoned; the die that its port stands on logs the port's number (R301; log 78). -/
def execCxlPoison (line : Nat) (s : State) : Host.Outcome State Fault Refusal :=
  let port := (Config.cxlPort line).val
  .next ((s.logErr (port / 2) 9 3 port (line / 1024)).setPoison line true)

/-! ### Cores (R178, R302) -/

/-- A logical core is taken from every partition that holds it; their teams on it leave (R177). -/
def State.takeCore (s : State) (core : Nat) : State :=
  let ps := (s.parts.filter fun p => p.cores.getLsbD core).map (·.id)
  let s := { s with parts := s.parts.map fun p => { p with cores := p.cores &&& ~~~(1#192 <<< core) } }
  ps.foldl (fun s p => s.shrink p) s

/-- A core that no other replaces: every partition that holds it loses it, and a deficit is posted for each (R178). -/
def State.postCore (s : State) (core : Nat) : State :=
  let ds := (s.parts.filter fun p => p.cores.getLsbD core).map fun p => (⟨p.id, true, 1⟩ : Deficit)
  { (s.takeCore core) with deficits := s.deficits ++ ds }

/-- The cores that partition guarantees may give up on a die: the highest-numbered of each partition, highest RANK first. -/
def State.victims (s : State) (die core : Nat) : List (Nat × Nat) :=
  let rank := fun r => s.parts.filter fun p => p.rank == r
  (List.range 64).reverse.flatMap fun r => (rank r).filterMap fun p =>
    let own := p.coreList.filter fun c => c / 36 == die && (c == core || (s.core? c).any (·.alive))
    if own.contains core then some (p.id, core) else own.reverse.head?.map fun c => (p.id, c)

/-- A logical core has lost its physical core: a spare of the die takes its number; with no spare left, the partition of highest RANK
gives up a core for it, and a deficit is posted for every partition that held that core (R178). No guarantee is short where no partition held
the core that was lost. -/
def State.replaceCore (s : State) (core : Nat) : State :=
  let die := core / 36
  match (findBy (fun d : Die => d.id == die) s.dies).bind fun d => d.spares.head? with
  | some p => (s.modDie die fun d => { d with spares := d.spares.drop 1 }).modCore core fun k => { k with phys := p, alive := true }
  | none =>
    if s.parts.all fun p => !p.cores.getLsbD core then s
    else match (s.victims die core).head? with
    | none => s
    | some (_, c) =>
      let phys := ((s.core? c).map (·.phys)).getD 0
      let s := if c = core then s
        else (s.modCore core fun k => { k with phys := phys, alive := true }).modCore c fun k => { k with alive := false }
      s.postCore c

/-- A core that stops at once: what stood on it is lost (R302). -/
def State.dropCore (s : State) (core : Nat) : State :=
  let gone := s.teams.filter fun t => t.core == core && !t.saved
  let s := (s.logErr (core / 36) 1 4 core 0).loseUnit gone [] 2 0
  s.modCore core fun k => { k with alive := false, elb := Config.elb, late := [] }

/-- CORE_LOSS. -/
def execCoreLoss (core : Nat) (s : State) : Host.Outcome State Fault Refusal :=
  if (s.core? core).any (·.alive) then .next ((s.dropCore core).replaceCore core).setReady else .next s

/-- PLANNED_CORE_RETIREMENT: the teams leave the core; once they have been saved, the event gives its number to another core. A core that is
gone and that no partition holds any longer has been retired already. -/
def execPlannedCoreRetirement (core : Nat) (s : State) : Host.Outcome State Fault Refusal :=
  match s.core? core with
  | none => .next s
  | some k =>
    if !k.alive && !s.parts.any fun p => p.cores.getLsbD core then .next s
    else
      let s := if k.alive then (s.modCore core fun k => { k with alive := false }).evacuate (s.resident core) else s
      .next (if s.resident core = [] then (s.replaceCore core).logErr (core / 36) 1 4 core 0 else s)

/-! ### Channels (R178, R300, R302) -/

def State.chan (s : State) (die chan : Nat) : Chan :=
  (findBy (fun c : Chan => c.die == die && c.chan == chan) s.chans).getD ⟨die, chan, 4, false, false, []⟩

def State.setChan (s : State) (c : Chan) : State :=
  { s with chans := (s.chans.filter fun x => x.die != c.die || x.chan != c.chan) ++ [c] }

/-- A partition and those above it. -/
def chainOf (ps : List Part) : Nat → Nat → List Nat
  | 0, _ => []
  | n + 1, id => match findBy (fun p : Part => p.id == id) ps with
    | none => []
    | some p => id :: if p.level = 0 then [] else chainOf ps n p.parent

/-- Taking bandwidth from a partition takes it from those above it too; a deficit is posted for each. -/
def State.shorten (s : State) (id n : Nat) : State :=
  let ids := chainOf s.parts 3 id
  { s with
    parts := s.parts.map fun p => if ids.contains p.id then { p with short := p.short + n } else p
    deficits := s.deficits ++ ids.map fun i => ⟨i, false, n⟩ }

/-- What the channels left no longer meet of the guarantees, beyond what has been taken already, is taken from the partitions, highest
RANK first (R178; log 87). -/
def State.takeBandwidth (s : State) : State :=
  let tops := s.parts.filter fun p => p.level == 0
  let left := 64 * (64 - (s.chans.filter (·.retired)).length)
  let lack := (tops.map (·.bwmin)).sum - left - (tops.map (·.short)).sum
  let order := ((List.range 64).reverse.flatMap fun r => s.parts.filter fun p => p.rank == r).map (·.id)
  (order.foldl (fun (a : Nat × State) id =>
    let n := min a.1 (((a.2.part? id).map fun p => p.bwmin - p.short).getD 0)
    if n = 0 then a else (a.1 - n, a.2.shorten id n)) (lack, s)).2

/-- A channel is retired: the bandwidth falls, and deficits are posted (R178); its lines are lost, or stand in other ranges. -/
def State.retireChan (s : State) (die chan : Nat) (lost : Bool) (ranges : List (Nat × Nat)) : State :=
  ((s.setChan { s.chan die chan with retired := true, lost := lost, ranges := ranges }).logErr die 5 4 chan 0).takeBandwidth

/-- A saved team's checkpoint in the context save area lies on lines (R173). -/
def Team.savedOn (on : Nat → Bool) (t : Team) : Bool := t.saved && t.area.any fun x => (linesOf x.1 x.2.length).any on

/-- Contexts whose state is gone are never closed (R295). -/
def State.unseal (s : State) (gone : List Team) : State :=
  gone.foldl (fun s t => s.modTeam t.id fun t => { t with live := { t.live with seals := [] } }) s

/-- The copies on a channel are gone, of the records of the launches and of the durable checkpoints (R2, R6, R302). -/
def State.loseCopies (s : State) (ch : Nat) : State :=
  let cut := fun (dies chans : List Nat) => if chans.contains ch then dies.filter (· != ch / 16) else dies
  { s with
    launches := s.launches.map fun l => { l with copies := cut l.copies l.copyChans }
    teams := s.teams.map fun t => { t with durDies := cut t.durDies t.durChans } }

/-- The launches that have lost both copies of their record, or of a durable checkpoint (R303). -/
def State.bothLost (s : State) (lost : Nat → Bool) : List Nat :=
  let both := fun (ds : List Nat) => ds.all lost
  (s.launches.filter fun l => !l.status.ended && (both l.copies ||
    (l.durable && s.teams.any fun t => t.launch == l.id && both t.durDies))).map (·.id)

/-- A channel is lost (R302): its lines read as poisoned, those listed so far included. Saved teams whose save area lies on it are lost with
it, and durable launches with memory on it restart (R5); a launch whose other copy had been lost before reports DEVICE-FAILED (R303). -/
def State.loseChan (s : State) (die chan : Nat) : State :=
  if (s.chan die chan).retired then s
  else
    let on := fun l => (s.regionOf (64 * l)).isNone && s.chanOf l == 16 * die + chan
    let touched := (s.launches.filter fun l => s.onChannel on l).map (·.id)
    let lost := s.teams.filter (Team.savedOn on)
    let gone := lost ++ s.durableTeams touched
    let s := { s with poison := s.poison.filter fun l => !on l, cache := s.cache.filter fun c => !on c.1 }
    let s := ((s.unseal lost).loseCopies (16 * die + chan)).retireChan die chan true []
    let held := fun (id : Nat) => s.launches.any (fun l => l.id == id && l.copyChans.contains (16 * die + chan)) ||
      s.teams.any fun t => t.launch == id && t.durChans.contains (16 * die + chan)
    let s := ((s.bothLost fun d => !s.workingDies.contains d).filter held).foldl (fun s l => s.failKill l 6 none) s
    s.loseUnit (gone.filter fun t => (s.team? t.id).isSome) touched 1 tMchk

/-- CHANNEL_LOSS. -/
def execChannelLoss (die chan : Nat) (s : State) : Host.Outcome State Fault Refusal :=
  .next (if 4 ≤ die ∨ 16 ≤ chan then s else s.loseChan die chan)

/-- A range without another one: the pieces that are left. -/
def cutOut (r x : Nat × Nat) : List (Nat × Nat) :=
  if rangeMeets r.1 r.2 x.1 x.2 then
    [(r.1, x.1 - r.1), (x.1 + x.2, r.1 + r.2 - (x.1 + x.2))].filter fun p => p.2 != 0
  else [r]

/-- Ranges without what earlier ones of the list cover. -/
def distinctRanges (l : List (Nat × Nat)) : List (Nat × Nat) :=
  l.foldl (fun acc r => acc ++ acc.foldl (fun ps x => ps.flatMap fun p => cutOut p x) [r]) []

/-- PLANNED_CHANNEL_RETIREMENT: the contents move to the ranges named, which must hold the channel's 4 GiB, and are found there from now
on (R300, R302). -/
def execPlannedChannelRetirement (die chan : Nat) (ranges : List (Nat × Nat)) (s : State) : Host.Outcome State Fault Refusal :=
  let rs := distinctRanges ranges
  .next (if 4 ≤ die ∨ 16 ≤ chan ∨ (s.chan die chan).retired ∨ (rs.map (·.2)).sum < Config.channelBytes then s else s.retireChan die chan false rs)

/-- VERTICAL_BUS_PARITY_FAIL (R300): a log entry for each failed retry; after three, a spare lane takes over, or the channel is
retired without warning, with an entry for the retry on the spare lane where that failed. -/
def execVerticalBusParityFail (die chan lane retries : Nat) (spareFails : Bool) (s : State) : Host.Outcome State Fault Refusal :=
  let c := s.chan die chan
  if 4 ≤ die ∨ 16 ≤ chan ∨ c.retired then .next s
  else
    let s := (List.range (min retries 3)).foldl (fun s _ => s.logErr die 6 1 chan lane) s
    if retries < 3 then .next s
    else if c.spare = 0 then .next (s.loseChan die chan)
    else
      let s := (s.setChan { c with spare := c.spare - 1 }).logErr die 6 2 chan lane
      .next (if spareFails then (s.logErr die 6 1 chan lane).loseChan die chan else s)

/-- VERTICAL_LANE_RECALIBRATION (R304): traffic goes on over a spare lane, and no result or state changes. -/
def execVerticalLaneRecalibration (_die _chan _lane : Nat) (s : State) : Host.Outcome State Fault Refusal := .next s

/-! ### The NoC, dies, images, heat (R267, R303, R305, R306) -/

/-- Every context of some functions is killed and their launches fail. -/
def State.killContexts (s : State) (sel : Func → Bool) (code fcode : Nat) : State :=
  let ls := (s.launches.filter fun l => !l.status.ended && (s.func? l.vf).any sel).map (·.id)
  ls.foldl (fun s l => (s.failKill l code none).modLaunch l fun k => { k with fcode := fcode }) s

/-- The partitions that own a core now: those that hold it, in their time slice, and whose running children do not. -/
def State.ownersOf (s : State) (core : Nat) : List Nat :=
  let holds := fun (p : Part) => p.cores.getLsbD core && s.inSlice p.id
  (s.parts.filter fun p => holds p && !s.parts.any fun q => q.level != 0 && q.parent == p.id && holds q).map (·.id)

/-- NOC_CRC_FAIL (R267). -/
def execNocCrcFail (header payload : Bool) (vf core : Nat) (s : State) : Host.Outcome State Fault Refusal :=
  if header then
    let ps := s.ownersOf core
    .next ((s.logErr (core / 36) 3 3 core 0).killContexts (fun f => ps.contains f.part) 6 0)
  else if payload then .next ((s.logErr (core / 36) 2 3 core 0).killContexts (fun f => f.vf == vf) 1 tMchk)
  else .next s

/-- DIE_FAILURE (R295, R303): the launches with a team, the saved state of one, or memory on the die report DEVICE-FAILED, and so do those of which
both dies that hold a durable checkpoint, or the record, have failed; contexts of its Sealing Engine are never closed, its cores leave their
partitions and its channels are lost. -/
def execDieFailure (die : Nat) (s : State) : Host.Outcome State Fault Refusal :=
  if !s.dies.any (fun d => d.id == die && !d.failed) then .next s
  else
    let left := s.workingDies.filter (· != die)
    let on := fun l => (s.regionOf (64 * l)).isNone && s.chanOf l / 16 == die
    let here := fun (t : Team) => !t.saved && t.core / Config.coresPerDie == die || t.savedOn on
    let gone := s.teams.filter here
    let hit := (s.launches.filter fun l => gone.any (fun t => t.launch == l.id) || s.onChannel on l).map (·.id) ++ s.bothLost fun d => !left.contains d
    let s := gone.foldl (fun s t => s.killTeam t.id) (s.unseal gone)
    let s := hit.foldl (fun s l => s.failKill l 6 none) s
    let s := s.modDie die fun d => { d with failed := true, spares := [] }
    let cs := (List.range Config.coresPerDie).map (Config.coresPerDie * die + ·)
    let s := cs.foldl (fun s c => (s.modCore c fun k => { k with alive := false, elb := Config.elb, late := [] }).postCore c) s
    .next ((List.range 16).foldl (fun s c => s.loseChan die c) s)

/-! ### Links (R250, R301, R304) -/

/-- The launches that have requests under way over a link, and the teams of durable ones whose requests no other route takes. -/
def State.usersOf (s : State) (link : Nat) : List Nat × List Team :=
  let on := s.linkUsers link
  let s' := s.cut link
  let cutOff := on.filter fun q => q.msg.kind != .pull && !s'.reachable q.msg.dst
  (((on.filterMap fun q => (s.team? q.team).map (·.launch)).eraseDups),
    s.teams.filter fun t => s.durable t.launch && cutOff.any fun q => q.team == t.id)

/-- An entry of the die that a link's logic stands on; which link lane it names is free (R301; log 110). -/
def State.logLink (s : State) (kind link : Nat) : State :=
  let lane := s.choose 8
  lane.2.logErr (link / 8) 7 kind link lane.1

/-- LINK_FAILURE (R250): traffic goes on over other routes, or fails; a durable launch whose requests fail restarts (R5). -/
def execLinkFailure (link : Nat) (s : State) : Host.Outcome State Fault Refusal :=
  let u := s.usersOf (link % 32)
  .next (((s.logLink 3 (link % 32)).cut (link % 32)).loseUnit (u.2.filterMap fun t => s.team? t.id) u.1 1 0)

/-- LINK_RETRAIN: the link is treated as failed (R304); the fabric manager reloads routes once it returns. -/
def execLinkRetrain (link : Nat) (s : State) : Host.Outcome State Fault Refusal := .next ((s.logLink 1 (link % 32)).cut (link % 32))

/-! ### Images and heat (R305, R306) -/

/-- IMAGE_WRITE (R305): the standby slot holds the image once it verifies and its version is not below the anti-rollback counter. -/
def execImageWrite (engine version : Nat) (sigOk : Bool) (s : State) : Host.Outcome State Fault Refusal :=
  let i := s.image engine
  let i' := { i with standby := if sigOk && decide (i.floor ≤ version) then some version else none }
  .next (if engineCount ≤ engine then s else { s with images := (s.images.filter fun x => x.engine != engine) ++ [i'] })

/-- An engine's idle point: it has no work (R305). A core sequencer has no team on its core, a Copy Engine no entry taken, a core's Gather
Engine no command of a team there, the Collective and Re-Shard Engine no command at all, and a die's Sealing Engine none of a team there. -/
def State.idle (s : State) (engine : Nat) : Bool :=
  let there := fun (core : Nat → Bool) (t : Nat) => (s.team? t).any fun t => !t.saved && core t.core
  let sealing := fun (t : Team) => t.live.groups.any fun g => g.ops.any fun o => !o.fin && (isSealc o || isSeala o)
  if engine < 144 then s.resident engine == []
  else if engine < 288 then !s.copies.any fun c => c.core == engine - 144
  else if engine < 432 then !s.gaths.any fun c => there (· == engine - 288) c.team
  else if engine = 432 then s.colls == []
  else if engine = 433 then s.rses == []
  else !s.teams.any fun t => there (fun k => k / Config.coresPerDie == engine - 434) t.id && sealing t

/-- IMAGE_ACTIVATION (R305), at the engine's idle point: it waits for that, and while a report lists the old measurement; forced, those
functions enter ERROR. The images change places. -/
def execImageActivation (engine : Nat) (forced : Bool) (s : State) : Host.Outcome State Fault Refusal :=
  let i := s.image engine
  let listed := (s.funcs.filter Func.frozen).map (·.vf)
  match i.standby with
  | none => .next s
  | some v =>
    if listed ≠ [] ∧ !forced then .next s
    else
      let s := listed.foldl (fun s vf => s.enterError vf) s
      if !s.idle engine then .next s
      else .next { s with images := (s.images.filter fun x => x.engine != engine) ++ [{ i with active := v, standby := some i.active }] }

/-- THERMAL_LIMIT (R306). -/
def execThermalLimit (die : Nat) (above : Bool) (s : State) : Host.Outcome State Fault Refusal := .next (s.modDie die fun d => { d with hot := above })

/-- A key slot after power-on: only the sequence that is never reused (R291) and the name of the next derivation stay. -/
def KeySlot.powered (k : KeySlot) : KeySlot := ⟨k.slot, false, 0, 0, k.seq, k.gen⟩

/-- POWER_ON: the state of reset. The device's id, what the Root of Trust and the image slots keep, and what hardware has been retired
stay; so does the model's own bookkeeping. -/
def execPowerOn (s : State) : Host.Outcome State Fault Refusal :=
  .next { State.reset with
    devId := s.devId
    keySlots := s.keySlots.map KeySlot.powered
    images := s.images
    cores := s.cores.map fun k => { Core.reset k.id with phys := k.phys, alive := k.alive }
    dies := s.dies.map fun d => { Die.reset d.id with failed := d.failed, spares := d.spares }
    chans := s.chans
    agenda := s.agenda
    freeCtr := s.freeCtr
    uid := s.uid }

end Sys2Proof.Machine
end

