-- ==== Sys2Proof/Machine/Dispatch.lean ====
section
/-!
DEFINITION. One arm for each instruction and event: a direct call of its meaning.
-/
namespace Sys2Proof.Machine

def exec (i : Instr) (s : State) : Host.Outcome State Fault Refusal :=
  match i with
  | .add o => Sys2Proof.Machine.execAdd o s
  | .sub o => Sys2Proof.Machine.execSub o s
  | .mul o => Sys2Proof.Machine.execMul o s
  | .mulh o => Sys2Proof.Machine.execMulh o s
  | .fma o => Sys2Proof.Machine.execFma o s
  | .min o => Sys2Proof.Machine.execMin o s
  | .max o => Sys2Proof.Machine.execMax o s
  | .and o => Sys2Proof.Machine.execAnd o s
  | .or o => Sys2Proof.Machine.execOr o s
  | .xor o => Sys2Proof.Machine.execXor o s
  | .andn o => Sys2Proof.Machine.execAndn o s
  | .shl o => Sys2Proof.Machine.execShl o s
  | .shr o => Sys2Proof.Machine.execShr o s
  | .rot o => Sys2Proof.Machine.execRot o s
  | .cmp o => Sys2Proof.Machine.execCmp o s
  | .sel o => Sys2Proof.Machine.execSel o s
  | .cvt o => Sys2Proof.Machine.execCvt o s
  | .div o => Sys2Proof.Machine.execDiv o s
  | .rem o => Sys2Proof.Machine.execRem o s
  | .abs o => Sys2Proof.Machine.execAbs o s
  | .neg o => Sys2Proof.Machine.execNeg o s
  | .not o => Sys2Proof.Machine.execNot o s
  | .popc o => Sys2Proof.Machine.execPopc o s
  | .clz o => Sys2Proof.Machine.execClz o s
  | .brev o => Sys2Proof.Machine.execBrev o s
  | .sqrt o => Sys2Proof.Machine.execSqrt o s
  | .rcp o => Sys2Proof.Machine.execRcp o s
  | .rsq o => Sys2Proof.Machine.execRsq o s
  | .ex2 o => Sys2Proof.Machine.execEx2 o s
  | .lg2 o => Sys2Proof.Machine.execLg2 o s
  | .sin o => Sys2Proof.Machine.execSin o s
  | .cos o => Sys2Proof.Machine.execCos o s
  | .tanh o => Sys2Proof.Machine.execTanh o s
  | .rndiRn o => Sys2Proof.Machine.execRndiRn o s
  | .rndiRz o => Sys2Proof.Machine.execRndiRz o s
  | .rndiRd o => Sys2Proof.Machine.execRndiRd o s
  | .rndiRu o => Sys2Proof.Machine.execRndiRu o s
  | .fclass o => Sys2Proof.Machine.execFclass o s
  | .bfe o => Sys2Proof.Machine.execBfe o s
  | .bfi o => Sys2Proof.Machine.execBfi o s
  | .lea o => Sys2Proof.Machine.execLea o s
  | .mov o => Sys2Proof.Machine.execMov o s
  | .shfl o => Sys2Proof.Machine.execShfl o s
  | .reduce o => Sys2Proof.Machine.execReduce o s
  | .scan o => Sys2Proof.Machine.execScan o s
  | .vote o => Sys2Proof.Machine.execVote o s
  | .compress o => Sys2Proof.Machine.execCompress o s
  | .expand o => Sys2Proof.Machine.execExpand o s
  | .trn8 o => Sys2Proof.Machine.execTrn8 o s
  | .dot4 o => Sys2Proof.Machine.execDot4 o s
  | .addi o => Sys2Proof.Machine.execAddi o s
  | .andi o => Sys2Proof.Machine.execAndi o s
  | .ori o => Sys2Proof.Machine.execOri o s
  | .xori o => Sys2Proof.Machine.execXori o s
  | .shli o => Sys2Proof.Machine.execShli o s
  | .shri o => Sys2Proof.Machine.execShri o s
  | .sari o => Sys2Proof.Machine.execSari o s
  | .cmpi o => Sys2Proof.Machine.execCmpi o s
  | .movi d imm => Sys2Proof.Machine.execMovi d imm s
  | .bra o => Sys2Proof.Machine.execBra o s
  | .call d off => Sys2Proof.Machine.execCall d off s
  | .regang => Sys2Proof.Machine.execRegang s
  | .guard o => Sys2Proof.Machine.execGuard o s
  | .winb base => Sys2Proof.Machine.execWinb base s
  | .exit => Sys2Proof.Machine.execExit s
  | .trap imm => Sys2Proof.Machine.execTrap imm s
  | .nop => Sys2Proof.Machine.execNop s
  | .get d n => Sys2Proof.Machine.execGet d n s
  | .put a n => Sys2Proof.Machine.execPut a n s
  | .plop o => Sys2Proof.Machine.execPlop o s
  | .pmov o => Sys2Proof.Machine.execPmov o s
  | .rqxfer o => Sys2Proof.Machine.execRqxfer o s
  | .waitc o => Sys2Proof.Machine.execWaitc o s
  | .ret a => Sys2Proof.Machine.execRet a s
  | .brx a imm => Sys2Proof.Machine.execBrx a imm s
  | .rft => Sys2Proof.Machine.execRft s
  | .ld o => Sys2Proof.Machine.execLd o s
  | .st o => Sys2Proof.Machine.execSt o s
  | .lds o => Sys2Proof.Machine.execLds o s
  | .sts o => Sys2Proof.Machine.execSts o s
  | .ldp o => Sys2Proof.Machine.execLdp o s
  | .stp o => Sys2Proof.Machine.execStp o s
  | .atom o => Sys2Proof.Machine.execAtom o s
  | .red o => Sys2Proof.Machine.execRed o s
  | .atoms o => Sys2Proof.Machine.execAtoms o s
  | .pref a => Sys2Proof.Machine.execPref a s
  | .cctlLine a => Sys2Proof.Machine.execCctlLine a s
  | .cctlAll => Sys2Proof.Machine.execCctlAll s
  | .fenceFull sc => Sys2Proof.Machine.execFenceFull sc s
  | .fenceAcq sc => Sys2Proof.Machine.execFenceAcq sc s
  | .fenceRel sc => Sys2Proof.Machine.execFenceRel sc s
  | .phasePub sc => Sys2Proof.Machine.execPhasePub sc s
  | .phaseRef sc => Sys2Proof.Machine.execPhaseRef sc s
  | .phaseBoth sc => Sys2Proof.Machine.execPhaseBoth sc s
  | .phasePubDur sc => Sys2Proof.Machine.execPhasePubDur sc s
  | .barinit d a => Sys2Proof.Machine.execBarinit d a s
  | .bararr a => Sys2Proof.Machine.execBararr a s
  | .barexp d a => Sys2Proof.Machine.execBarexp d a s
  | .barwait d a => Sys2Proof.Machine.execBarwait d a s
  | .bartest d a => Sys2Proof.Machine.execBartest d a s
  | .barbrk a => Sys2Proof.Machine.execBarbrk a s
  | .armw d a => Sys2Proof.Machine.execArmw d a s
  | .cpyp d => Sys2Proof.Machine.execCpyp d s
  | .claim o => Sys2Proof.Machine.execClaim o s
  | .wave p loop => Sys2Proof.Machine.execWave p loop s
  | .rloop a free loop => Sys2Proof.Machine.execRloop a free loop s
  | .rlitem d loop => Sys2Proof.Machine.execRlitem d loop s
  | .rldone loop => Sys2Proof.Machine.execRldone loop s
  | .movl d lit => Sys2Proof.Machine.execMovl d lit s
  | .lde o => Sys2Proof.Machine.execLde o s
  | .atome o => Sys2Proof.Machine.execAtome o s
  | .rld o => Sys2Proof.Machine.execRld o s
  | .rst o => Sys2Proof.Machine.execRst o s
  | .ratom o => Sys2Proof.Machine.execRatom o s
  | .rflush b => Sys2Proof.Machine.execRflush b s
  | .rfencef d a b => Sys2Proof.Machine.execRfencef d a b s
  | .cas o => Sys2Proof.Machine.execCas o s
  | .cass o => Sys2Proof.Machine.execCass o s
  | .mma o => Sys2Proof.Machine.execMma o s
  | .accld o => Sys2Proof.Machine.execAccld o s
  | .accst o => Sys2Proof.Machine.execAccst o s
  | .accz tile => Sys2Proof.Machine.execAccz tile s
  | .bfpack o => Sys2Proof.Machine.execBfpack o s
  | .bfunpk o => Sys2Proof.Machine.execBfunpk o s
  | .gath d => Sys2Proof.Machine.execGath d s
  | .coll d => Sys2Proof.Machine.execColl d s
  | .rshard d => Sys2Proof.Machine.execRshard d s
  | .sealo d a => Sys2Proof.Machine.execSealo d a s
  | .seala a => Sys2Proof.Machine.execSeala a s
  | .sealc a b => Sys2Proof.Machine.execSealc a b s
  | .lnch d a q => Sys2Proof.Machine.execLnch d a q s
  | .launchRecord vf q bytes wire => Sys2Proof.Machine.execLaunchRecord vf q bytes wire s
  | .deviceMemoryWrite vf va data wire => Sys2Proof.Machine.execDeviceMemoryWrite vf va data wire s
  | .deviceMemoryReadRequest vf va len wire => Sys2Proof.Machine.execDeviceMemoryReadRequest vf va len wire s
  | .hostMemoryReadReply vf pa data wire => Sys2Proof.Machine.execHostMemoryReadReply vf pa data wire s
  | .trapReply vf token kill wire => Sys2Proof.Machine.execTrapReply vf token kill wire s
  | .killRequest vf q seq wire => Sys2Proof.Machine.execKillRequest vf q seq wire s
  | .completionCredit vf n => Sys2Proof.Machine.execCompletionCredit vf n s
  | .lockInterface vf => Sys2Proof.Machine.execLockInterface vf s
  | .getDeviceInterfaceReport vf => Sys2Proof.Machine.execGetDeviceInterfaceReport vf s
  | .startInterface vf => Sys2Proof.Machine.execStartInterface vf s
  | .stopInterface vf => Sys2Proof.Machine.execStopInterface vf s
  | .functionLevelReset vf => Sys2Proof.Machine.execFunctionLevelReset vf s
  | .spdmKeyExchange vf derived => Sys2Proof.Machine.execSpdmKeyExchange vf derived s
  | .qcfgWrite vf q value => Sys2Proof.Machine.execQcfgWrite vf q value s
  | .partitionDescriptorWrite bytes => Sys2Proof.Machine.execPartitionDescriptorWrite bytes s
  | .routeTableLoad dest entry => Sys2Proof.Machine.execRouteTableLoad dest entry s
  | .mgmtRegisterWrite reg value => Sys2Proof.Machine.execMgmtRegisterWrite reg value s
  | .teamPlacement launch cores => Sys2Proof.Machine.execTeamPlacement launch cores s
  | .groupEnd team group => Sys2Proof.Machine.execGroupEnd team group s
  | .teamEnd team => Sys2Proof.Machine.execTeamEnd team s
  | .teamRetire launch => Sys2Proof.Machine.execTeamRetire launch s
  | .escfaultTaken => Sys2Proof.Machine.execEscfaultTaken s
  | .remoteTrapTaken => Sys2Proof.Machine.execRemoteTrapTaken s
  | .sliceEnd part => Sys2Proof.Machine.execSliceEnd part s
  | .throttleReport part q => Sys2Proof.Machine.execThrottleReport part q s
  | .contextSwitch team => Sys2Proof.Machine.execContextSwitch team s
  | .rollback team => Sys2Proof.Machine.execRollback team s
  | .teamSave team => Sys2Proof.Machine.execTeamSave team s
  | .parktoExpiry launch => Sys2Proof.Machine.execParktoExpiry launch s
  | .publishComplete team lines => Sys2Proof.Machine.execPublishComplete team lines s
  | .quietReport peer team tag count => Sys2Proof.Machine.execQuietReport peer team tag count s
  | .quietReportSend src team tag => Sys2Proof.Machine.execQuietReportSend src team tag s
  | .barwaitWake team group slice => Sys2Proof.Machine.execBarwaitWake team group slice s
  | .loadComplete team group op => Sys2Proof.Machine.execLoadComplete team group op s
  | .escortLanding team group esc => Sys2Proof.Machine.execEscortLanding team group esc s
  | .copyEntryTake core => Sys2Proof.Machine.execCopyEntryTake core s
  | .copyEntryComplete cmd => Sys2Proof.Machine.execCopyEntryComplete cmd s
  | .reflectiveStoreLanding team group op target => Sys2Proof.Machine.execReflectiveStoreLanding team group op target s
  | .mxOperationComplete core => Sys2Proof.Machine.execMxOperationComplete core s
  | .remoteRequestReceipt m => Sys2Proof.Machine.execRemoteRequestReceipt m s
  | .remoteReply r => Sys2Proof.Machine.execRemoteReply r s
  | .remoteResendTimeout req => Sys2Proof.Machine.execRemoteResendTimeout req s
  | .fabricForward p => Sys2Proof.Machine.execFabricForward p s
  | .rfencefFlagWrite req => Sys2Proof.Machine.execRfencefFlagWrite req s
  | .linkFailure link => Sys2Proof.Machine.execLinkFailure link s
  | .linkRetrain link => Sys2Proof.Machine.execLinkRetrain link s
  | .collExecute found => Sys2Proof.Machine.execCollExecute found s
  | .collComplete cmd parts fail => Sys2Proof.Machine.execCollComplete cmd parts fail s
  | .gathComplete cmd rows => Sys2Proof.Machine.execGathComplete cmd rows s
  | .rshardStart cmd => Sys2Proof.Machine.execRshardStart cmd s
  | .rshardChunkComplete cmd piece chunk data fail => Sys2Proof.Machine.execRshardChunkComplete cmd piece chunk data fail s
  | .rshardStop cmd => Sys2Proof.Machine.execRshardStop cmd s
  | .sealaAbsorb team group => Sys2Proof.Machine.execSealaAbsorb team group s
  | .sealcRecord team group => Sys2Proof.Machine.execSealcRecord team group s
  | .lnchComplete team group slice => Sys2Proof.Machine.execLnchComplete team group slice s
  | .sramEccError loc correctable => Sys2Proof.Machine.execSramEccError loc correctable s
  | .cacheEccError line correctable => Sys2Proof.Machine.execCacheEccError line correctable s
  | .dramEccError line correctable => Sys2Proof.Machine.execDramEccError line correctable s
  | .verticalBusParityFail die chan lane retries spareFails => Sys2Proof.Machine.execVerticalBusParityFail die chan lane retries spareFails s
  | .nocCrcFail header payload vf core => Sys2Proof.Machine.execNocCrcFail header payload vf core s
  | .cxlPoison line => Sys2Proof.Machine.execCxlPoison line s
  | .coreLoss core => Sys2Proof.Machine.execCoreLoss core s
  | .plannedCoreRetirement core => Sys2Proof.Machine.execPlannedCoreRetirement core s
  | .plannedChannelRetirement die chan ranges => Sys2Proof.Machine.execPlannedChannelRetirement die chan ranges s
  | .channelLoss die chan => Sys2Proof.Machine.execChannelLoss die chan s
  | .dieFailure die => Sys2Proof.Machine.execDieFailure die s
  | .verticalLaneRecalibration die chan lane => Sys2Proof.Machine.execVerticalLaneRecalibration die chan lane s
  | .imageWrite engine version sigOk => Sys2Proof.Machine.execImageWrite engine version sigOk s
  | .imageActivation engine forced => Sys2Proof.Machine.execImageActivation engine forced s
  | .thermalLimit die above => Sys2Proof.Machine.execThermalLimit die above s
  | .powerOn => Sys2Proof.Machine.execPowerOn s
  | .timeSliceStart part => Sys2Proof.Machine.execTimeSliceStart part s

end Sys2Proof.Machine
end

