-- ==== Sys2Proof/Machine/Clock.lean ====
section
/-!
DEFINITION. The clock: which fragments are ready and take the issue slots of their sectors (R160 to R163).
-/
namespace Sys2Proof.Machine

/-! ### Readiness (R161) -/

/-- A mark on a fragment that its own next issue takes away. -/
def State.mark (s : State) (r : FragRef) : State :=
  { s.modTeam r.team fun t => t.modGroup r.group fun g => g.modFrag r.slice fun f => { f with replay := true } with cur := some r }

/-- A fragment stands as it stood: marked, at the same stage, in the same phase, with or without a handler. -/
def Ctx.stays (c d : Ctx) : Bool :=
  d.f.replay && d.f.wait == .run && d.f.pc == c.f.pc && d.f.stage == c.f.stage && d.t.phasen == c.t.phasen && d.t.rb == c.t.rb &&
    d.g.handler.isSome == c.g.handler.isSome

/-- The instruction of a fragment would not issue: it waits, for whatever reason (R161, R412; DEDUCED, log 99). -/
def State.waits (s : State) (c : Ctx) : Bool :=
  match c.turn with
  | .run i =>
    !i.isEvent && match exec i (s.mark c.ref) with
      | .next s' => (s'.ctx c.ref).any c.stays
      | _ => false
  | _ => false

/-! ### The slots -/

/-- A ready fragment, as the sector weighs it: rank of R162, priority, age. -/
structure Bid where
  ref : FragRef
  slot : Slot4
  handler : Bool
  starve : Nat
  prio : Nat
  age : Nat
  deriving DecidableEq, Repr

/-- The older of two fragments (R159). -/
def Bid.older (x y : Bid) : Bool :=
  if x.age ≠ y.age then decide (x.age < y.age)
  else if x.ref.group ≠ y.ref.group then decide (x.ref.group < y.ref.group)
  else decide (x.ref.slice < y.ref.slice)

/-- The order of steps 2 to 4 of R162. -/
def Bid.before (x y : Bid) : Bool :=
  let rank := fun (b : Bid) => if 64 ≤ b.starve then 0 else if b.handler then 1 else 2
  if rank x ≠ rank y then decide (rank x < rank y)
  else if rank x = 2 ∧ x.prio ≠ y.prio then decide (y.prio < x.prio)
  else x.older y

def insertBid (lt : Bid → Bid → Bool) (b : Bid) : List Bid → List Bid
  | [] => [b]
  | c :: r => if lt b c then b :: c :: r else c :: insertBid lt b r

def sortBids (lt : Bid → Bid → Bool) : List Bid → List Bid
  | [] => []
  | b :: r => insertBid lt b (sortBids lt r)

/-- The reserved handler slot comes first (R162, step 1). -/
def orderBids (l : List Bid) : List Bid :=
  match sortBids Bid.older (l.filter (·.handler)) with
  | [] => sortBids Bid.before l
  | h :: _ => h :: sortBids Bid.before (l.filter fun b => b.ref != h.ref)

/-- The first free slot that meets a need: V1 before V0, which an illegal encoding may need (log 99). -/
def pickSlot (need : Slot4) (free : List Slot4) : Option Slot4 :=
  match need with
  | .v => if free.contains .v1 then some .v1 else if free.contains .v0 then some .v0 else none
  | k => if free.contains k then some k else none

/-- Filling the slots in order: the fragments that issue, each with the slot it takes, and those that do not. -/
def fill : List Bid → List Slot4 → List Bid × List Bid
  | [], _ => ([], [])
  | b :: r, free =>
    match pickSlot b.slot free with
    | some k =>
      let x := fill r (free.erase k)
      ({ b with slot := k } :: x.1, x.2)
    | none =>
      let x := fill r free
      (x.1, b :: x.2)

/-- Every fragment of a core's sector. -/
def State.sectorRefs (s : State) (core sector : Nat) : List FragRef :=
  (s.teams.filter fun t => t.core == core && t.ready && !t.saved).flatMap fun t =>
    (t.live.groups.zipIdx.filter fun p => p.2 % 8 == sector).flatMap fun p => p.1.frags.map fun f => ⟨t.id, p.2, f.lowest⟩

def State.bid (s : State) (r : FragRef) : Option Bid :=
  (s.ctx r).bind fun c => if s.waits c then none else c.readySlot.map fun sl =>
    { ref := r, slot := sl, handler := c.inHandler, starve := c.f.starve, age := c.f.age, prio := (c.launch.map s.prioOf).getD 0 }

/-- A slot meets a need. -/
def Slot4.meets (got need : Slot4) : Bool := got == need || (need == .v && (got == .v0 || got == .v1))

/-- Starvation counts after a clock (R163); `won` leaves out the reserved handler slot, which is step 1 of R162. -/
def starveStep (won lost : List Bid) (r : FragRef) (n : Nat) : Nat :=
  match findBy (fun b : Bid => b.ref == r) lost with
  | none => 0
  | some b => if won.any fun w => w.slot.meets b.slot && decide (w.starve < 64) then n + 1 else n

/-- The slots of a sector on a clock: on a die past its temperature limit V0, V1 and X may stay empty (R306). -/
def State.slots (s : State) (core : Nat) : List Slot4 × State :=
  if s.dies.any fun d => d.id == core / 36 && d.hot then
    let v0 := s.choose 2
    let v1 := v0.2.choose 2
    let x := v1.2.choose 2
    ((if v0.1 = 0 then [] else [.v0]) ++ (if v1.1 = 0 then [] else [.v1]) ++ (if x.1 = 0 then [] else [.x]) ++ [.m], x.2)
  else ([.v0, .v1, .m, .x], s)

/-- One clock of a sector (R160 to R163): the fragments that issue. -/
def State.sectorClock (s : State) (core sector : Nat) : List Bid × State :=
  let refs := s.sectorRefs core sector
  let bids := refs.filterMap s.bid
  let first := ((sortBids Bid.older (bids.filter (·.handler))).head?).map (·.ref)
  let free := s.slots core
  let r := fill (orderBids bids) free.1
  let chosen := r.1.filter fun b => some b.ref != first
  (r.1, refs.foldl (fun s x => s.modTeam x.team fun t =>
    t.modGroup x.group fun g => g.modFrag x.slice fun f => { f with starve := starveStep chosen r.2 x f.starve }) free.2)

/-- The base of the last clock's WINB holds from now on (R461). -/
def Group.newBase (g : Group) : Group := { g with win := g.winNext.getD g.win, winNext := none }

def State.newBases (s : State) : State :=
  { s with teams := s.teams.map fun t => { t with live := { t.live with groups := t.live.groups.map Group.newBase } } }

/-- One clock: CLK and the dies' management clocks rise, and every sector fills its slots (R54, R160, R162); what issues on one clock takes
effect oldest fragment first, in every sector of a core (R159, R166, R224, R237, R412; log 99). -/
def State.tick (s : State) : State :=
  let busy := (s.teams.map (·.core)).eraseDups
  let r := busy.foldl (fun (acc : List FragRef × State) k =>
    let x := (List.range 8).foldl (fun (a : List Bid × State) i =>
      let y := a.2.sectorClock k i
      (a.1 ++ y.1, y.2)) ([], acc.2)
    (acc.1 ++ (sortBids Bid.older x.1).map (·.ref), x.2)) ([], s.newBases)
  { r.2 with
    plan := r.2.plan ++ r.1
    cores := r.2.cores.map fun k => { k with clk := (k.clk + 1) % 2 ^ 32 }
    dies := r.2.dies.map fun d => { d with clock := (d.clock + 1) % 2 ^ 64 } }

end Sys2Proof.Machine
end

