-- ==== Sys2Proof/Machine/Step.lean ====
section
/-!
DEFINITION. One step: the event that comes next (the agenda, log 9); with none, the fragment whose turn it is on this clock;
with none, the next clock.
-/
namespace Sys2Proof.Machine

/-- The turn of a fragment: the instruction that it issues, or the trap of its fetch. -/
def State.issueStep (s : State) (r : FragRef) : Host.Outcome State Fault Refusal :=
  match s.ctx r with
  | none => .next s
  | some c =>
    match c.turn with
    | .skip => .next s
    | .run i => exec i s
    | .trap t => .next (c.takeTrap t)

def step (s : State) : Host.Outcome State Fault Refusal :=
  match s.agenda with
  | e :: rest => if e.isEvent then exec e { s with agenda := rest, cur := none } else .next { s with agenda := rest }
  | [] =>
    match s.plan with
    | r :: rest => State.issueStep { s with plan := rest, cur := some r } r
    | [] => .next s.tick

/-- One instruction stored where `step` fetches next. -/
def State.withFetchWord (s : State) (_nbits w : Nat) : State := s.placeWord w

end Sys2Proof.Machine
end

