-- ==== Sys2Proof/Safety.lean ====
section
/-!
DEFINITION. What a safe run is: the machine goes on, and its tables keep their canonical form. Then the terms in which statements about
single instructions are put: that an instruction issues (R99), that the Phase Buffer and the Undo Log have room for it (R129, R138,
R140), and what it leaves alone.
-/
namespace Sys2Proof

/-- A step that neither faults nor is refused. -/
def Goes (s : Machine.State) : Prop := ∃ t, Machine.step s = .next t

/-- A safe state: memory is in canonical form and the machine goes on. -/
def Safe (s : Machine.State) : Prop := Machine.Memory.wf s.mem = true ∧ Goes s

end Sys2Proof

namespace Sys2Proof.Machine

/-- The fragment whose turn it is meets every check and wait of R99 for an instruction. -/
structure Issues (i : Instr) (s : State) (c : Ctx) : Prop where
  turn : s.cur.bind s.ctx = some c
  free : c.held = false
  paid : c.t.undoAfter = false
  legal : c.check i = none
  clear : c.blocked i = false

/-- A launch but for its event counters. -/
def Launch.uncounted (l : Launch) : Launch := { l with fpev := [], posted := [] }

/-- A function but for what it posts. -/
def Func.unposted (f : Func) : Func := { f with out := [], held := [], waiting := [], wire := [], credits := 0, token := 0, txCtr := 0 }

/-- Everything that counting events can do to the device. -/
structure State.Counted (s s' : State) : Prop where
  rest : s' = { s with launches := s'.launches, funcs := s'.funcs }
  launches : s'.launches.map Launch.uncounted = s.launches.map Launch.uncounted
  funcs : s'.funcs.map Func.unposted = s.funcs.map Func.unposted

/-- The team but for the Undo Log's records. -/
def Team.bare (t : Team) : Team := { t with undo := [] }

/-- The group but for its registers. -/
def Group.bare (g : Group) : Group := { g with v := [], s := [] }

/-- The bytes that the Undo Log's records take. -/
def Ctx.logged (c : Ctx) : Nat := (c.t.undo.map undoCost).sum

/-- Room for `n` more bytes of Undo Log records, and lines within their limit. -/
def Ctx.room (c : Ctx) (n : Nat) : Prop := c.fitsLines = true ∧ c.logged + n ≤ c.meta (·.und) * 16384

/-- Everything an instruction can do that writes only its group's own state, and counts events. -/
structure Ctx.Local (c d : Ctx) : Prop where
  s : c.s.Counted d.s
  ref : d.ref = c.ref
  t : d.t.bare = c.t.bare

/-- The group but for its registers and its reuse latch. -/
def Group.still (g : Group) : Group := { g with v := [], s := [], latch := none }

/-- The name of the first register of a v run. -/
def Group.first (g : Group) (k : Fin 96) : Nat := vName (g.win + k.val)

/-- What an instruction's result makes of the register file: `val` of the low active lane in an s run, of each active lane in a v run,
nothing in z (R45, R76). -/
def written (c : Ctx) (d : Reg) (n : Nat) (val : Nat → Nat) (b m : Nat) : Word :=
  match d with
  | .z => c.g.getId b m
  | .s k => if k.val + 1 ≤ b ∧ b < k.val + 1 + n ∧ c.act ≠ [] then BitVec.ofNat 32 (val c.low / 2 ^ (32 * (b - (k.val + 1)))) else c.g.getId b m
  | .v k => if c.g.first k ≤ b ∧ b < c.g.first k + n ∧ m ∈ c.act then BitVec.ofNat 32 (val m / 2 ^ (32 * (b - c.g.first k)))
      else c.g.getId b m

/-- The whole effect of an instruction that writes registers: the device becomes `s'` and the latch `k`; the program counter and the
window move on; register `b` (by name, R45) holds `val b m` in lane `m` afterwards; every predicate, special register and table of the
group, every other group and the rest of the team stay, but for the Undo Log's records. -/
structure Wrote (i : Instr) (c e : Ctx) (s' : State) (k : Option Latch) (val : Nat → Nat → Word) : Prop where
  device : e.s = s'
  ref : e.ref = c.ref
  team : e.t.bare = c.t.bare
  frag : e.f = (c.advance i).f
  latch : e.g.latch = k
  regs : ∀ b m, 1 ≤ b → m < 32 → e.g.getId b m = val b m
  group : e.g.still = c.g.still

/-- The whole effect of an instruction that writes one predicate in its active lanes (R52), and leaves the rest as it is. -/
structure SetPred (i : Instr) (c e : Ctx) (s' : State) (k : Option Latch) (pd : Nat) (val : Nat → Bool) : Prop where
  device : e.s = s'
  ref : e.ref = c.ref
  team : e.t.bare = c.t.bare
  frag : e.f = (c.advance i).f
  preds : ∀ q l, l < 32 → (e.g.pred q).getLsbD l = if q = pd ∧ l ∈ c.act then val l else (c.g.pred q).getLsbD l
  group : { e.g with p := [] } = { c.g with p := [], latch := k }

/-- The device after an instruction has counted events in some lanes, in order (R212, R214): `ev` are format numbers with event numbers. -/
def Ctx.counted (c : Ctx) (ls : List Nat) (ev : Nat → List (Nat × List Nat)) : State :=
  (ls.flatMap ev).foldl (fun s p => s.countEv c.t.launch c.t.idx c.ref.group p.1 p.2) c.s

end Sys2Proof.Machine
end

