-- ==== Sys2Proof/Certificates/Slice0/Obligations.lean ====
section
/-!
DEFINITION. The statements for the provers. `Issues i s c` says that the fragment whose turn it is, with its working copies `c`, meets every
check and wait of R99 for `i`; `c.room n` that the Phase Buffer's lines are within their limit and the Undo Log has room for `n` more
bytes. A state after an instruction is `e.commit`: the working copies `e` written back into the team, the rest of the device being `e.s`.
-/
open Sys2Proof Sys2Proof.Machine

namespace Sys2Proof.Statements

/-! ### The values of class 00 -/

/-- The value of an operand of an integer type. -/
def iv (t : Ty) (x : Nat) : Int := asInt (tySigned t) (tyBits t) x

/-- The three-register rows over an integer type: operands, registers of b, and the result from a, b and the old d, computed exactly and
wrapped to the width (R199). -/
def intRow : Instr → Option (Alu3 × Nat × (Nat → Nat → Nat → Int))
  | .add o => some (o, o.ty.regs, fun x y _ => iv o.ty x + iv o.ty y)
  | .sub o => some (o, o.ty.regs, fun x y _ => iv o.ty x - iv o.ty y)
  | .mul o => some (o, o.ty.regs, fun x y _ => iv o.ty x * iv o.ty y)
  | .mulh o => some (o, o.ty.regs, fun x y _ => iv o.ty x * iv o.ty y / (2 ^ tyBits o.ty : Nat))
  | .fma o => some (o, o.ty.regs, fun x y z => iv o.ty x * iv o.ty y + iv o.ty z)
  | .min o => some (o, o.ty.regs, fun x y _ => min (iv o.ty x) (iv o.ty y))
  | .max o => some (o, o.ty.regs, fun x y _ => max (iv o.ty x) (iv o.ty y))
  | .and o => some (o, o.ty.regs, fun x y _ => (x &&& y : Nat))
  | .or o => some (o, o.ty.regs, fun x y _ => (x ||| y : Nat))
  | .xor o => some (o, o.ty.regs, fun x y _ => (x ^^^ y : Nat))
  | .andn o => some (o, o.ty.regs, fun x y _ => (x &&& (2 ^ tyBits o.ty - 1 - y % 2 ^ tyBits o.ty) : Nat))
  | .shl o => some (o, 1, fun x y _ => iv o.ty x * (2 ^ (y % tyBits o.ty) : Nat))
  | .shr o => some (o, 1, fun x y _ => iv o.ty x / (2 ^ (y % tyBits o.ty) : Nat))
  | .rot o => some (o, 1, fun x y _ => (x * 2 ^ (y % tyBits o.ty) + x / 2 ^ (tyBits o.ty - y % tyBits o.ty) : Nat))
  | .div o => some (o, o.ty.regs, fun x y _ => if iv o.ty y = 0 then -1 else (iv o.ty x).tdiv (iv o.ty y))
  | .rem o => some (o, o.ty.regs, fun x y _ => if iv o.ty y = 0 then iv o.ty x else (iv o.ty x).tmod (iv o.ty y))
  | _ => none

/-- The unary rows over an integer type: operands, registers of d, and the result (R309, R338, R347, R406, R408, R414). -/
def intUnary : Instr → Option (Alu2 × Nat × (Nat → Nat))
  | .abs o => some (o, o.ty.regs, fun x => wrapTo (tyBits o.ty) (iv o.ty x).natAbs)
  | .neg o => some (o, o.ty.regs, fun x => wrapTo (tyBits o.ty) (-(iv o.ty x)))
  | .not o => some (o, o.ty.regs, fun x => 2 ^ tyBits o.ty - 1 - x)
  | .popc o => some (o, 1, fun x => (List.range (tyBits o.ty)).countP x.testBit)
  | .clz o => some (o, 1, fun x => (List.range (tyBits o.ty)).countP fun i => decide (x < 2 ^ i))
  | .brev o => some (o, o.ty.regs, fun x =>
      ((List.range (tyBits o.ty)).map fun i => if x.testBit (tyBits o.ty - 1 - i) then 2 ^ i else 0).sum)
  | _ => none

/-- The three-register rows over the float types, element by element (R198, R199, R314, R364, R378, R401). -/
def floatRow : Instr → Option (Alu3 × (Fmt → Nat → Nat → Nat → FRes))
  | .add o => some (o, fun m x y _ => m.add x y)
  | .sub o => some (o, fun m x y _ => m.sub x y)
  | .mul o => some (o, fun m x y _ => m.mul x y)
  | .div o => some (o, fun m x y _ => m.div x y)
  | .min o => some (o, fun m x y _ => m.minmax false x y)
  | .max o => some (o, fun m x y _ => m.minmax true x y)
  | .fma o => some (o, fun m x y z => m.fma x y z)
  | _ => none

/-- The unary rows over the float types. ABS and NEG touch the sign bit alone and count nothing (R309, R407). -/
def floatUnary : Instr → Option (Alu2 × (Fmt → Nat → FRes))
  | .abs o => some (o, fun m x => (x % 2 ^ (m.width - 1), []))
  | .neg o => some (o, fun m x => (x ^^^ 2 ^ (m.width - 1), []))
  | .sqrt o => some (o, fun m x => m.sqrt x)
  | .rcp o => some (o, fun m x => m.rcp x)
  | .rndiRn o => some (o, fun m x => m.rndi .rn x)
  | .rndiRz o => some (o, fun m x => m.rndi .rz x)
  | .rndiRd o => some (o, fun m x => m.rndi .rd x)
  | .rndiRu o => some (o, fun m x => m.rndi .ru x)
  | .rsq o => some (o, fun m x => if o.ty.isPacked then fnElem .rsq m x else fnF32 .rsq x)
  | .ex2 o => some (o, fun m x => if o.ty.isPacked then fnElem .ex2 m x else fnF32 .ex2 x)
  | .lg2 o => some (o, fun m x => if o.ty.isPacked then fnElem .lg2 m x else fnF32 .lg2 x)
  | .sin o => some (o, fun m x => if o.ty.isPacked then fnElem .sin m x else fnF32 .sin x)
  | .cos o => some (o, fun m x => if o.ty.isPacked then fnElem .cos m x else fnF32 .cos x)
  | .tanh o => some (o, fun m x => if o.ty.isPacked then fnElem .tanh m x else fnF32 .tanh x)
  | _ => none

/-- The result of a whole value, or of the two 16-bit elements of a packed one (R79), with the events by format; `f m k` is that of element
`k`. -/
def elements (t : Ty) (f : Fmt → Nat → FRes) : Nat × List (Nat × List Nat) :=
  let m := tyFmt t
  if t.isPacked then ((f m 0).1 + 65536 * (f m 1).1, [(m.code, (f m 0).2), (m.code, (f m 1).2)])
  else ((f m 0).1, [(m.code, (f m 0).2)])

/-- Element `k` of an operand: the value itself, or a 16-bit half of a packed one. -/
def elem (t : Ty) (x k : Nat) : Nat := if t.isPacked then x / 65536 ^ k % 65536 else x

/-- A condition on two integers (R81). -/
def intTest (c : Cond) (x y : Int) : Bool :=
  match c with
  | .eq => decide (x = y)
  | .ne => decide (x ≠ y)
  | .lt => decide (x < y)
  | .le => decide (x ≤ y)
  | .gt => decide (y < x)
  | .ge => decide (y ≤ x)
  | .num => true
  | .nan => false

/-- The one-register-immediate rows (R316, R402, R403, R410, R437, R452). -/
def immRow : Instr → Option (Reg × Reg × (Word → Word))
  | .addi o => some (o.d, o.a, fun x => x + o.imm.signExtend 32)
  | .andi o => some (o.d, o.a, fun x => x &&& o.imm.signExtend 32)
  | .ori o => some (o.d, o.a, fun x => x ||| o.imm.signExtend 32)
  | .xori o => some (o.d, o.a, fun x => x ^^^ o.imm.signExtend 32)
  | .shli o => some (o.d, o.a, fun x => BitVec.ofNat 32 (x.toNat * 2 ^ o.amt.toNat))
  | .shri o => some (o.d, o.a, fun x => BitVec.ofNat 32 (x.toNat / 2 ^ o.amt.toNat))
  | .sari o => some (o.d, o.a, fun x => BitVec.ofInt 32 (x.toInt / 2 ^ o.amt.toNat))
  | .movi d v => some (d, .z, fun _ => v.signExtend 32)
  | .movl d v => some (d, .z, fun _ => v)
  | _ => none

/-- The moves of whole registers: destination, operand a, reuse flag, registers, and the value in a lane from operand a. -/
def moveRow (c : Ctx) : Instr → Option (Reg × Reg × Bool × Nat × ((Nat → Nat) → Nat → Nat))
  | .mov o => some (o.d, o.a, o.r, o.w.regs, fun x l => x l)
  | .sel o => some (o.d, o.a, o.r, 1, fun x l => if (c.g.pred o.p).getLsbD l then x l else (c.word o.b l).toNat)
  | .lea o => some (o.d, o.a, o.r, 2, fun x l => wrapTo 64 ((x l : Int) + (c.word o.b l).toInt * (2 ^ o.sh.val : Nat)))
  | .dot4 o => some (o.d, o.a, o.r, 1, fun x l => wrapTo 32 ((c.word o.d l).toNat +
      ((List.range 4).map fun k => asInt (o.m != .nn) 8 (x l / 256 ^ k % 256) *
        asInt (o.m == .ss) 8 ((c.word o.b l).toNat / 256 ^ k % 256)).sum))
  | .shfl o => some (o.d, o.a, o.r, 1, fun x l => x (shflSrc o.m c.g.tilew l (c.word o.b l).toNat))
  | .trn8 o => some (o.d, o.a, o.r, 8, fun x l =>
      let n := match o.m with | .e32 => 8 | .e16 => 16 | .e8 => 32
      ((List.range n).map fun e => x (l / n * n + e) / 2 ^ (256 / n * (l % n)) % 2 ^ (256 / n) * 2 ^ (256 / n * e)).sum)
  | _ => none

end Sys2Proof.Statements

open Sys2Proof.Statements

/-- ADD, SUB, MUL, MULH, FMA, MIN, MAX, the bitwise rows, the shifts, DIV and REM on S32, N32, S64 and N64 (R199, R310, R314, R364, R378, R397,
R405, R410, R424, R444, R451): every instruction that issues completes with the exact result wrapped to the width. -/
def Sys2Proof.Statements.IntegerRows : Prop := ∀ (i : Instr) (o : Alu3) (nb : Nat) (f : Nat → Nat → Nat → Int) (s : State) (c : Ctx),
  intRow i = some (o, nb, f) → o.ty.isInt = true → Issues i s c → c.room (136 * o.ty.regs) →
    ∃ e : Ctx, exec i s = .next e.commit ∧
      Wrote i c e c.s (c.readA o.r o.a o.ty.regs).1.g.latch (written c o.d o.ty.regs fun l =>
        wrapTo (tyBits o.ty) (f ((c.readA o.r o.a o.ty.regs).2 l) (c.rd o.b nb l) (c.rd o.d o.ty.regs l)))

/-- ABS and NEG wrap at the minimum; NOT, POPC, CLZ and BREV work bit by bit, and CLZ of 0 is the width. -/
def Sys2Proof.Statements.IntegerUnary : Prop := ∀ (i : Instr) (o : Alu2) (n : Nat) (f : Nat → Nat) (s : State) (c : Ctx),
  intUnary i = some (o, n, f) → o.ty.isInt = true → Issues i s c → c.room (136 * n) →
    ∃ e : Ctx, exec i s = .next e.commit ∧
      Wrote i c e c.s (c.readA o.r o.a o.ty.regs).1.g.latch (written c o.d n fun l => f ((c.readA o.r o.a o.ty.regs).2 l))

/-- BFE and BFI (R334, R335): position b[7:0], length b[15:8], cut at the width; bits past the field are the sign of an S field or 0 in BFE,
and d's own in BFI. -/
def Sys2Proof.Statements.BitFields : Prop := ∀ (o : Alu3) (ins : Bool) (s : State) (c : Ctx),
  let i : Instr := if ins then .bfi o else .bfe o
  Issues i s c → c.room (136 * o.ty.regs) →
    ∃ (e : Ctx) (val : Nat → Nat), exec i s = .next e.commit ∧
      Wrote i c e c.s (c.readA o.r o.a o.ty.regs).1.g.latch (written c o.d o.ty.regs val) ∧
      ∀ l k, k < tyBits o.ty →
        let x := (c.readA o.r o.a o.ty.regs).2 l
        let pos := (c.word o.b l).toNat % 256
        let len := min ((c.word o.b l).toNat / 256 % 256) (tyBits o.ty - pos)
        (val l).testBit k =
          if ins then (if pos ≤ k ∧ k < pos + len then x.testBit (k - pos) else (c.rd o.d o.ty.regs l).testBit k)
          else if k < len then x.testBit (pos + k)
          else tySigned o.ty && decide (0 < len) && x.testBit (pos + len - 1)

/-- The float rows, F16x2 and BF16x2 included: each element's result in the low active lane or in every active lane, and the events of all
the lanes in ascending order, the low element's first (R198, R212, R314). -/
def Sys2Proof.Statements.FloatRows : Prop := ∀ (i : Instr) (o : Alu3) (f : Fmt → Nat → Nat → Nat → FRes) (s : State) (c : Ctx),
  floatRow i = some (o, f) → o.ty.isInt = false → Issues i s c → c.room (136 * o.ty.regs) →
    let res := fun l => elements o.ty (fun m k => f m (elem o.ty ((c.readA o.r o.a o.ty.regs).2 l) k) (elem o.ty (c.rd o.b o.ty.regs l) k)
      (elem o.ty (c.rd o.d o.ty.regs l) k))
    ∃ e : Ctx, exec i s = .next e.commit ∧
      Wrote i c e (c.counted (c.lanes o.d) fun l => (res l).2) (c.readA o.r o.a o.ty.regs).1.g.latch
        (written c o.d o.ty.regs fun l => (res l).1)

/-- The unary float rows: SQRT, RCP, RNDI, the functions of R206, and the sign rows ABS and NEG. RSQ, EX2, LG2, SIN, COS and TANH: each picks
its bits within the bound of R206, the same ones for the same operand, which is log 21 (DESIGN CHOICE); which lanes an event counts in is log 35
(DEDUCED). -/
def Sys2Proof.Statements.FloatUnary : Prop := ∀ (i : Instr) (o : Alu2) (f : Fmt → Nat → FRes) (s : State) (c : Ctx),
  floatUnary i = some (o, f) → o.ty.isInt = false → Issues i s c → c.room (136 * o.ty.regs) →
    let res := fun l => elements o.ty (fun m k => f m (elem o.ty ((c.readA o.r o.a o.ty.regs).2 l) k))
    ∃ e : Ctx, exec i s = .next e.commit ∧
      Wrote i c e (c.counted (c.lanes o.d) fun l => (res l).2) (c.readA o.r o.a o.ty.regs).1.g.latch
        (written c o.d o.ty.regs fun l => (res l).1)

/-- FCLASS writes a word with exactly one of bits 9:0 set (R374), counts nothing, and sorts a value by its class: NaNs into bits 0 and 1 by
the quiet bit, −∞ into bit 2, +∞ into bit 9. -/
def Sys2Proof.Statements.FloatClass : Prop := ∀ (o : Alu2) (s : State) (c : Ctx), Issues (.fclass o) s c → c.room 136 →
  ∃ (e : Ctx) (k : Nat → Nat), exec (.fclass o) s = .next e.commit ∧
    Wrote (.fclass o) c e c.s (c.readA o.r o.a o.ty.regs).1.g.latch (written c o.d 1 fun l => 2 ^ k l) ∧
    ∀ l,
      let x := (c.readA o.r o.a o.ty.regs).2 l % 2 ^ (tyFmt o.ty).width
      let sub := decide (x / 2 ^ (tyFmt o.ty).fb % 2 ^ (tyFmt o.ty).eb = 0)
      k l = match (tyFmt o.ty).val x with
        | .nan sig => if sig then 0 else 1
        | .inf neg => if neg then 2 else 9
        | .fin neg m _ => if m = 0 then (if neg then 5 else 6) else if neg then (if sub then 4 else 3) else (if sub then 7 else 8)

/-- CVT (R361): each lane's result of its own source, and the lane's generator steps once under SR and not otherwise (R204). -/
def Sys2Proof.Statements.Convert : Prop := ∀ (o : CvtOps) (s : State) (c : Ctx), Issues (.cvt o) s c → c.room (136 * o.dt.regs) →
  let seed := fun l => if o.rm = .sr then xorshift (look c.g.rng l) else look c.g.rng l
  let res := fun l => cvt o.dt o.st o.rm (draw (seed l)) (c.rd o.a o.st.regs l)
  ∃ e : Ctx, exec (.cvt o) s = .next e.commit ∧
    (∀ l, look e.g.rng l = if l ∈ c.lanes o.d then seed l else look c.g.rng l) ∧
    Wrote (.cvt o) { c with g := { c.g with rng := e.g.rng } } e (c.counted (c.lanes o.d) fun l => [((res l).2.2, (res l).2.1)])
      c.g.latch (written c o.d o.dt.regs fun l => (res l).1)

/-- An integer to integer conversion wraps under rounding code 000 and saturates under 110, and counts nothing (R361). -/
def Sys2Proof.Statements.IntegerConversion : Prop := ∀ (dt st : NumTy) (sat : Bool) (rnd x : Nat), dt.isInt = true → st.isInt = true →
  let v := asInt (numSigned st) (numBits st) x
  let r := cvt dt st (if sat then .rnsat else .rn) rnd x
  r.2.1 = [] ∧ asInt (numSigned dt) (numBits dt) r.1 =
    if sat then max (intMin (numSigned dt) (numBits dt)) (min v (intMax (numSigned dt) (numBits dt)))
    else asInt (numSigned dt) (numBits dt) (v % (2 ^ numBits dt : Nat)).toNat

/-- The immediate forms: an 11-bit or 18-bit immediate is sign-extended, MOVL's literal is the whole word (R316, R402, R403, R410, R437, R452). -/
def Obligations.Immediates : Prop := ∀ (i : Instr) (d a : Reg) (f : Word → Word) (s : State) (c : Ctx),
  immRow i = some (d, a, f) → Issues i s c → c.room 136 →
    ∃ e : Ctx, exec i s = .next e.commit ∧ Wrote i c e c.s c.g.latch (written c d 1 fun l => (f (c.word a l)).toNat)

/-- MOV, SEL, LEA, DOT4, SHFL and TRN8: sources are read before the destination is written, in lanes that may be inactive (SHFL, TRN8), and
nothing is counted (R366, R396, R404, R441, R443, R456). -/
def Obligations.Moves : Prop := ∀ (i : Instr) (d a : Reg) (r : Bool) (n : Nat) (f : (Nat → Nat) → Nat → Nat) (s : State) (c : Ctx),
  moveRow c i = some (d, a, r, n, f) → Issues i s c → c.room (136 * n) →
    ∃ e : Ctx, exec i s = .next e.commit ∧ Wrote i c e c.s (c.readA r a n).1.g.latch (written c d n (f (c.readA r a n).2))

/-- The integer rows of class 00: three registers (R199, R310, R314, R364, R378, R397, R405, R410, R424, R444, R451), one register
(R309, R338, R347, R406, R408, R414) and the bit fields (R334, R335). -/
def Obligations.IntegerResults : Prop := Statements.IntegerRows ∧ Statements.IntegerUnary ∧ Statements.BitFields

/-- The float rows of class 00: three registers, one register, and FCLASS (R198, R199, R206, R212, R374). The bits of RSQ, EX2, LG2, SIN, COS and
TANH within their bound are log 21 (DESIGN CHOICE), the lanes of an event log 35 (DEDUCED). -/
def Obligations.FloatResults : Prop := Statements.FloatRows ∧ Statements.FloatUnary ∧ Statements.FloatClass

/-- BFPACK and BFUNPK (R228, R229, R337): one or two records in each active lane, record `j` from `elems` F32 registers, or element `k` of the
records into register `k`; SR draws from the lane's generator. Both runs must lie in the group's registers. -/
def Sys2Proof.Statements.BlockConversions : Prop := ∀ (o : BfOps) (pack : Bool) (s : State) (c : Ctx),
  let i : Instr := if pack then .bfpack o else .bfunpk o
  let recs := if o.two then 2 else 1
  let na := recs * if pack then o.fmt.elems else o.fmt.regs
  let nd := recs * if pack then o.fmt.regs else o.fmt.elems
  let x := fun l => c.rd o.a na l
  let word := fun (l k : Nat) => x l / 2 ^ (32 * k) % 2 ^ 32
  let first := fun l => blockPack o.fmt o.rm ((List.range o.fmt.elems).map (word l)) (look c.g.rng l)
  let second := fun l => blockPack o.fmt o.rm ((List.range o.fmt.elems).map fun k => word l (o.fmt.elems + k)) (first l).2
  let record := fun (l j : Nat) => x l / 2 ^ (32 * o.fmt.regs * j) % 2 ^ (8 * o.fmt.bytes)
  Issues i s c → c.room (136 * nd) → c.act ≠ [] →
    if c.g.win + Reg.num o.a + na ≤ c.g.alloc ∧ c.g.win + Reg.num o.d + nd ≤ c.g.alloc then
      ∃ e : Ctx, exec i s = .next e.commit ∧
        (∀ l, look e.g.rng l = if pack = true ∧ l ∈ c.act then (if o.two then (second l).2 else (first l).2) else look c.g.rng l) ∧
        Wrote i { c with g := { c.g with rng := e.g.rng } } e c.s c.g.latch (written c o.d nd fun l =>
          if pack then (first l).1 + if o.two then 2 ^ (32 * o.fmt.regs) * (second l).1 else 0
          else ((List.range (recs * o.fmt.elems)).map fun k =>
            2 ^ (32 * k) * (Fmt.f32.ofVal .rn 0 (blockVal o.fmt (record l (k / o.fmt.elems)) (k % o.fmt.elems))).1).sum)
    else exec i s = .next (c.takeTrap (trapAt 8 0 c.mask))

/-- CVT, and the block conversions BFPACK and BFUNPK. -/
def Obligations.Conversions : Prop := Statements.Convert ∧ Statements.IntegerConversion ∧ Statements.BlockConversions
/-! ### Predicates -/

/-- CMP and CMPI (R81, R85, R351, R352): the condition in each active lane; a signalling NaN counts one invalid event in its lane. -/
def Sys2Proof.Statements.Compare : Prop :=
  (∀ (o : CmpOps) (s : State) (c : Ctx), Issues (.cmp o) s c → c.room 12 →
    let x := fun l => (c.readA o.r o.a o.ty.regs).2 l
    let y := fun l => c.rd o.b o.ty.regs l
    let fx := fun l => (tyFmt o.ty).val (x l)
    let fy := fun l => (tyFmt o.ty).val (y l)
    ∃ e : Ctx, exec (.cmp o) s = .next e.commit ∧
      SetPred (.cmp o) c e (c.counted c.act fun l => [((tyFmt o.ty).code, if o.ty.isInt then [] else sigEv [fx l, fy l])])
        (c.readA o.r o.a o.ty.regs).1.g.latch o.p fun l =>
        if o.ty.isInt then intTest o.c (iv o.ty (x l)) (iv o.ty (y l)) else fcond o.c (fx l) (fy l)) ∧
  (∀ (o : CmpiOps) (s : State) (c : Ctx), Issues (.cmpi o) s c → c.room 12 →
    ∃ e : Ctx, exec (.cmpi o) s = .next e.commit ∧
      SetPred (.cmpi o) c e c.s c.g.latch o.p fun l =>
        let x := c.word o.a l
        let y := o.imm.signExtend 32
        match o.c with
        | .eq => decide (x = y)
        | .ne => decide (x ≠ y)
        | .lt => decide (x.toInt < y.toInt)
        | .le => decide (x.toInt ≤ y.toInt)
        | .gt => decide (y.toInt < x.toInt)
        | .ge => decide (y.toInt ≤ x.toInt)
        | .lo => decide (x.toNat < y.toNat)
        | .hs => decide (y.toNat ≤ x.toNat))

/-- PLOP and PMOV (R86, R413, R415): the truth table's entry, bit 2 × pa + pb, in each active lane; a word that is not 0 sets a lane's bit;
a predicate moves whole to and from an s register. -/
def Sys2Proof.Statements.PredicateMoves : Prop :=
  (∀ (o : PlopOps) (s : State) (c : Ctx), Issues (.plop o) s c → c.room 12 →
    ∃ e : Ctx, exec (.plop o) s = .next e.commit ∧
      SetPred (.plop o) c e c.s c.g.latch o.pd fun l =>
        o.tt.getLsbD (2 * ((c.g.pred o.pa).getLsbD l).toNat + ((c.g.pred o.pb).getLsbD l).toNat)) ∧
  (∀ (o : PmovOps) (s : State) (c : Ctx), Issues (.pmov o) s c → c.room 136 →
    ∃ e : Ctx, exec (.pmov o) s = .next e.commit ∧
      match o.m with
      | .pv => SetPred (.pmov o) c e c.s c.g.latch o.p fun l => decide (c.word o.a l ≠ 0)
      | .ps => SetPred (.pmov o) c e c.s c.g.latch o.p fun l => (c.word o.a l).getLsbD l
      | .vp => Wrote (.pmov o) c e c.s c.g.latch (written c o.d 1 fun l => ((c.g.pred o.p).getLsbD l).toNat)
      | .sp => Wrote (.pmov o) c e c.s c.g.latch (written c o.d 1 fun _ => (c.g.pred o.p).toNat))

/-! ### Across lanes -/

/-- VOTE (R458): in each tile of a v destination, or once over the active lanes for s and z (z: DESIGN CHOICE, log 101); a tile without an active
lane sets CFLAGS.E and is not written, while an s destination is written with the empty vote. -/
def Sys2Proof.Statements.Votes : Prop := ∀ (o : VoteOps) (s : State) (c : Ctx), Issues (.vote o) s c → c.room 136 → c.busy o.d 1 = false →
  let vote := fun (base : Nat) (tile : List Nat) =>
    let yes := tile.filter (c.g.pred o.p).getLsbD
    match o.m with
    | .any => if yes = [] then 0 else 1
    | .all => if yes = tile then 1 else 0
    | .ballot => (yes.map fun l => 2 ^ (l - base)).sum
    | .count => yes.length
  let w := c.g.tilew
  let vacant := if o.d.isV then (List.range (32 / w)).any fun t => decide (c.tileActs w t = []) else decide (c.act = [])
  ∃ e : Ctx, exec (.vote o) s = .next e.commit ∧
    Wrote (.vote o) { c with g := { c.g with cflags := c.g.cflags ||| (if vacant then 1 else 0) } } e c.s c.g.latch fun b m =>
      match o.d with
      | .z => c.g.getId b m
      | .s k => if b = 1 + k.val then BitVec.ofNat 32 (vote 0 c.act) else c.g.getId b m
      | .v k => if b = c.g.first k ∧ m ∈ c.act ∧ m / w < 32 / w then BitVec.ofNat 32 (vote (m / w * w) (c.tileActs w (m / w)))
          else c.g.getId b m

/-- REDUCE (R197, R209, R210, R211, R425), with the tree of R209 over the active lanes of each tile in ascending order, or over all the active lanes
for an s destination; the operand of a lone lane as R197 writes a float result (log 102); an empty tile sets CFLAGS.E (an s destination then holds
the identity); an integer sum that leaves its type's range sets CFLAGS.V. -/
def Sys2Proof.Statements.Reduce : Prop := ∀ (o : ReduceOps) (s : State) (c : Ctx), Issues (.reduce o) s c → c.room (136 * o.ty.regs) →
  c.busy o.d o.ty.regs = false →
  let w := c.g.tilew
  let x := (c.readA o.r o.a o.ty.regs).2
  let tiles := if o.d.isS then [c.act] else (List.range (32 / w)).map (c.tileActs w)
  let red := fun (tile : List Nat) => match tile with
    | [] => (redId o.op o.ty, [])
    | [l] => loneVal o.ty (x l)
    | _ => treeOf (redStep o.op o.ty) 5 (tile.map x)
  let vacant := tiles.any fun t => decide (t = [])
  let leaves := tiles.any fun t => decide (t ≠ []) && o.ty.isInt && o.op == .add && sumLeaves o.ty (t.map x)
  ∃ e : Ctx, exec (.reduce o) s = .next e.commit ∧
    Wrote (.reduce o)
      { c with g := { c.g with cflags := c.g.cflags ||| (if vacant then 1 else 0) ||| (if leaves then 2 else 0) } } e
      (tiles.foldl (fun st t => st.countEv c.t.launch c.t.idx c.ref.group (tyFmt o.ty).code (red t).2) c.s)
      (c.readA o.r o.a o.ty.regs).1.g.latch fun b m =>
      match o.d with
      | .z => c.g.getId b m
      | .s k => if 1 + k.val ≤ b ∧ b < 1 + k.val + o.ty.regs then BitVec.ofNat 32 ((red c.act).1 / 2 ^ (32 * (b - (1 + k.val))))
          else c.g.getId b m
      | .v k => if c.g.first k ≤ b ∧ b < c.g.first k + o.ty.regs ∧ m ∈ c.act ∧ m / w < 32 / w
          then BitVec.ofNat 32 ((red (c.tileActs w (m / w))).1 / 2 ^ (32 * (b - c.g.first k))) else c.g.getId b m

/-- For the integer types and the bitwise operations the tree of R209 gives what a plain fold from the left gives: the order of the lanes'
grouping does not show, and nothing is counted. -/
def Sys2Proof.Statements.IntegerTree : Prop := ∀ (op : RedOp) (t : Ty) (xs : List Nat), t.isInt = true → xs ≠ [] → xs.length ≤ 32 →
  (∀ x ∈ xs, x < 2 ^ tyBits t) →
    treeOf (redStep op t) 5 xs = (xs.tail.foldl (fun a x => (redStep op t a x).1) (xs.headD 0), [])

/-- SCAN on integer types (R209, R439): entry `k` of the doubling prefix is the plain fold of the first `k + 1` values. -/
def Sys2Proof.Statements.IntegerPrefix : Prop := ∀ (op : RedOp) (t : Ty) (xs : List Nat) (k : Nat), t.isInt = true → k < xs.length → xs.length ≤ 32 →
  (∀ x ∈ xs, x < 2 ^ tyBits t) →
    (scanOf (redStep op t) 5 1 xs).1.getD k 0 = ((xs.take (k + 1)).tail.foldl (fun a x => (redStep op t a x).1) (xs.headD 0)) ∧
      (scanOf (redStep op t) 5 1 xs).2 = []

/-- SCAN (R197, R209, R211, R439): position `j` of a tile's active lanes takes entry `j` of the prefix, or of the prefix shifted by the identity
under X; the first entry is the first operand as R197 writes a float result (log 102); other lanes keep what they hold. -/
def Sys2Proof.Statements.Scans : Prop := ∀ (o : ScanOps) (s : State) (c : Ctx), Issues (.scan o) s c → c.room (136 * o.ty.regs) →
  let w := c.g.tilew
  let x := (c.readA o.r o.a o.ty.regs).2
  let tiles := (List.range (32 / w)).map (c.tileActs w)
  let pre := fun (t : List Nat) =>
    let q := scanOf (redStep o.op o.ty) 5 1 (t.map x)
    match t with
    | [] => q
    | l :: _ => ((loneVal o.ty (x l)).1 :: q.1.tail, (loneVal o.ty (x l)).2 ++ q.2)
  let vacant := tiles.any fun t => decide (t = [])
  let leaves := tiles.any fun t => o.ty.isInt && o.op == .add &&
    (List.range t.length).any fun k => sumLeaves o.ty ((t.map x).take (k + 1))
  ∃ e : Ctx, exec (.scan o) s = .next e.commit ∧
    Wrote (.scan o)
      { c with g := { c.g with cflags := c.g.cflags ||| (if vacant then 1 else 0) ||| (if leaves then 2 else 0) } } e
      (tiles.foldl (fun st t => st.countEv c.t.launch c.t.idx c.ref.group (tyFmt o.ty).code (pre t).2) c.s)
      (c.readA o.r o.a o.ty.regs).1.g.latch fun b m =>
      match o.d with
      | .v k =>
        let t := c.tileActs w (m / w)
        let out := if o.excl then redId o.op o.ty :: (pre t).1 else (pre t).1
        if c.g.first k ≤ b ∧ b < c.g.first k + o.ty.regs ∧ m ∈ c.act ∧ m / w < 32 / w
          then BitVec.ofNat 32 (out.getD (t.idxOf m) 0 / 2 ^ (32 * (b - c.g.first k))) else c.g.getId b m
      | _ => c.g.getId b m

/-- COMPRESS and EXPAND (R357, R372). COMPRESS packs the selected lanes' values into the low positions of their tile, inactive lanes included,
and zeroes the rest; EXPAND deals the low positions of a tile out to its selected lanes and zeroes the other active ones. Both count the
selected lanes of all the tiles into b. -/
def Sys2Proof.Statements.Packing : Prop := ∀ (o : SelOps) (out : Bool) (s : State) (c : Ctx),
  let i : Instr := if out then .expand o else .compress o
  Issues i s c → c.room 272 → c.busy o.b 1 = false →
  let w := c.g.tilew
  let x := (c.readA o.r o.a 1).2
  let sel := fun t => (c.tileActs w t).filter (c.g.pred o.p).getLsbD
  let vacant := (List.range (32 / w)).any fun t => decide (c.tileActs w t = [])
  let packed := fun (b m : Nat) =>
    match o.d with
    | .v k =>
      if b = c.g.first k ∧ m / w < 32 / w ∧ c.tileActs w (m / w) ≠ [] ∧ (out → m ∈ c.act) then
        if out then (if m ∈ sel (m / w) then BitVec.ofNat 32 (x (m / w * w + (sel (m / w)).idxOf m)) else 0)
        else BitVec.ofNat 32 (((sel (m / w))[m % w]?.map x).getD 0)
      else c.g.getId b m
    | _ => c.g.getId b m
  ∃ e : Ctx, exec i s = .next e.commit ∧
    Wrote i { c with g := { c.g with cflags := c.g.cflags ||| (if vacant then 1 else 0) } } e c.s (c.readA o.r o.a 1).1.g.latch fun b m =>
      match o.b with
      | .s q => if b = 1 + q.val then BitVec.ofNat 32 ((List.range (32 / w)).map fun t => (sel t).length).sum else packed b m
      | _ => packed b m

/-- What writes a predicate register, or reads one into a register: CMP, CMPI, PLOP, PMOV. -/
def Obligations.Comparisons : Prop := Statements.Compare ∧ Statements.PredicateMoves

/-- VOTE, COMPRESS and EXPAND over the tiles of TILEW. VOTE with d = z works once over the active lanes (DESIGN CHOICE, log 101). -/
def Obligations.VotesAndPacking : Prop := Statements.Votes ∧ Statements.Packing

/-- REDUCE and SCAN over the tiles of TILEW. A lone lane's operand and the first entry of a SCAN come out as R197 writes a float result (DEDUCED,
log 102). -/
def Obligations.Reductions : Prop := Statements.Reduce ∧ Statements.Scans

/-- On integers the tree and the doubling prefix of R209 are plain folds. -/
def Obligations.IntegerFolds : Prop := Statements.IntegerTree ∧ Statements.IntegerPrefix
/-! ### Special registers -/

/-- Rows of R54 that the group and the team hold, with the value in a lane. -/
def Sys2Proof.Statements.specials (c : Ctx) (l : Nat) : List (Nat × Word) :=
  [(0x000, BitVec.ofNat 32 l), (0x001, BitVec.ofNat 32 (l / 4)), (0x002, BitVec.ofNat 32 c.ref.group),
   (0x003, BitVec.ofNat 32 c.g.role.toNat), (0x010, BitVec.ofNat 32 c.g.tilew), (0x011, c.g.cflags.zeroExtend 32),
   (0x012, look c.g.rng l), (0x013, BitVec.ofNat 32 c.t.phasen), (0x015, BitVec.ofNat 32 c.g.escu),
   (0x020, BitVec.ofNat 32 c.g.trap.code), (0x021, c.g.trap.pc.truncate 32), (0x022, c.g.trap.addr.truncate 32),
   (0x023, (c.g.trap.addr >>> 32).truncate 32), (0x024, c.g.trap.lanes), (0x025, c.g.trap.aux0), (0x026, c.g.trap.aux1),
   (0x027, c.g.trap.aux2), (0x060, BitVec.ofNat 32 c.s.devId)]

/-- GET (R54, R382): every listed register reads in every active lane, or once into an s register; those that the group and the team hold
read as `specials` says. -/
def Sys2Proof.Statements.SpecialReads : Prop := ∀ (d : Reg) (n : BitVec 11) (s : State) (c : Ctx), Issues (.get d n) s c → c.room 136 →
  (∃ e : Ctx, exec (.get d n) s = .next e.commit ∧
    Wrote (.get d n) c e c.s c.g.latch (written c d 1 fun l => (c.special n.toNat l).toNat)) ∧
  ∀ l, ∀ p ∈ specials c l, c.special p.1 l = p.2

/-- PUT (R54, R418): TILEW takes 2, 4, 8, 16 or 32, CFLAGS its two bits, RNGSEED each active lane's own value with 0 replaced by 1, TRAPPC an
aligned word in its low half, its bits 51:32 staying (DEDUCED, log 16); any other TILEW or a misaligned TRAPPC is ILLEGAL with reason 7. Nothing
else changes, and with no lane active nothing at all. -/
def Sys2Proof.Statements.SpecialWrites : Prop := ∀ (a : Reg) (n : BitVec 11) (s : State) (c : Ctx), Issues (.put a n) s c → c.room 0 →
  let i : Instr := .put a n
  let d := c.advance i
  let x := c.word a c.low
  let ill := c.takeTrap (illegal (encode i) 7 c.mask)
  if c.act = [] then exec i s = .next d.commit
  else
    (n = 0x010 → exec i s = .next (if x ∈ [2, 4, 8, 16, 32] then ({ d with g := { d.g with tilew := x.toNat } } : Ctx).commit else ill)) ∧
    (n = 0x011 → exec i s = .next ({ d with g := { d.g with cflags := x.truncate 2 } } : Ctx).commit) ∧
    (n = 0x012 → ∃ r : Store 32, exec i s = .next ({ d with g := { d.g with rng := r } } : Ctx).commit ∧
      ∀ l, look r l = if l ∈ c.act then (if c.word a l = 0 then 1 else c.word a l) else look c.g.rng l) ∧
    (n = 0x021 → exec i s = .next (if x &&& 3 = 0 then
        ({ d with g := { d.g with trap := { d.g.trap with pc := ((d.g.trap.pc >>> 32) ++ x).truncate 52 } } } : Ctx).commit else ill))

/-! ### Control flow -/

/-- BRA (R21, R22, R23): a slice takes the branch by its active lanes' predicate bits; the fragment moves whole, falls through whole, or
splits in two of the same age with starvation counts of 0. The offset counts words from the branch itself. -/
def Obligations.Branches : Prop := ∀ (o : BraOps) (s : State) (c : Ctx), Issues (.bra o) s c → c.room 0 →
  let d := c.advance (.bra o)
  let target := c.f.pc + BitVec.ofInt 52 (4 * o.off.toInt)
  let bits := fun k => (c.act.filter fun l => decide (l / 4 = k)).map (c.g.pred o.p).getLsbD
  let takes := fun k => match o.m with
    | .always => true
    | .any => (bits k).any id
    | .all => (bits k).all id
    | .none => (bits k).all not
  ∃ take stay : BitVec 8, (∀ k, k < 8 → take.getLsbD k = (c.f.slices.getLsbD k && takes k)) ∧
    (∀ k, k < 8 → stay.getLsbD k = (c.f.slices.getLsbD k && !takes k)) ∧
    exec (.bra o) s = .next (
      if take = 0 then d.commit
      else if stay = 0 then ({ d with f := { d.f with pc := target } } : Ctx).commit
      else
        let go : Frag := { d.f with slices := take, pc := target, starve := 0 }
        let rest : Frag := { d.f with slices := stay, starve := 0 }
        let mine := take.getLsbD c.ref.slice
        ({ d with f := if mine then go else rest, g := { d.g with frags := d.g.frags ++ [if mine then rest else go] } } : Ctx).commit)

/-- CALL (R340): the address of the next instruction goes into the s pair, the pc to the target; a write of a register leaves everything
else alone. -/
def Sys2Proof.Statements.Calls : Prop := ∀ (k : Fin 31) (off : BitVec 18) (s : State) (c : Ctx), Issues (.call (.s k) off) s c → c.room 272 →
  let i : Instr := .call (.s k) off
  ∃ e : Ctx, exec i s = .next e.commit ∧ e.f = { (c.advance i).f with pc := c.f.pc + BitVec.ofInt 52 (4 * off.toInt) } ∧
    Wrote i c { e with f := (c.advance i).f } c.s c.g.latch fun b m =>
      if b = 1 + k.val then (c.f.pc + 4).truncate 32 else if b = 2 + k.val then ((c.f.pc + 4) >>> 32).truncate 32 else c.g.getId b m

/-- RET and BRX (R340, R428, R74): the pc becomes bits 51:0 of the s pair, plus four times BRX's immediate; one that is no multiple of 4 traps
with ALIGN, its address in TRAPADDR and the pc unchanged. -/
def Sys2Proof.Statements.Jumps : Prop := ∀ (a : Reg) (imm : Option (BitVec 11)) (s : State) (c : Ctx),
  let i : Instr := match imm with
    | none => .ret a
    | some x => .brx a x
  let target := BitVec.ofNat 52 (c.rd a 2 0) + BitVec.ofInt 52 (4 * (imm.map (·.toInt)).getD 0)
  Issues i s c → c.room 0 →
    (target.toNat % 4 = 0 → exec i s = .next ({ c.advance i with f := { (c.advance i).f with pc := target } } : Ctx).commit) ∧
    (target.toNat % 4 ≠ 0 → exec i s = .next (c.takeTrap (trapAt tAlign target.toNat c.mask)))

/-- NOP, GUARD and WAITC (R29, R72, R384): NOP advances and no more; GUARD suspends the lanes whose predicate is clear, or set under its
negation, for one to four instructions; WAITC, past its checks, advances where every class with a threshold below 7 has come down to it, and
waits otherwise. -/
def Sys2Proof.Statements.ControlWaits : Prop :=
  (∀ (s : State) (c : Ctx), Issues .nop s c → c.room 0 → exec .nop s = .next (c.advance .nop).commit) ∧
  (∀ (o : GuardOps) (s : State) (c : Ctx), Issues (.guard o) s c → c.room 0 →
    ∃ m : LaneMask, (∀ l, l < 32 → m.getLsbD l = (decide (l ∈ c.act) && ((c.g.pred o.p).getLsbD l != o.neg))) ∧
      exec (.guard o) s = .next ({ c.advance (.guard o) with
        f := { (c.advance (.guard o)).f with guard := some (m, o.cnt.toNat + 1) } } : Ctx).commit) ∧
  (∀ (o : WaitcOps) (s : State) (c : Ctx), s.cur.bind s.ctx = some c → c.held = false → c.t.undoAfter = false → c.check (.waitc o) = none →
    c.ordered = false → c.room 0 → exec (.waitc o) s = .next (
      if (o.ld = 7 ∨ c.g.count .ld ≤ o.ld.toNat) ∧ (o.st = 7 ∨ c.g.count .st ≤ o.st.toNat) ∧ (o.cp = 7 ∨ c.g.count .cp ≤ o.cp.toNat) ∧
         (o.mx = 7 ∨ c.g.count .mx ≤ o.mx.toNat) ∧ (o.ga = 7 ∨ c.g.count .ga ≤ o.ga.toNat) ∧ (o.co = 7 ∨ c.g.count .co ≤ o.co.toNat) ∧
         (o.es = 7 ∨ c.g.count .es ≤ o.es.toNat) ∧ (o.rm = 7 ∨ c.g.count .rm ≤ o.rm.toNat)
      then (c.advance (.waitc o)).commit else s))

/-- REGANG (R26): the fragment parks at the instruction; once every other fragment of the group is parked or waits at a barrier or for the
host, the fragments parked at the lowest REGANG become one, past it, with all their slices and the least age. -/
def Sys2Proof.Statements.Regang : Prop := ∀ (s : State) (c : Ctx), Issues .regang s c → c.room 0 →
  let park := { (c.advance .regang).f with pc := c.f.pc, wait := .regang }
  let g := ({ c with f := park } : Ctx).group
  ∃ h : Group, exec .regang s = .next ({ c with g := h, f := (h.frag? c.ref.slice).getD park } : Ctx).commit ∧
    { h with frags := [] } = { c.g with frags := [] } ∧
    if g.frags.any Frag.runnable ∨ ¬ g.frags.any (fun x => decide (x.wait = .regang)) then h.frags = g.frags
    else
      let at' := fun (f : Frag) => decide (f.wait = .regang ∧
        ∀ x ∈ g.frags, x.wait = .regang → f.pc.toNat ≤ x.pc.toNat)
      ∃ f : Frag, h.frags = f :: g.frags.filter (fun x => !at' x) ∧ f.wait = .run ∧ f.guard = none ∧
        (∀ x ∈ g.frags, at' x = true → f.pc = BitVec.ofNat 52 (x.pc.toNat + 4)) ∧
        (∀ k, f.slices.getLsbD k = (g.frags.filter at').any fun x => x.slices.getLsbD k) ∧
        (∀ x ∈ g.frags, at' x = true → f.age ≤ x.age)

/-- WINB (R16, R48, R461): a group that has executed the pending transfer keeps what it holds, any other holds its role's budget. A base whose 96
registers lie within that moves the window and clears the latch, and registers that the group gains hold free values; any other base traps with
REGRANGE. While other fragments of the group have still to issue on this clock they keep the old base, and the new one holds from the next clock
on; a clock that passes puts every such base in force. -/
def Sys2Proof.Statements.Window : Prop :=
  (∀ (base : BitVec 4) (s : State) (c : Ctx), Issues (.winb base) s c → c.room 0 →
    let held := if c.t.live.quota.isSome = true ∧ c.g.xferDone = true then c.g.alloc else c.t.live.budgets.getD c.g.role.toNat 0
    let d := c.advance (.winb base)
    let move := fun (g : Group) =>
      if c.s.plan.any (fun r => r.team == c.ref.team && r.group == c.ref.group) then { g with winNext := some (32 * base.toNat), latch := none }
      else { g with win := 32 * base.toNat, winNext := none, latch := none }
    (32 * base.toNat + 96 ≤ held → held ≤ c.g.alloc →
      exec (.winb base) s = .next ({ d with g := move { d.g with alloc := held } } : Ctx).commit) ∧
    (32 * base.toNat + 96 ≤ held → c.g.alloc < held → ∃ (n : Nat) (v : Store 32),
      exec (.winb base) s = .next ({ d with s := { c.s with freeCtr := n }, g := move { d.g with alloc := held, v := v } } : Ctx).commit ∧
      ∀ k, k < 32 * c.g.alloc → look v k = look c.g.v k) ∧
    (held < 32 * base.toNat + 96 → exec (.winb base) s = .next (c.takeTrap (trapAt tRegrange 0 c.mask)))) ∧
  (∀ s : State, s.agenda = [] → s.plan = [] → ∃ t, step s = .next t ∧
    ∀ id x, s.team? id = some x → ∃ y, t.team? id = some y ∧ ∀ (k : Nat) (g : Group), x.live.groups[k]? = some g →
      ∃ h, y.live.groups[k]? = some h ∧ h.win = g.winNext.getD g.win ∧ h.winNext = none)

/-- RQXFER (R13 to R16) where its checks pass: the group gives up the registers from the new limit, and once every live group of the source role
has done so the budgets move by eight registers a unit; until then the quota word counts the groups that have. Where the spec leaves a
choice: log 15. -/
def Sys2Proof.Statements.QuotaTransfer : Prop := ∀ (o : RqxferOps) (s : State) (c : Ctx), Issues (.rqxfer o) s c → c.room 0 →
  let n := 8 * o.cnt.toNat
  let limit := c.t.live.budgets.getD o.src.toNat 0 - n
  c.t.live.groups.any (fun g => g.role == o.dst) = true → c.t.live.quota = none → n + 96 ≤ c.t.live.budgets.getD o.src.toNat 0 →
  c.t.live.budgets.getD o.dst.toNat 0 + n ≤ 480 → c.g.sb.all (fun id => decide (id < vName limit)) = true → c.g.win + 96 ≤ limit →
    ∃ s' t' g', exec (.rqxfer o) s = .next s' ∧ s' = { c.s with teams := s'.teams } ∧ s'.team? c.ref.team = some t' ∧
      t'.live.groups[c.ref.group]? = some g' ∧ g'.alloc = min c.g.alloc limit ∧ (∀ k, k < 32 * limit → look g'.v k = look c.g.v k) ∧
      let others := c.t.live.groups.zipIdx.any fun p => p.2 != c.ref.group && p.1.role == o.src && p.1.alive && !p.1.xferDone
      (others = true → t'.live.quota = some ⟨o.src, o.dst, o.cnt.toNat, 1⟩ ∧ t'.live.budgets = c.t.live.budgets) ∧
      (others = false → t'.live.quota = none ∧
        ∀ r : Role, t'.live.budgets.length = 3 → t'.live.budgets.getD r.toNat 0 =
          if r = o.src then limit else if r = o.dst then c.t.live.budgets.getD r.toNat 0 + n else c.t.live.budgets.getD r.toNat 0)

/-- EXIT (R20, R243, R369): the active lanes leave the group and their items with them; a slice without lanes leaves its fragment. -/
def Obligations.Exits : Prop := ∀ (s : State) (c : Ctx), Issues .exit s c → c.room 0 →
  ∃ s' : State, exec .exit s = .next s' ∧
    (c.act = [] → s' = (c.advance .exit).commit) ∧
    (c.act ≠ [] → s' = { c.s with teams := s'.teams } ∧ ∃ t' g', s'.team? c.ref.team = some t' ∧ t'.live.groups[c.ref.group]? = some g' ∧
      (∀ l, l < 32 → g'.live.getLsbD l = (c.g.live.getLsbD l && !decide (l ∈ c.act))) ∧
      (∀ x ∈ g'.slots, x.lane ∉ c.act) ∧ g'.v = c.g.v ∧ g'.s = c.g.s ∧ g'.p = c.g.p ∧
      (∀ f ∈ g'.frags, ∀ k, k < 8 → f.slices.getLsbD k = true → ∃ l, l / 4 = k ∧ g'.live.getLsbD l = true))

/-- GET and PUT over the table of R54. That a PUT of TRAPPC keeps its bits 51:32 is log 16 (DEDUCED). -/
def Obligations.SpecialRegisters : Prop := Statements.SpecialReads ∧ Statements.SpecialWrites

/-- CALL, RET and BRX. -/
def Obligations.CallsAndJumps : Prop := Statements.Calls ∧ Statements.Jumps

/-- NOP, GUARD, WAITC and REGANG. -/
def Obligations.Waits : Prop := Statements.ControlWaits ∧ Statements.Regang

/-- WINB and RQXFER. -/
def Obligations.RegisterBudgets : Prop := Statements.Window ∧ Statements.QuotaTransfer
/-! ### Traps -/

/-- R98, R99, R100: a broken encoding check traps with ILLEGAL before the role, privilege and dynamic checks; TRAPAUX0 and TRAPAUX1 hold the
instruction's words (0 for a missing one), TRAPAUX2 the lowest reason that applies; the instruction has no other effect. Where the spec
leaves a choice: log 17. -/
def Sys2Proof.Statements.IllegalEncoding : Prop := ∀ (i : Instr) (r : Nat) (s : State) (c : Ctx), i.isEvent = false →
  s.cur.bind s.ctx = some c → c.held = false → c.t.undoAfter = false →
  lowestOf [i.reason, if c.f.guard.isSome && !windowOk i then some 6 else none] = some r →
    exec i s = .next (c.takeTrap { code := 1, addr := 0, lanes := c.mask, aux0 := BitVec.ofNat 32 ((encode i).getD 0 0)
                                   aux1 := BitVec.ofNat 32 ((encode i).getD 1 0), aux2 := BitVec.ofNat 32 r, pc := none })

/-- R11, R99, R429: then the role (code 2), then the privilege (code 12): RFT, a GET of 0x020 to 0x027 and a PUT of 0x021 outside a handler. -/
def Sys2Proof.Statements.RoleAndPrivilege : Prop := ∀ (i : Instr) (s : State) (c : Ctx), i.isEvent = false →
  s.cur.bind s.ctx = some c → c.held = false → c.t.undoAfter = false →
  lowestOf [i.reason, if c.f.guard.isSome && !windowOk i then some 6 else none] = none →
    let wrong := match i with
      | .mma _ | .accld _ | .accst _ | .accz _ | .bfpack _ | .bfunpk _ => c.g.role ≠ .matrix
      | .cpyp _ | .gath _ | .coll _ | .rshard _ | .sealo .. | .seala _ | .sealc .. => c.g.role ≠ .copy
      | .rqxfer o => c.g.role ≠ o.src
      | _ => False
    (wrong → exec i s = .next (c.takeTrap (trapAt 2 0 c.mask))) ∧
    ((i = .rft ∨ (∃ d n, i = .get d n ∧ 0x020 ≤ n.toNat ∧ n.toNat ≤ 0x027) ∨ (∃ a, i = .put a 0x021)) → c.inHandler = false →
      exec i s = .next (c.takeTrap (trapAt 12 0 c.mask)))

/-- TRAP (R454) asks the host with code 0x800 + imm, TRAPPC being the address after it; with no active lane it is a NOP. -/
def Sys2Proof.Statements.SoftwareTrap : Prop := ∀ (imm : BitVec 11) (s : State) (c : Ctx), Issues (.trap imm) s c → c.room 0 →
  (c.act = [] → exec (.trap imm) s = .next (c.advance (.trap imm)).commit) ∧
  (c.act ≠ [] → exec (.trap imm) s = .next (c.takeTrap
    { code := 0x800 + imm.toNat, addr := 0, lanes := c.mask, aux0 := BitVec.ofNat 32 imm.toNat, aux1 := 0, aux2 := 0, pc := some (c.f.pc + 4) }))

/-- Taking a trap that the host resolves (R164, R165, R168, R170): the trap registers, the save area s23 to s30, p6 and p7 and the suspended
window are written, the fragment parks for the host, and every register, predicate and byte of memory stays. Where the spec leaves a choice:
log 17; that the handler has posted its event and parked in the step that takes the trap is log 93 (DESIGN CHOICE). -/
def Obligations.TrapEntry : Prop := ∀ (s : State) (c : Ctx) (tr : Trap), s.cur.bind s.ctx = some c → c.g.handler = none →
  hostAssisted tr = true →
    ∃ t' g' h, (c.takeTrap tr).team? c.ref.team = some t' ∧ t'.live.groups[c.ref.group]? = some g' ∧
      g'.handler = some h ∧
      g'.trap = ⟨tr.code, tr.pc.getD c.f.pc, BitVec.ofNat 52 tr.addr, tr.lanes, tr.aux0, tr.aux1, tr.aux2⟩ ∧
      h.slice = c.f.lowest ∧ h.back = c.f.pc ∧ h.saved = [23, 24, 25, 26, 27, 28, 29, 30].map (look c.g.s) ∧ h.savedP = [6, 7].map (look c.g.p) ∧
      h.token = some ((c.func.map (·.token)).getD 0) ∧
      (∀ f ∈ g'.frags, f.lowest = c.ref.slice → f = { c.f with guard := none, wait := .host, stage := 0 }) ∧
      g'.v = c.g.v ∧ g'.s = c.g.s ∧ g'.p = c.g.p ∧ g'.live = c.g.live ∧ g'.latch = none ∧
      c.takeTrap tr = { s with teams := (c.takeTrap tr).teams, funcs := (c.takeTrap tr).funcs }

/-- A trap that the handler does not resolve, and any trap of the handler's own instruction (R43, R101, R168): the launch reports FAULTED with
the team's index and the code, unless it has ended before; no team of it keeps running. That this happens in the step that takes the trap,
with no handler code run, is log 93 (DESIGN CHOICE). -/
def Obligations.UnresolvedTrap : Prop := ∀ (s : State) (c : Ctx) (tr : Trap), s.cur.bind s.ctx = some c →
  (c.g.handler = none ∧ hostAssisted tr = false ∨ c.inHandler = true) →
    (c.takeTrap tr).team? c.ref.team = none ∧
    (∀ t ∈ (c.takeTrap tr).teams, t.launch = c.t.launch → t.running = false) ∧
    ∀ l, c.launch = some l → l.status.ended = false →
      ∃ l', (c.takeTrap tr).launch? c.t.launch = some l' ∧ l'.status = .failed 1 ∧ l'.fteam = BitVec.ofNat 32 c.t.idx ∧ l'.fcode = tr.code

/-- RFT (R165, R429) of a handler that owes no reissue: save area and window come back, the pc is TRAPPC, and nothing else changes. -/
def Sys2Proof.Statements.TrapReturn : Prop := ∀ (s : State) (c : Ctx) (h : Handler), Issues .rft s c → c.room 0 → c.g.handler = some h → h.retry = false →
  ∃ (sr : Store 32) (pr : Store 32),
    exec .rft s = .next ({ c with
      g := { c.g with handler := none, s := sr, p := pr }
      f := { (c.advance .rft).f with pc := c.g.trap.pc, guard := h.guard, wait := .run } } : Ctx).commit ∧
    (∀ k, look sr k = if 23 ≤ k ∧ k < 23 + h.saved.length then h.saved.getD (k - 23) 0 else look c.g.s k) ∧
    (∀ k, look pr k = if 6 ≤ k ∧ k < 6 + h.savedP.length then h.savedP.getD (k - 6) 0 else look c.g.p k)

/-- R49, R71, R99 (check 5), R147, R148: an instruction that has passed checks 1 to 4 waits, and nothing changes, while a register that it names is
scoreboarded, while its counter is full, while an acquiring load or a remote atomic of its group is under way, while an operation of its group that
a cell K of the matrices names is, and while an interlock of its own holds (the A run of an MMA, room in the copy ring and in CP for a CPYP, an s
result, the counters of a WAITC, the pending transfer and the released registers of an RQXFER). With no lane active the first two do not hold it
(log 22); for the cells see log 51. -/
def Sys2Proof.Statements.Interlocks : Prop := ∀ (i : Instr) (s : State) (c : Ctx), i.isEvent = false →
  s.cur.bind s.ctx = some c → c.held = false → c.t.undoAfter = false → c.check i = none → (∀ d, i = .cpyp d → earlyCpyp d c = none) →
  (c.act ≠ [] ∧ ((∃ r ∈ instrRuns i, ∃ id ∈ c.runIds r.1 r.2, id ∈ c.g.sb) ∨ ∃ k, instrClass i = some k ∧ 64 ≤ c.g.count k)) ∨
    c.ordered = true ∨ c.kept i = true ∨ c.interlock i = true →
    exec i s = .next s

/-- The checks of R99 in their order: encoding and window, role, privilege, and the waits. -/
def Obligations.IssueChecks : Prop := Statements.IllegalEncoding ∧ Statements.RoleAndPrivilege ∧ Statements.Interlocks

/-- TRAP and RFT. -/
def Obligations.TrapAndReturn : Prop := Statements.SoftwareTrap ∧ Statements.TrapReturn
/-! ### Loads and stores -/

namespace Sys2Proof.Statements

/-- What posting a load does: the operation counts in LD, its destination's names are held in the scoreboard, and no register, predicate or
byte of memory changes yet. A read of the snapshot or of host memory may touch the snapshot, the free-value counter and the transport. -/
structure LoadPosted (i : Instr) (c e : Ctx) (o : LoadOp) : Prop where
  ref : e.ref = c.ref
  device : { e.s with uid := c.s.uid, freeCtr := c.s.freeCtr, cores := c.s.cores, funcs := c.s.funcs, hostWait := c.s.hostWait } = c.s
  team : { e.t with undo := c.t.undo, snap := c.t.snap, snapMark := c.t.snapMark } = c.t
  frag : e.f = (c.advance i).f
  group : { e.g with ops := c.g.ops, sb := c.g.sb } = c.g
  held : ∀ r, r ∈ e.g.sb ↔ r ∈ c.g.sb ∨ r ∈ o.dst
  posted : (⟨c.s.uid, .ld, c.t.phasen, false, .load o⟩ : Op) ∈ e.g.ops
  older : ∀ x ∈ c.g.ops, x.fin = false → x ∈ e.g.ops

/-- Bytes from address `a` on, each of which some version of memory up to now holds there, or the team's snapshot (R130, R131). -/
def heldBytes (s : State) (snap : Store 9) (a n : Nat) (bs : List Byte) : Prop := bs.length = n ∧ ∀ k (h : k < bs.length),
  (∃ v, v ≤ s.ver ∧ bs[k] = s.byteAt v (a + k)) ∨ (snapHas snap ((a + k) / 8 * 8) = true ∧ bs[k] = snapGet snap (a + k))

/-- What the team's own items, in their order, make of the 8-byte granules that an access of `n` bytes at `a` meets, cut to the access (R130,
R422). -/
def ownView (t : Team) (lane a n : Nat) (granule : List Byte) : List Byte :=
  (((t.ownItems lane (a / 8 * 8) (8 * (granules a n).length)).foldl (applyItem (a / 8 * 8)) granule).drop (a - a / 8 * 8)).take n

/-- The lanes of a load at its issue: each is settled, or is still to be read and has no item of the team over its bytes. A settled lane reads
the team's own items over bytes that memory or the snapshot holds; `fresh` says that the load has refreshed. -/
def settled (c : Ctx) (fresh : Bool) (n : Nat) (lanes : List Nat) (pa : Nat → Nat) (inv : Nat → Bool) (vals : List (Nat × List Byte))
    (rest : List LaneAcc) : Prop :=
  (∀ l ∈ lanes, (∃ bs, (l, bs) ∈ vals) ∨ ⟨l, pa l, inv l⟩ ∈ rest) ∧
  (∀ x ∈ rest, x.lane ∈ lanes ∧ x.addr = pa x.lane ∧ x.inv = inv x.lane ∧ c.t.ownItems (32 * c.ref.group + x.lane) x.addr n = []) ∧
  ∀ p ∈ vals, p.1 ∈ lanes ∧ ∃ base, heldBytes c.s (if fresh then [] else c.t.snap) (pa p.1 / 8 * 8) (8 * (granules (pa p.1) n).length) base ∧
    p.2 = ownView c.t (32 * c.ref.group + p.1) (pa p.1) n base

/-- A refresh at a load's issue discards the snapshot: what it holds afterwards is memory as it stands (R132). Without one what it held stays. -/
def refreshed (c e : Ctx) (fresh : Bool) : Prop :=
  if fresh then e.t.snapMark = c.s.ver ∧ ∀ a, snapHas e.t.snap a = true → snapGet e.t.snap a = c.s.byteAt c.s.ver a
  else e.t.snapMark = c.t.snapMark ∧ ∀ a, snapHas c.t.snap (a / 8 * 8) = true → look e.t.snap a = look c.t.snap a

/-- The pending items of a team as a publish hands them over (R136, R422): a store as it is, and a reduction of GROUP or TEAM scope as the store of
what it makes of the team's view, unless it has met poison. -/
def handed (s : State) (t : Team) (old : List PbItem) : Prop := old.length = t.pb.length ∧
  ∀ (k : Nat) (i x : PbItem), t.pb[k]? = some i → old[k]? = some x →
    match i with
    | .red a w op v _ true => (x = i ∧ s.poisoned a (atomBytes w) = true) ∨ ∃ bs, heldBytes s t.snap (a / 8 * 8) 8 bs ∧
        let seen := (((t.drain.map (·.item)) ++ old.take k).filter fun j => j.meets (a / 8 * 8) 8).foldl (applyItem (a / 8 * 8)) bs
        x = .st a (leBytes (atomBytes w) (atomicOp op w (leNat ((seen.drop (a - a / 8 * 8)).take (atomBytes w))) v.toNat).1)
    | _ => x = i

/-- A publish of phase `k` has nothing left to wait for at its scope (R136): the engines have read what its commands name, its lines have left
the core, or reached the host where the scope asks it, and so have its remote stores. -/
def pubOver (s : State) (t : Team) (k : Nat) (sc : Scope) : Prop := s.engineBusy t k = false ∧
  match sc with
  | .group | .team => True
  | .part | .device => ∀ i ∈ t.drain, i.phase ≤ k → s.regionOf i.item.addr = some .host
  | .domain => (∀ i ∈ t.drain, i.phase ≤ k → s.regionOf i.item.addr = some .host) ∧ (∀ x ∈ t.rstOut, k < x.1) ∧
      t.quietAt (k % 2 == 1) = true
  | .system => (∀ i ∈ t.drain, k < i.phase) ∧ (∀ x ∈ t.rstOut, k < x.1) ∧ t.quietAt (k % 2 == 1) = true ∧ s.hostUp t = true

/-- The function has a fabric key (R251). -/
abbrev keyed (c : Ctx) : Prop := (c.func.map (·.xwkey)).getD 0 ≠ 0

/-- A request of the instruction: to a peer, of a kind, under the function's fabric key and the phase's tag. -/
structure Asks (c : Ctx) (phase : Nat) (kind : MsgKind) (peer len : Nat) (lanes : List MsgLane) (r : RemReq) : Prop where
  kind : r.msg.kind = kind
  src : r.msg.src = c.s.devId
  dst : r.msg.dst = peer
  key : r.msg.key = (c.func.map (·.xwkey)).getD 0
  team : r.msg.team = c.t.id ∧ r.team = c.t.id
  tag : r.msg.tag = (phase % 2 == 1)
  len : r.msg.len = len
  lanes : r.msg.lanes = lanes
  phase : r.phase = phase
  resends : r.resends = 0

/-- A message to another device has left on the route that the table gives it (R249). -/
def left (s s' : State) (m : Msg) : Prop := m.dst ≠ s.devId → ∀ alt link, s.route m.dst = some (alt, link) →
  (link, 0, { m with alt := alt, hop := 0 }) ∈ s'.netOut

/-- Nothing holds back what a phase has written: no engine command of the team is under way, no entry of its ring is still to be taken, and no
remote load of it is under way (R136, R148). -/
def unheld (c : Ctx) : Prop := (∀ g ∈ c.t.live.groups, ∀ o ∈ g.ops, o.engine = false ∧ o.remoteLoad = false) ∧
  (∀ x ∈ c.s.copies, x.team ≠ c.t.id) ∧ c.s.untaken c.t = none

/-- The beginning of a publish of the current phase (R136): the Phase Buffer's items go to the drain in order, the remote stores leave for their
peers as soon as they may, and where there is nothing to wait for the publish is over at once. Memory and the registers stay. -/
structure Published (c w : Ctx) (sc : Scope) (dur again : Bool) (waiter : Option (Nat × Nat)) : Prop where
  ref : w.ref = c.ref
  mem : w.s.mem = c.s.mem ∧ w.s.hist = c.s.hist ∧ w.s.ver = c.s.ver
  pb : w.t.pb = [] ∧ w.t.rsts = []
  drain : ∃ old, handed c.s c.t old ∧ w.t.drain = c.t.drain ++ old.map fun i => ⟨c.t.phasen, i⟩
  files : w.g.v = c.g.v ∧ w.g.s = c.g.s ∧ w.g.p = c.g.p
  ends : pubOver w.s w.t c.t.phasen sc → w.t.pub = none ∧ (again = true → w.t.snap = []) ∧
    (dur = true → w.t.dur = w.t.ckpt ∧ w.t.durPhase = c.t.phasen + 1)
  waits : ¬ pubOver w.s w.t c.t.phasen sc → w.t.pub = some ⟨c.t.phasen, sc, dur, again, waiter⟩
  stores : c.t.rstOut = [] → unheld c → w.t.rstOut = [] ∧
    (keyed c → (∀ x ∈ c.t.rsts, c.s.reachable x.peer = true) → ∃ rs : List RemReq, w.s.rreqs = c.s.rreqs ++ rs ∧ rs.length = c.t.rsts.length ∧
      ∀ (k : Nat) (x : RstItem) (r : RemReq), c.t.rsts[k]? = some x → rs[k]? = some r →
        Asks c c.t.phasen .rst x.peer x.len x.lanes r ∧ left c.s w.s r.msg)

/-- A boundary (R138): PHASEN rises, the Undo Log empties, and the checkpoint holds the scratchpad and the group's registers as they are and the
fragment at `pc`. -/
structure Bounded (c w : Ctx) (pc : VAddr) : Prop where
  phase : w.t.phasen = c.t.phasen + 1
  undo : w.t.undo = [] ∧ w.t.undoAfter = false
  scr : w.t.ckpt.scr = c.t.live.scr
  group : c.g.handler = none → ∃ g, w.t.ckpt.groups[c.ref.group]? = some g ∧ g.v = c.g.v ∧ g.s = c.g.s ∧ g.p = c.g.p ∧
    ∃ f ∈ g.frags, f.slices = c.f.slices ∧ f.pc = pc

/-- The offset that x adds (R88): a multiple of the element size in the low three bits of x for the sub-word sizes, of the transfer size
otherwise. -/
def xOffset (o : MemOps) : Nat := if o.sz.isSub then o.x.toNat % 8 * elemBytes o.sz else o.x.toNat * xferBytes o.w o.sz

/-- The virtual address of a private offset (R60). -/
def privateVa (c : Ctx) (l off : Nat) : Nat :=
  ((c.func.map (·.privBase)).getD 0 + (32 * (c.t.idx * c.t.live.groups.length + c.ref.group) + l) * (c.func.map (·.privStride)).getD 0 + off) %
    2 ^ 52

/-- A private offset that reaches memory: within the stride and the mapped limit, and its page grants the access. -/
def privateOk (c : Ctx) (k : Access) (l off pa : Nat) (inv : Bool) : Prop :=
  off < (c.func.map (·.privStride)).getD 0 ∧ off < (c.func.map (·.privLimit)).getD 0 ∧ c.s.access c.root k (privateVa c l off) = .ok (pa, inv)

end Sys2Proof.Statements

/-- LD and LDP (R60, R88, R386): where every lane's address is aligned and its page grants a load, the load is posted with the lanes'
physical addresses; each lane is read later, or is settled now where the team's own writes or its snapshot hold its bytes, and then reads the
team's own items over what memory or the snapshot holds (R130, R131, R450). LD.ACQ refreshes first (R132). A lane on a page marked INV is marked
so, and reads as LD.INV; the other lanes keep the load's own semantics. A load whose bytes the team has written waits while an older one of its
group is still to read them (cells S of R147 and R148).  -/
def Sys2Proof.Statements.GlobalLoads : Prop := ∀ (o : MemOps) (priv : Bool) (pa : Nat → Nat) (inv : Nat → Bool) (s : State) (c : Ctx),
  let i : Instr := if priv then .ldp o else .ld o
  let n := xferBytes o.w o.sz
  let ea := fun l => if priv then (c.rd o.a 1 l + xOffset o) % 2 ^ 32 else (c.rd o.a 2 l + xOffset o) % 2 ^ 52
  let fresh := !priv && o.sc == .acq
  let behind := ∃ l ∈ c.lanes o.d, c.t.ownItems (32 * c.ref.group + l) (pa l) n ≠ [] ∧ c.g.unread (pa l) n = true
  Issues i s c → c.room (136 * o.w.regs) → c.act ≠ [] →
  (∀ l ∈ c.lanes o.d, ea l % n = 0 ∧
    if priv then privateOk c .load l (ea l) (pa l) (inv l) else c.s.access c.root .load (ea l) = .ok (pa l, inv l)) →
    (behind → exec i s = .next s) ∧
    (¬ behind → ∃ (e : Ctx) (ld : LoadOp), exec i s = .next e.commit ∧ LoadPosted i c e ld ∧
      ld.dst = c.runIds o.d o.w.regs ∧ ld.elem = elemBytes o.sz ∧ ld.nb = n ∧ ld.sx = o.x.getLsbD 3 ∧ ld.ver = c.s.ver ∧ ld.hi = none ∧
      ld.sem = o.sc ∧ settled c fresh n (c.lanes o.d) pa inv ld.vals ld.lanes ∧ refreshed c e fresh ∧
      ((∀ l ∈ c.lanes o.d, c.s.poisoned (pa l) n = false) → ld.mchk = false))

/-- LDS (R57, R59, R387): it waits for the group's own reflective stores of its bytes; then, within the scratchpad and away from bytes that an
outstanding ACCST will write, the lane's bytes are settled at issue as last written. -/
def Sys2Proof.Statements.ScratchLoads : Prop := ∀ (o : MemOps) (s : State) (c : Ctx),
  let n := xferBytes o.w o.sz
  let ea := fun l => (c.rd o.a 1 l + xOffset o) % 2 ^ 32
  Issues (.lds o) s c → c.room (136 * o.w.regs) → c.act ≠ [] →
  (∀ l ∈ c.lanes o.d, ea l % n = 0 ∧ ea l < 2 ^ 31 ∧ ea l + n ≤ c.scrSize) →
    let mirrored := c.reflMeets ((c.lanes o.d).map fun l => (ea l, n))
    (mirrored = true → exec (.lds o) s = .next s) ∧
    (mirrored = false → (∀ l ∈ c.lanes o.d, ∀ k, k < n → c.t.accstByte (ea l + k) = false) →
      ∃ (e : Ctx) (ld : LoadOp), exec (.lds o) s = .next e.commit ∧ LoadPosted (.lds o) c e ld ∧
        ld.dst = c.runIds o.d o.w.regs ∧ ld.elem = elemBytes o.sz ∧ ld.nb = n ∧ ld.sx = o.x.getLsbD 3 ∧ ld.lanes = [] ∧
        ld.vals = (c.lanes o.d).map fun l => (l, (List.range n).map fun k => look c.t.live.scr (ea l + k)))

/-- LOAD_COMPLETE of a load (R49, R386): the settled lanes and the lanes read now write their registers, little-endian, or one register
extended by x bit 3 for a sub-word size; the scoreboard bits clear and the operation has finished. Every byte read is one that the team's
snapshot holds or that memory has held; memory stays, and the memory-side cache may take the lines. -/
def Obligations.LoadLands : Prop := ∀ (team group op : Nat) (s : State) (t : Team) (g : Group) (o : Op) (l : LoadOp),
  s.opOf team group op = some (t, g, o) → o.kind = .load l → o.fin = false → s.awaitsHost op = false → g.olderMeets op l.lanes l.nb = false →
  l.mchk = false → (∀ x ∈ l.lanes, s.poisoned x.addr l.nb = false) →
    ∃ (s' : State) (t' : Team) (g' : Group) (got : List (Nat × List Byte)), exec (.loadComplete team group op) s = .next s' ∧
      s'.team? team = some t' ∧ t'.live.groups[group]? = some g' ∧
      s' = { s with teams := s'.teams, freeCtr := s'.freeCtr, cache := s'.cache } ∧ t'.pb = t.pb ∧ t'.drain = t.drain ∧ t'.live.scr = t.live.scr ∧
      got.map Prod.fst = l.lanes.map (·.lane) ∧
      (∀ p ∈ got.zip l.lanes, ∀ k (hk : k < p.1.2.length),
        (∃ v, p.1.2[k] = s.byteAt v (p.2.addr + k)) ∨
          (snapHas t.snap ((p.2.addr + k) / 8 * 8) = true ∧ p.1.2[k] = snapGet t.snap (p.2.addr + k))) ∧
      ((∀ b ∈ l.dst, 1 ≤ b) → (∀ p ∈ l.vals ++ got, p.1 < 32) → (∀ b m, 1 ≤ b → m < 32 → b ∉ l.dst → g'.getId b m = g.getId b m) ∧
        (((l.vals ++ got).map Prod.fst).Nodup → l.dst.Nodup →
          ∀ p ∈ l.vals ++ got, ∀ k b, l.dst[k]? = some b → (32 ≤ b ∨ (l.vals ++ got).length = 1) →
            (4 ≤ l.nb → g'.getId b p.1 = BitVec.ofNat 32 (leNat ((p.2.drop (4 * k)).take 4))) ∧
            (l.nb < 4 → k = 0 → g'.getId b p.1 = BitVec.ofNat 32 (if l.sx then wrapTo 32 (toSigned (8 * l.elem) (leNat (p.2.take l.nb)))
              else leNat (p.2.take l.nb))))) ∧
      g'.p = g.p ∧
      (∀ r, r ∈ g'.sb ↔ r ∈ g.sb ∧ r ∉ l.dst) ∧ (∀ x ∈ g'.ops, x.id = op → x.fin = true)

/-- ST (no REL) and STP (R60, R129, R448, R449): the Phase Buffer takes each lane's bytes in lane order, a private store under its lane; memory,
every register and the rest of the device stay. ST.NT notes its lines (R133; what the hint comes to: log 104). A data run of z stores 0 in every
active lane (DEDUCED, log 33). -/
def Sys2Proof.Statements.GlobalStores : Prop := ∀ (o : MemOps) (priv : Bool) (pa : Nat → Nat) (inv : Nat → Bool) (s : State) (c : Ctx),
  let i : Instr := if priv then .stp o else .st o
  let n := xferBytes o.w o.sz
  let lanes := if o.d.isS && !o.a.isV then c.act.take 1 else c.act
  let ea := fun l => if priv then (c.rd o.a 1 l + xOffset o) % 2 ^ 32 else (c.rd o.a 2 l + xOffset o) % 2 ^ 52
  let data := fun l => leBytes n (c.rd o.d o.w.regs l)
  let items := lanes.map fun l => if priv then PbItem.prv (32 * c.ref.group + l) (pa l) (data l) else .st (pa l) (data l)
  let team := { c.t with pb := c.t.pb ++ items }
  Issues i s c → c.room 0 → c.act ≠ [] → o.sc ≠ .rel → team.lines ≤ 64 * c.t.live.groups.length →
  (∀ l ∈ lanes, ea l % n = 0 ∧
    if priv then privateOk c .store l (ea l) (pa l) (inv l) else c.s.access c.root .store (ea l) = .ok (pa l, inv l)) →
    ∃ e : Ctx, exec i s = .next e.commit ∧ e.ref = c.ref ∧ e.s = { c.s with uid := c.s.uid + 1 } ∧ e.t = { team with ntLines := e.t.ntLines } ∧
      (∀ x, x ∈ e.t.ntLines ↔ x ∈ c.t.ntLines ∨ priv = false ∧ o.sc = .nt ∧ ∃ l ∈ lanes, x = (c.t.phasen, lineOf (pa l))) ∧
      e.f = (c.advance i).f ∧ { e.g with ops := c.g.ops } = c.g ∧ ∀ x ∈ c.g.ops, x.fin = false → x ∈ e.g.ops

/-- ST.REL (R138, R448) first takes a boundary at DEVICE scope, once no publish of the team is outstanding (log 105): the phase before it is over,
its items go to the drain in order, the checkpoint restarts at the instruction, the store is the first of the new phase, and its fragment waits
for that publish. Memory stays. A data run of z stores 0 in every active lane (DEDUCED, log 33). -/
def Sys2Proof.Statements.ReleaseStores : Prop := ∀ (o : MemOps) (pa : Nat → Nat) (inv : Nat → Bool) (s : State) (c : Ctx),
  let n := xferBytes o.w o.sz
  let lanes := if o.d.isS && !o.a.isV then c.act.take 1 else c.act
  let ea := fun l => (c.rd o.a 2 l + xOffset o) % 2 ^ 52
  Issues (.st o) s c → c.act ≠ [] → o.sc = .rel → (∀ l ∈ lanes, ea l % n = 0 ∧ c.s.access c.root .store (ea l) = .ok (pa l, inv l)) →
    (c.t.pub.isSome = true → exec (.st o) s = .next s) ∧
    (c.t.pub = none → ∃ w e : Ctx, exec (.st o) s = .next e.commit ∧ Published c w .device false false (some (c.ref.group, c.ref.slice)) ∧
      Bounded c w c.f.pc ∧ e.ref = c.ref ∧ e.s = { w.s with uid := w.s.uid + 1 } ∧
      e.t = { w.t with pb := lanes.map fun l => .st (pa l) (leBytes n (c.rd o.d o.w.regs l)) } ∧ { e.g with ops := w.g.ops } = w.g ∧
      e.f = { (c.advance (.st o)).f with wait := if w.t.pub.isSome then .pub else c.f.wait })

/-- `n` bytes at `p` meet neither the header of a copy ring, at `off`, nor its entries (R65). -/
abbrev Sys2Proof.Statements.clearOf (off : Nat) (r : Ring) (p n : Nat) : Prop :=
  (p + n ≤ off ∨ off + 32 ≤ p) ∧ (r.ok = true → p + n ≤ r.base ∨ r.base + 32 * r.count ≤ p)

/-- A store of `n` bytes at `p` meets neither the header of the team's copy ring nor its entries. -/
abbrev Sys2Proof.Statements.offRing (c : Ctx) (p n : Nat) : Prop := clearOf (c.meta (·.cpring)) c.ring p n

/-- STS (R57, R59, R140, R449) into the team's own scratchpad, with bit 31 set as well where there is no team set: a lane's bytes replace what
stood there, a later lane's over an earlier one's, no other byte changes, and neither does global memory, another team or anything else but the
matrix operands and seal bytes of other groups that such a write leaves unspecified; each line is recorded in the Undo Log, but for one inside a
barrier object. It waits while an operation of the group has still to read its bytes, and STS.REL for the group's earlier scratchpad writes
(R133). A data run of z stores 0 in every active lane (DEDUCED, log 33). Bytes that a copy or gather has yet to land are not covered (R141 leaves
them open), nor are several lanes' stores into the copy ring, which may post such copies. -/
def Sys2Proof.Statements.OwnStores : Prop := ∀ (o : MemOps) (s : State) (c : Ctx),
  let n := xferBytes o.w o.sz
  let lanes := if o.d.isS && !o.a.isV then c.act.take 1 else c.act
  let ea := fun l => (c.rd o.a 1 l + xOffset o) % 2 ^ 32
  let off := fun l => ea l % 2 ^ 31
  let waits := (o.sc = .rel ∧ c.g.ops.any Op.scratchWrite = true) ∨ ∃ l ∈ lanes, c.g.readsScr (off l) n = true
  let inBar := fun a => c.t.bars.any fun b => decide (b.addr ≤ a ∧ a + n ≤ b.addr + 16)
  Issues (.sts o) s c → c.room 2304 → c.act ≠ [] →
  (∀ l ∈ lanes, ea l % n = 0 ∧ (ea l < 2 ^ 31 ∨ c.meta (·.tset) < 2) ∧ off l + n ≤ c.scrSize ∧ c.inMirror (off l) n = false ∧
    (c.s.tear c.t (off l) n).1 = []) → (lanes.length = 1 ∨ ∀ l ∈ lanes, offRing c (off l) n) →
    (waits → exec (.sts o) s = .next s) ∧
    (¬ waits →
      ∃ e : Ctx, exec (.sts o) s = .next e.commit ∧ e.s = { c.s with uid := c.s.uid + 1, freeCtr := e.s.freeCtr } ∧ e.ref = c.ref ∧
        e.f = (c.advance (.sts o)).f ∧ { e.g with ops := c.g.ops } = c.g ∧ { e.t with undo := c.t.undo, live := c.t.live } = c.t ∧
        { e.t.live with scr := c.t.live.scr, groups := c.t.live.groups } = c.t.live ∧
        e.t.live.groups.map (fun g => { g with ops := [] }) = c.t.live.groups.map (fun g => { g with ops := [] }) ∧
        (∀ k, k ∈ e.t.undo ↔ k ∈ c.t.undo ∨ ∃ l ∈ lanes, inBar (off l) = false ∧ k = .line (off l / 64)) ∧
        ∀ a, look e.t.live.scr a = match (lanes.filter fun l => decide (off l ≤ a ∧ a < off l + n)).getLast? with
          | some l => (leBytes n (c.rd o.d o.w.regs l)).getD (a - off l) 0
          | none => look c.t.live.scr a)

/-- A reflective STS and its landings (R59): with bit 31 set in a team set, the store leaves as one operation for every placed team of the set;
a landing writes the bytes into that team's scratchpad and no other. Bytes of the own team that a copy or gather has yet to land are not covered
(R141 leaves them open). A data run of z stores 0 in every active lane (DEDUCED, log 33). -/
def Sys2Proof.Statements.ReflectiveStores : Prop :=
  (∀ (o : MemOps) (s : State) (c : Ctx),
    let n := xferBytes o.w o.sz
    let lanes := if o.d.isS && !o.a.isV then c.act.take 1 else c.act
    let ea := fun l => (c.rd o.a 1 l + xOffset o) % 2 ^ 32
    let m := c.meta (·.mirOff)
    let waits := (o.sc = .rel ∧ c.g.ops.any Op.scratchWrite = true) ∨ ∃ l ∈ lanes, c.g.readsScr (ea l % 2 ^ 31) n = true
    Issues (.sts o) s c → c.room 0 → c.act ≠ [] → 2 ≤ c.meta (·.tset) →
    (∀ l ∈ lanes, ea l % n = 0 ∧ 2 ^ 31 ≤ ea l ∧ ea l - 2 ^ 31 + n ≤ c.scrSize ∧ m ≤ ea l - 2 ^ 31 ∧
      ea l - 2 ^ 31 + n ≤ m + c.meta (·.mirSize)) →
      (waits → exec (.sts o) s = .next s) ∧
      (¬ waits → ∃ e : Ctx, exec (.sts o) s = .next e.commit ∧ e.s = { c.s with uid := c.s.uid + 1 } ∧ e.t = c.t ∧ e.f = (c.advance (.sts o)).f ∧
        { e.g with ops := c.g.ops } = c.g ∧
        (⟨c.s.uid, .st, c.t.phasen, false,
          .refl 0 (lanes.map fun l => (ea l - 2 ^ 31, leBytes n (c.rd o.d o.w.regs l))) c.teamSet⟩ : Op) ∈ e.g.ops)) ∧
  (∀ (team group op target : Nat) (s : State) (t u : Team) (g : Group) (o : Op) (a : Nat) (data : List (Nat × List Byte)) (left : List Nat),
    s.opOf team group op = some (t, g, o) → o.kind = .refl a data left → target ∈ left → t.reflOlder op target = false →
    s.team? target = some u →
    (target = team → ∀ x ∈ data, (s.tear u x.1 x.2.length).1 = [] ∧
      (data.length = 1 ∨ clearOf (s.metaOf u (·.cpring)) (ringOf u.live.scr (s.metaOf u (·.cpring)) (s.scrSizeOf u)) x.1 x.2.length)) →
      ∃ s' u', exec (.reflectiveStoreLanding team group op target) s = .next s' ∧ s'.mem = s.mem ∧ s'.team? target = some u' ∧
        u'.live.scr = data.foldl (fun m e => writeBytes m e.1 e.2) u.live.scr ∧
        (∀ k v, k ≠ target → s.team? k = some v → ∃ v', s'.team? k = some v' ∧ v'.live.scr = v.live.scr) ∧ u'.pb = u.pb)

/-- R64: of the lanes that a global load or store names, the lowest misaligned one traps with ALIGN, with the mask of all the misaligned lanes;
with none misaligned, the lowest lane whose page refuses the access traps with its code, with the mask of the lanes that share it. The fragment
is marked as one whose access is to be issued again (R431). Where the spec leaves a choice: log 17. -/
def Obligations.AddressFaults : Prop := ∀ (o : MemOps) (store : Bool) (s : State) (c : Ctx) (l : Nat),
  let i : Instr := if store then .st o else .ld o
  let n := xferBytes o.w o.sz
  let lanes := if store then (if o.d.isS && !o.a.isV then c.act.take 1 else c.act) else c.lanes o.d
  let ea := fun l => (c.rd o.a 2 l + xOffset o) % 2 ^ 52
  let code := fun l => match c.s.access c.root (if store then .store else .load) (ea l) with
    | .error k => some k
    | .ok _ => none
  Issues i s c → l ∈ lanes →
    (ea l % n ≠ 0 → (∀ m ∈ lanes, m < l → ea m % n = 0) →
      exec i s = .next ((c.faulted i).takeTrap (trapAt 3 (ea l) (maskOf (lanes.filter fun m => decide (ea m % n ≠ 0)))))) ∧
    (∀ k, (∀ m ∈ lanes, ea m % n = 0) → code l = some k → (∀ m ∈ lanes, m < l → code m = none) →
      exec i s = .next ((c.faulted i).takeTrap (trapAt k (ea l) (maskOf (lanes.filter fun m => code m == some k)))))

/-- LD, LDP and LDS as they issue. -/
def Obligations.Loads : Prop := Statements.GlobalLoads ∧ Statements.ScratchLoads

/-- ST and STP. A data run of z stores 0 in every active lane (DEDUCED, log 33); ST.REL waits for the team's earlier publish (log 105). -/
def Obligations.Stores : Prop := Statements.GlobalStores ∧ Statements.ReleaseStores

/-- STS into the team's own scratchpad and, reflective, into a team set's. A data run of z: log 33 (DEDUCED). -/
def Obligations.ScratchStores : Prop := Statements.OwnStores ∧ Statements.ReflectiveStores
/-! ### Atomics -/

namespace Sys2Proof.Statements

/-- The lanes of an atomic with their addresses and operands. -/
def atomLanes (lanes : List Nat) (addr x y : Nat → Nat) : List AtomLane := lanes.map fun l => ⟨l, addr l, x l, y l⟩

/-- An atomic's operands and operation: destination, address register, width, scope, and the values that its function takes from d (R321,
R345). -/
def atomRow : Instr → Option (Reg × Reg × Bool × Scope × AtomFn × (Ctx → Nat → Nat) × (Ctx → Nat → Nat))
  | .atom o => some (o.d, o.a, o.wide, o.sc, fun l cur => atomicOp o.op o.wide cur l.x, fun c l => c.rd o.d (atomRegs o.wide) l, fun _ _ => 0)
  | .cas o => some (o.d, o.a, o.wide, o.sc, fun l cur => (if cur = l.x then l.y else cur, []),
      fun c l => c.rd o.d (2 * atomRegs o.wide) l % 2 ^ (32 * atomRegs o.wide), fun c l => c.rd o.d (2 * atomRegs o.wide) l / 2 ^ (32 * atomRegs o.wide))
  | _ => none

/-- The scratchpad atomics. -/
def atomsRow : Instr → Option (Reg × Reg × Bool × AtomFn × (Ctx → Nat → Nat) × (Ctx → Nat → Nat))
  | .atoms o => some (o.d, o.a, o.wide, fun l cur => atomicOp o.op o.wide cur l.x, fun c l => c.rd o.d (atomRegs o.wide) l, fun _ _ => 0)
  | .cass o => some (o.d, o.a, o.wide, fun l cur => (if cur = l.x then l.y else cur, []),
      fun c l => c.rd o.d (2 * atomRegs o.wide) l % 2 ^ (32 * atomRegs o.wide), fun c l => c.rd o.d (2 * atomRegs o.wide) l / 2 ^ (32 * atomRegs o.wide))
  | _ => none

/-- A pending item without the group it is counted under. -/
def ungrouped : PbItem → PbItem
  | .red a w o v _ t => .red a w o v 0 t
  | i => i

end Sys2Proof.Statements

namespace Sys2Proof.Statements

/-- An atomic of ascending lanes has been applied: at memory, where no other byte changes and the team refreshes, or on the team's view, where the
new value of each location is a store of the Phase Buffer and memory stays. `b` is the context in which it applies, `cur` the value that each
location held. The old values are on their way to d, whose names are held. -/
def applied (i : Instr) (d : Reg) (wide team : Bool) (f : AtomFn) (ls : List AtomLane) (cur : Nat → Nat) (c b e : Ctx) : Prop :=
  let n := atomBytes wide
  let addrs := (ls.map (·.addr)).eraseDups
  let run := fun p => atomRun f (ls.filter fun l => l.addr == p) (cur p)
  e.f = { (c.advance i).f with stage := 0 } ∧ e.g.v = c.g.v ∧ e.g.s = c.g.s ∧ e.g.p = c.g.p ∧
  (if team then e.s.mem = c.s.mem ∧ e.t.pb = b.t.pb ++ addrs.map (fun p => .st p (leBytes n (run p).2.1))
    else e.t.pb = b.t.pb ∧ e.t.snap = [] ∧ (∀ p ∈ addrs, readBytes e.s.mem p n = leBytes n (run p).2.1) ∧
      ∀ q, (∀ p ∈ addrs, q < p ∨ p + n ≤ q) → look e.s.mem q = look c.s.mem q) ∧
  ∃ (land : LandOp) (op : Op), op ∈ e.g.ops ∧ op.kind = .land land ∧ op.fin = false ∧ op.cls = .ld ∧ land.dst = c.runIds d (atomRegs wide) ∧
    land.boundary = true ∧ (∀ r ∈ land.dst, r ∈ e.g.sb) ∧ ∀ l ∈ ls, ∀ v, (l.lane, v) ∈ (run l.addr).1 → (l.lane, leBytes n v) ∈ land.vals

/-- An atomic reads a location of host memory once the drain holds no write of its bytes and the host has answered for its line (R136, R278;
DESIGN CHOICE, log 45). -/
def hostRead (c : Ctx) (p n : Nat) : Prop := c.s.regionOf p = some .host →
  (∀ i ∈ c.t.drain, i.item.meets p n = false) ∧ 2 ≤ c.f.stage ∧ c.s.awaitsHost (c.f.stage - 2) = false

end Sys2Proof.Statements

/-- ATOM and CAS at PART scope or wider, once their publish has completed (R149, R321, R345): the lanes of one address apply in ascending order at
memory, every other byte of memory stays, the team refreshes, and the old values are on their way to d, whose names are held. Where the spec leaves a
choice: log 31; a location of host memory: log 45. -/
def Sys2Proof.Statements.AtMemory : Prop := ∀ (i : Instr) (d a : Reg) (wide : Bool) (sc : Scope) (f : AtomFn) (x y : Ctx → Nat → Nat)
  (pa : Nat → Nat) (inv : Nat → Bool) (s : State) (c : Ctx),
  atomRow i = some (d, a, wide, sc, f, x, y) → Issues i s c → c.room 272 → c.act ≠ [] → c.f.stage ≠ 0 → c.f.wait = .run →
  (c.effScope sc).isTeam = false →
  let n := atomBytes wide
  (∀ l ∈ c.lanes d, let ea := c.rd a 2 l % 2 ^ 52
    ea % n = 0 ∧ c.s.access c.root .store ea = .ok (pa l, inv l) ∧ pa l % n = 0 ∧ c.s.poisoned (pa l) n = false ∧ hostRead c (pa l) n) →
    ∃ e : Ctx, exec i s = .next e.commit ∧
      applied i d wide false f (atomLanes (c.lanes d) pa (x c) (y c)) (fun p => leNat (readBytes c.s.mem p n)) c c e

/-- ATOM and CAS at GROUP or TEAM scope, or one that the policy lowers to them (R149, R422): as `AtMemory`, but on the team's own view of each
location: the team's items, reductions combined, over what memory or the snapshot holds. The new value is a store of the Phase Buffer; memory
stays. Where the spec leaves a choice: log 31; a location of host memory: log 45. -/
def Sys2Proof.Statements.InTeamView : Prop := ∀ (i : Instr) (d a : Reg) (wide : Bool) (sc : Scope) (f : AtomFn) (x y : Ctx → Nat → Nat)
  (pa : Nat → Nat) (inv : Nat → Bool) (s : State) (c : Ctx),
  atomRow i = some (d, a, wide, sc, f, x, y) → Issues i s c → c.room 272 → c.act ≠ [] → c.f.stage ≠ 0 → (c.effScope sc).isTeam = true →
  let n := atomBytes wide
  let ls := atomLanes (c.lanes d) pa (x c) (y c)
  let addrs := (ls.map (·.addr)).eraseDups
  (∀ l ∈ c.lanes d, let ea := c.rd a 2 l % 2 ^ 52
    ea % n = 0 ∧ c.s.access c.root .store ea = .ok (pa l, inv l) ∧ pa l % n = 0 ∧ c.s.poisoned (pa l) n = false ∧ hostRead c (pa l) n) →
  { c.t with pb := c.t.pb ++ addrs.map fun p => PbItem.st p (List.replicate n 0) }.lines ≤ 64 * c.t.live.groups.length →
    ∃ (e : Ctx) (seen : Nat → List Byte), exec i s = .next e.commit ∧ (∀ p ∈ addrs, heldBytes c.s c.t.snap (p / 8 * 8) 8 (seen p)) ∧
      applied i d wide true f ls (fun p => leNat (ownView c.t 1024 p n (seen p))) c c e

/-- ATOM and CAS once their publish has completed. -/
def Obligations.GlobalAtomics : Prop := Statements.AtMemory ∧ Statements.InTeamView

namespace Sys2Proof.Statements

/-- An atomic of ascending lanes has been applied to the scratchpad: no other byte of it changes, and the old values are on their way to d. -/
def appliedScr (i : Instr) (d : Reg) (wide : Bool) (f : AtomFn) (ls : List AtomLane) (c e : Ctx) : Prop :=
  let n := atomBytes wide
  let run := fun p => atomRun f (ls.filter fun l => l.addr == p) (readNat c.t.live.scr p n)
  e.f.pc = c.f.pc + BitVec.ofNat 52 (4 * (encode i).length) ∧
  e.s.mem = c.s.mem ∧ e.g.v = c.g.v ∧ e.g.s = c.g.s ∧ e.g.p = c.g.p ∧
  (∀ p ∈ ls.map (·.addr), readBytes e.t.live.scr p n = leBytes n (run p).2.1) ∧
  (∀ q, (∀ p ∈ ls.map (·.addr), q < p ∨ p + n ≤ q) → look e.t.live.scr q = look c.t.live.scr q) ∧
  ∃ (land : LandOp) (op : Op), op ∈ e.g.ops ∧ op.kind = .land land ∧ op.fin = false ∧ op.cls = .ld ∧ land.dst = c.runIds d (atomRegs wide) ∧
    (∀ r ∈ land.dst, r ∈ e.g.sb) ∧ ∀ l ∈ ls, ∀ v, (l.lane, v) ∈ (run l.addr).1 → (l.lane, leBytes n v) ∈ land.vals

/-- The lanes of a scratchpad atomic: aligned, within the scratchpad and outside the mirror region, on bytes that no copy or gather has yet to
land; those of several locations away from the copy ring. -/
def scrLanesOk (c : Ctx) (n : Nat) (lanes : List Nat) (ea : Nat → Nat) : Prop :=
  (∀ l ∈ lanes, ea l % n = 0 ∧ ea l < 2 ^ 31 ∧ ea l + n ≤ c.scrSize ∧ c.inMirror (ea l) n = false ∧ (c.s.tear c.t (ea l) n).1 = []) ∧
    ((lanes.map ea).eraseDups.length = 1 ∨ ∀ l ∈ lanes, offRing c (ea l) n)

end Sys2Proof.Statements

/-- ATOM and CAS begin with a publish (R138, R321, R345): while an earlier publish of the team is outstanding they wait; otherwise their own
begins, and where it is not over at once the fragment waits for it at the instruction, with the Phase Buffer handed over and no register or byte
of memory changed. Where it is over at once they apply as `AtMemory` and `InTeamView` say, in the state that it leaves. Where the spec leaves a
choice: log 31. -/
def Sys2Proof.Statements.AtomicsPublish : Prop := ∀ (i : Instr) (d a : Reg) (wide : Bool) (sc : Scope) (f : AtomFn) (x y : Ctx → Nat → Nat)
  (pa : Nat → Nat) (inv : Nat → Bool) (s : State) (c : Ctx),
  atomRow i = some (d, a, wide, sc, f, x, y) → Issues i s c → c.room 272 → c.act ≠ [] → c.f.stage = 0 → c.f.wait = .run →
  let n := atomBytes wide
  let team := (c.effScope sc).isTeam
  let ls := atomLanes (c.lanes d) pa (x c) (y c)
  (∀ l ∈ c.lanes d, let ea := c.rd a 2 l % 2 ^ 52
    ea % n = 0 ∧ c.s.access c.root .store ea = .ok (pa l, inv l)) →
    (c.t.pub.isSome = true → exec i s = .next s) ∧
    (c.t.pub = none → ∃ w : Ctx, Published c w (c.effScope sc) false false (some (c.ref.group, c.ref.slice)) ∧ w.t.phasen = c.t.phasen ∧
      (w.t.pub.isSome = true → exec i s = .next w.commit ∧ w.f = { c.f with stage := 1, wait := .pub }) ∧
      (w.t.pub = none → (∀ l ∈ c.lanes d, pa l % n = 0 ∧ c.s.poisoned (pa l) n = false ∧ c.s.regionOf (pa l) ≠ some .host) →
        ∃ (e : Ctx) (seen : Nat → List Byte), exec i s = .next e.commit ∧
          (team = true → ∀ p ∈ ls.map (·.addr), heldBytes w.s w.t.snap (p / 8 * 8) 8 (seen p)) ∧
          applied i d wide team f ls (fun p => if team then leNat (ownView w.t 1024 p n (seen p)) else leNat (readBytes c.s.mem p n)) c w e))

/-- CASS (R138, R345) begins with a publish as well, once its lanes pass their checks, and acts on the scratchpad where it is over at once; ATOME
(R138, R326) begins with one at DEVICE scope, goes on at once, and its request departs, all unless it is refused. Both wait while an earlier
publish of the team is outstanding. (RATOM: `RemoteAtomics`.) Where the spec leaves a choice: log 31. -/
def Sys2Proof.Statements.OtherPublishes : Prop :=
  (∀ (o : CasOps) (s : State) (c : Ctx),
    let i : Instr := .cass o
    let ea := fun l => c.rd o.a 1 l % 2 ^ 32
    let n := atomBytes o.wide
    Issues i s c → c.room 2576 → c.act ≠ [] → c.f.stage = 0 → scrLanesOk c n (c.lanes o.d) ea →
    (∀ l ∈ c.lanes o.d, c.g.readsScr (ea l) n = false) →
      (c.t.pub.isSome = true → exec i s = .next s) ∧
      (c.t.pub = none → ∃ w : Ctx, Published c w (c.effScope o.sc) false false (some (c.ref.group, c.ref.slice)) ∧ w.t.phasen = c.t.phasen ∧
        (w.t.pub.isSome = true → exec i s = .next w.commit ∧ w.f = { c.f with stage := 1, wait := .pub } ∧ w.t.live.scr = c.t.live.scr) ∧
        (w.t.pub = none → ∃ e : Ctx, exec i s = .next e.commit ∧ e.t.pb = [] ∧ e.t.drain = w.t.drain ∧
          appliedScr i o.d o.wide casFn (atomLanes (c.lanes o.d) ea (fun l => c.rd o.d (2 * atomRegs o.wide) l % 2 ^ (32 * atomRegs o.wide))
            (fun l => c.rd o.d (2 * atomRegs o.wide) l / 2 ^ (32 * atomRegs o.wide))) c e))) ∧
  (∀ (o : AtomeOps) (s : State) (c : Ctx),
    let i : Instr := .atome o
    let used := (List.range 8).countP fun k => c.act.any fun l => l / 4 == k
    let cost := 16 * ((List.range 24).countP o.mask.getLsbD) * used
    Issues i s c → c.room 4364 → c.act ≠ [] → (∀ l ∈ c.act, c.rd o.a 2 l % 2 ^ 52 % atomBytes o.wide = 0) →
    ¬ (c.meta (·.escq) < c.g.escu + cost ∨ (c.coreOf.map (·.elb)).getD 0 < cost) →
      (c.t.pub.isSome = true → exec i s = .next s) ∧
      (c.t.pub = none → ∃ w e : Ctx, Published c w .device false false none ∧ w.t.phasen = c.t.phasen ∧ exec i s = .next e.commit ∧
        e.t.pb = [] ∧ e.t.rsts = [] ∧ e.t.drain = w.t.drain ∧ e.t.pub = w.t.pub ∧ e.f = (c.advance i).f))

/-- ATOMS, and CASS once its publish has completed (R149, R323, R345): they wait while an operation of the group has still to read the bytes (R225,
R440); then the lanes of one offset apply in ascending order to the scratchpad, no other byte of it changes, and the old values are on their
way. -/
def Obligations.ScratchAtomics : Prop := ∀ (i : Instr) (d a : Reg) (wide : Bool) (f : AtomFn) (x y : Ctx → Nat → Nat) (s : State) (c : Ctx),
  atomsRow i = some (d, a, wide, f, x, y) → Issues i s c → c.room 2576 → c.act ≠ [] → ((∃ o, i = .cass o) → c.f.stage ≠ 0) →
  let ea := fun l => c.rd a 1 l % 2 ^ 32
  let unread := ∃ l ∈ c.lanes d, c.g.readsScr (ea l) (atomBytes wide) = true
  scrLanesOk c (atomBytes wide) (c.lanes d) ea →
    (unread → exec i s = .next s) ∧
    (¬ unread → ∃ e : Ctx, exec i s = .next e.commit ∧ e.t.pb = c.t.pb ∧
      appliedScr i d wide f (atomLanes (c.lanes d) ea (x c) (y c)) c e)

/-- RED (R137, R422): each active lane leaves one pending reduction in the Phase Buffer, at its own scope or the one that the policy lowers it to,
which the policy count counts; it returns nothing, and memory and the
registers stay. It acts once in every active lane, with s operands as well (DEDUCED, log 33). The new reductions of one address keep their lane
order and the pending ones theirs. The new ones follow the pending ones, but
where the order between them shows (EXCH and the float operations, one address) R148 note 8 leaves it open, and it is free (log 32). -/
def Obligations.Reduces : Prop := ∀ (o : AtomOps) (pa : Nat → Nat) (inv : Nat → Bool) (s : State) (c : Ctx),
  let r := c.s.demote c.t o.sc
  let items := c.act.map fun l => PbItem.red (pa l) o.wide o.op (BitVec.ofNat 64 (c.rd o.d (atomRegs o.wide) l)) 0 r.1.isTeam
  let old := c.t.pb.map ungrouped
  Issues (.red o) s c → c.room 0 → c.act ≠ [] → { c.t with pb := c.t.pb ++ items }.lines ≤ 64 * c.t.live.groups.length →
  (∀ l ∈ c.act, let ea := c.rd o.a 2 l % 2 ^ 52
    ea % atomBytes o.wide = 0 ∧ c.s.access c.root .store ea = .ok (pa l, inv l)) →
    ∃ e : Ctx, exec (.red o) s = .next e.commit ∧ e.s = { r.2 with uid := c.s.uid + 1, freeCtr := e.s.freeCtr } ∧
      e.f = (c.advance (.red o)).f ∧ { e.t with pb := c.t.pb } = c.t ∧ { e.g with ops := c.g.ops } = c.g ∧
      (e.t.pb.map ungrouped).Perm (old ++ items) ∧ old.Sublist (e.t.pb.map ungrouped) ∧
      (∀ l ∈ c.act, (items.filter (PbItem.isRed (pa l) o.wide o.op)).Sublist (e.t.pb.map ungrouped)) ∧
      (mixes o.op = false ∨ (∀ l ∈ c.act, ∀ i ∈ c.t.pb, i.isRed (pa l) o.wide o.op = false) →
        e.t.pb.map ungrouped = old ++ items ∧ e.s.freeCtr = c.s.freeCtr)

/-- A run of one operation over one address (R149, R322): the value left is the fold of the lanes' values, and each lane's old value is what the
lanes before it left. -/
def Sys2Proof.Statements.LaneOrder : Prop := ∀ (f : AtomFn) (ls : List AtomLane) (cur k : Nat), k < ls.length →
  (atomRun f ls cur).2.1 = ls.foldl (fun v l => (f l v).1) cur ∧
    (atomRun f ls cur).1[k]? = ls[k]?.map fun l => (l.lane, (ls.take k).foldl (fun v l => (f l v).1) cur)

/-- The order of atomics: their publish comes first, and the lanes of one location apply in ascending order. -/
def Obligations.AtomicOrder : Prop := Statements.AtomicsPublish ∧ Statements.OtherPublishes ∧ Statements.LaneOrder

/-! ### Ordering -/

/-- FENCE (R137, R146, R376): FULL and REL wait for every earlier operation of the group, ACQ for its loads, returning atomics, escorted and
remote operations; then FULL and ACQ refresh at PART scope or wider, and nothing else happens but the policy count of a scope that a TENANT
policy lowers. -/
def Sys2Proof.Statements.Fences : Prop := ∀ (kind : Fin 3) (sc : Scope) (s : State) (c : Ctx),
  let i : Instr := if kind = 0 then .fenceFull sc else if kind = 1 then .fenceAcq sc else .fenceRel sc
  let idle := if kind = 1 then ∀ o ∈ c.g.ops, o.cls ≠ .ld ∧ o.cls ≠ .es ∧ o.cls ≠ .rm else c.g.ops = []
  let r := c.s.demote c.t sc
  Issues i s c → c.room 0 →
    (¬ idle → exec i s = .next s) ∧
    (idle → exec i s = .next ({ c.advance i with
      s := r.2
      t := if kind ≠ 2 ∧ r.1.isTeam = false then { c.t with snap := [], snapMark := c.s.ver } else c.t } : Ctx).commit)

/-- PREF, CCTL.LINE and CCTL.ALL (R348, R416) change what the caches hold and no value: PREF adds the named lines that are not poisoned and not
of host memory, and where there is room for all of them every other line stays; LINE takes the named ones out, ALL empties the core's INV
copies. A lane that faults drops out. What the memory-side cache keeps, how many lines, and which leaves for a new one is log 104 (DESIGN CHOICE). -/
def Sys2Proof.Statements.CacheHints : Prop := ∀ (a : Reg) (s : State) (c : Ctx),
  let named := fun (l : Nat) => ∃ m ∈ c.act, ∃ pa inv, c.s.access c.root .load (c.rd a 2 m % 2 ^ 52) = .ok (pa, inv) ∧ l = pa / 64
  (Issues (.pref a) s c → c.room 0 → ∃ k, exec (.pref a) s = .next ({ c.advance (.pref a) with s := { c.s with cache := k } } : Ctx).commit ∧
    let new := fun l => named l ∧ c.s.isPoisoned l = false ∧ c.s.regionOf (64 * l) ≠ some .host
    (∀ l ∈ k.map Prod.fst, l ∈ c.s.cache.map Prod.fst ∨ new l) ∧
    (c.s.cache.length + c.act.length ≤ Config.cacheLines →
      (∀ l, l ∈ k.map Prod.fst ↔ l ∈ c.s.cache.map Prod.fst ∨ new l) ∧ ∀ l, (l, true) ∈ k ↔ (l, true) ∈ c.s.cache)) ∧
  (Issues (.cctlLine a) s c → c.room 0 → ∃ k, exec (.cctlLine a) s = .next ({ c.advance (.cctlLine a) with s := { c.s with cache := k } } : Ctx).commit ∧
    ∀ x, x ∈ k ↔ x ∈ c.s.cache ∧ ¬ named x.1) ∧
  (Issues .cctlAll s c → c.room 0 → ∃ k, exec .cctlAll s = .next ({ c.advance .cctlAll with s := { c.s with cores := k } } : Ctx).commit ∧
    k = c.s.cores.map fun x => if x.id = c.t.core then { x with inv := [] } else x)

/-- PHASE.PUB, BOTH and PUB.DUR (R135, R136, R138): they wait for an earlier publish; then the phase ends: its items go to the drain in order, its
remote stores leave for their peers, the Undo Log empties, PHASEN rises, and the checkpoint holds the scratchpad and the registers as they are
and restarts after the instruction. Memory stays. The fragment waits for the publish where it is not over at once; BOTH refreshes when it is, and
PUB.DUR of a durable launch makes the checkpoint durable. -/
def Obligations.PhasePublish : Prop := ∀ (kind : Fin 3) (sc : Scope) (s : State) (c : Ctx),
  let i : Instr := if kind = 0 then .phasePub sc else if kind = 1 then .phaseBoth sc else .phasePubDur sc
  Issues i s c →
    (c.t.pub.isSome = true → exec i s = .next s) ∧
    (c.t.pub = none → ∃ w : Ctx, exec i s = .next w.commit ∧
      Published c w (c.effScope sc) (decide (kind = 2) && c.launch.any Launch.durable) (decide (kind = 1)) (some (c.ref.group, c.ref.slice)) ∧
      Bounded c w (c.f.pc + 4) ∧ w.f = { (c.advance i).f with wait := if w.t.pub.isSome then .pub else .run })

/-- PHASE.REF (R412): a refresh at PART scope or wider, and nothing at GROUP or TEAM. -/
def Sys2Proof.Statements.PhaseRefresh : Prop := ∀ (sc : Scope) (s : State) (c : Ctx),
  let r := c.s.demote c.t sc
  Issues (.phaseRef sc) s c → c.room 0 →
    exec (.phaseRef sc) s = .next ({ c.advance (.phaseRef sc) with
      s := r.2
      t := if r.1.isTeam then c.t else { c.t with snap := [], snapMark := c.s.ver } } : Ctx).commit

/-- FENCE, PHASE.REF, PREF and CCTL. What the memory-side cache keeps is log 104 (DESIGN CHOICE). -/
def Obligations.FencesAndCaches : Prop := Statements.Fences ∧ Statements.PhaseRefresh ∧ Statements.CacheHints
/-! ### Barriers -/

namespace Sys2Proof.Statements

/-- CheckBarrier passes (R329): the lowest active lane's offset is aligned and in range, outside the mirror region, and the registry has the
object or room for it. -/
def barrierOk (c : Ctx) (b : Nat) : Prop :=
  b % 16 = 0 ∧ b < 2 ^ 31 ∧ b + 16 ≤ c.scrSize ∧ c.inMirror b 16 = false ∧ (c.t.bars.any (fun r => r.addr == b) = true ∨ c.t.bars.length < 256)

/-- With an object of the registry, which takes a new one with its stage bit clear (R150). -/
def registered (c : Ctx) (b : Nat) : Ctx :=
  if c.t.bars.any (fun r => r.addr == b) then c else { c with t := { c.t with bars := c.t.bars ++ [⟨b, false⟩] } }

/-- The updates of R330 and R331: the instruction, its barrier register, and what becomes of the object before its check. -/
def barRow (c : Ctx) : Instr → Option (Reg × (BarObj → BarObj))
  | .bararr a => some (a, fun o => if o.brk then o else if o.arr + 1 ≤ 65535 then { o with arr := o.arr + 1 } else { o with brk := true })
  | .barexp d a => some (a, fun o => { o with expb := (c.word d c.low).toNat })
  | .barbrk a => some (a, fun o => { o with brk := true })
  | .barinit d a =>
    let n := (c.g.reg d 0 c.low).toNat
    let m := (c.g.reg d 1 c.low).toNat
    if n < 65536 then some (a, fun _ => ⟨n, 0, if m / 65536 % 2 = 1 then m - 65536 else m, 0, 0, false⟩) else none
  | _ => none

end Sys2Proof.Statements

/-- BARINIT, BARARR, BAREXP and BARBRK (R150, R156, R330, R331): the object takes the update and its completion check, and a boundary follows; before
that they wait for the team's outstanding publish. Global memory and the registers stay. -/
def Sys2Proof.Statements.BarrierUpdates : Prop := ∀ (i : Instr) (a : Reg) (f : BarObj → BarObj) (s : State) (c : Ctx),
  barRow c i = some (a, f) → Issues i s c → c.act ≠ [] →
  let b := (c.word a c.low).toNat
  let stage := fun x => ∃ d, i = .barinit d a ∧ (c.g.reg d 1 c.low).toNat / 65536 % 2 = x
  barrierOk c b → (stage 1 → barrierOk (registered c b) (b + 16)) →
    (c.t.pub.isSome = true → exec i s = .next s) ∧
    (c.t.pub = none → ∃ e : Ctx, exec i s = .next e.commit ∧ barRead e.t.live.scr b = barCheck (f (barRead c.t.live.scr b)) ∧
      (∀ k, k < b ∨ b + 16 ≤ k → look e.t.live.scr k = look c.t.live.scr k) ∧ e.t.bars.any (fun r => r.addr == b) = true ∧
      (∀ r ∈ e.t.bars, r.addr = b → (stage 1 → r.stage = true) ∧ (stage 0 → r.stage = false)) ∧
      (stage 1 → e.t.bars.any (fun r => r.addr == b + 16) = true) ∧ e.t.phasen = c.t.phasen + 1 ∧ e.s.mem = c.s.mem ∧ e.f.pc = c.f.pc + 4 ∧ e.g.v = c.g.v ∧ e.g.s = c.g.s ∧ e.g.p = c.g.p)

/-- R151: a check completes generations while both counts reach what is expected; each takes what it expects from the counts; a broken object
completes none; GENERATION counts them modulo 2^31. -/
def Sys2Proof.Statements.BarrierCheck : Prop := ∀ o : BarObj,
  (o.brk = true → barCheck o = { o with gen := o.gen % 2 ^ 31 }) ∧
  (o.brk = false → ∃ k, (barCheck o).gen = (o.gen + k) % 2 ^ 31 ∧ o.arr = (barCheck o).arr + k * o.expa ∧ o.land = (barCheck o).land + k * o.expb ∧
    (barCheck o).expa = o.expa ∧ (barCheck o).expb = o.expb ∧ (barCheck o).brk = false ∧
    (0 < o.expa + o.expb → ¬ (o.expa ≤ (barCheck o).arr ∧ o.expb ≤ (barCheck o).land)) ∧ (o.expa + o.expb = 0 → k = 1))

/-- BARTEST and BARWAIT (R153, R332): status 0 when the target's generation is complete, 1 when the object is broken, 3 otherwise, into the second
register of d. BARTEST always completes; BARWAIT with status 3 parks its fragment, and otherwise ends with a boundary and a refresh. -/
def Sys2Proof.Statements.WaitAtBarrier : Prop := ∀ (d a : Reg) (wait : Bool) (s : State) (c : Ctx),
  let i : Instr := if wait then .barwait d a else .bartest d a
  let b := (c.word a c.low).toNat
  let o := barRead c.t.live.scr b
  let t := (c.g.reg d 0 c.low).toNat
  let st := if (o.gen + (2 ^ 31 - t % 2 ^ 31)) % 2 ^ 31 < 2 ^ 30 then 0 else if o.brk then 1 else 3
  let val := fun (b m : Nat) => match d with
    | .z => c.g.getId b m
    | .s k => if b = 2 + k.val then BitVec.ofNat 32 st else c.g.getId b m
    | .v k => if b = c.g.first k + 1 ∧ m ∈ c.act then BitVec.ofNat 32 st else c.g.getId b m
  Issues i s c → c.room 136 → c.act ≠ [] → barrierOk c b →
    (wait = false → ∃ e : Ctx, exec i s = .next e.commit ∧ Wrote i { c with t := { c.t with bars := e.t.bars } } e c.s c.g.latch val ∧
      e.t.bars.any (fun r => r.addr == b) = true) ∧
    (wait = true → st ≠ 3 → c.t.pub = none → ∃ e : Ctx, exec i s = .next e.commit ∧
      (∀ b m, 1 ≤ b → m < 32 → e.g.getId b m = val b m) ∧ e.t.phasen = c.t.phasen + 1 ∧ e.t.snap = [] ∧ e.s.mem = c.s.mem ∧
      e.f.pc = c.f.pc + 4 ∧ e.t.live.scr = c.t.live.scr) ∧
    (wait = true → st = 3 → ∃ s' t' g', exec i s = .next s' ∧ s' = { s with teams := s'.teams } ∧ s'.team? c.ref.team = some t' ∧
      t'.live.groups[c.ref.group]? = some g' ∧ g'.v = c.g.v ∧ g'.s = c.g.s ∧ t'.phasen = c.t.phasen ∧ t'.live.scr = c.t.live.scr ∧
      ∀ f ∈ g'.frags, f.lowest = c.ref.slice → f.slices = c.f.slices → f.wait = .bar b t (c.g.regId d 1) (maskOf (c.lanes d)) none)

/-- R153, R329, R332: every update of an object tests the targets of the fragments parked on it, and one that it finds complete or broken keeps that
status until it wakes, whatever becomes of the object. BARWAIT_WAKE (R27, R153) writes the status, the fragment runs again, and it takes its
boundary and refresh; while no update has met its target, a publish of the team is outstanding, an older fragment has yet to wake or a rollback
is asked for, nothing changes. -/
def Sys2Proof.Statements.BarrierWakes : Prop :=
  (∀ (t : Team) (b : Nat) (f : BarObj → BarObj) (k : Nat) (g : Group), t.live.groups[k]? = some g →
    let u := t.bar b f
    let o := barRead u.live.scr b
    ∃ h, u.live.groups[k]? = some h ∧ { h with frags := g.frags } = g ∧ h.frags.length = g.frags.length ∧
      ∀ (n : Nat) (x y : Frag), g.frags[n]? = some x → h.frags[n]? = some y → { y with wait := x.wait } = x ∧
        y.wait = match x.wait with
          | .bar a tg dst lanes none => .bar a tg dst lanes (
              if a ≠ b then none else if (o.gen + (2 ^ 31 - tg % 2 ^ 31)) % 2 ^ 31 < 2 ^ 30 then some 0 else if o.brk then some 1 else none)
          | w => w) ∧
  (∀ (r : FragRef) (s : State) (c : Ctx) (b tg : Nat) (met : Option Nat) (dst : Option Nat) (lanes : LaneMask),
    s.ctx r = some c → c.f.wait = .bar b tg dst lanes met →
      (met = none ∨ c.t.pub.isSome = true ∨ c.t.olderWakes c.f r.group = true ∨ c.t.rb = true →
        exec (.barwaitWake r.team r.group r.slice) s = .next s) ∧
      (∀ st, met = some st → c.t.pub = none → c.t.olderWakes c.f r.group = false → c.t.rb = false →
        ∃ e : Ctx, exec (.barwaitWake r.team r.group r.slice) s = .next e.commit ∧ e.f.wait = .run ∧ e.f.pc = c.f.pc ∧
          e.t.phasen = c.t.phasen + 1 ∧ e.t.snap = [] ∧ e.s.mem = s.mem ∧
          ∀ id, dst = some id → 32 ≤ id → ∀ m, m < 32 →
            e.g.getId id m = if lanes.getLsbD m then BitVec.ofNat 32 st else c.g.getId id m))

/-- ARMW (R155, R318): the binding of the word's physical address is made, moved or, with a d of all ones, taken away; nothing else changes. -/
def Sys2Proof.Statements.Arm : Prop := ∀ (d a : Reg) (pa : Nat) (inv : Bool) (s : State) (c : Ctx),
  let bar := (c.word d c.low).toNat
  let wa := c.rd a 2 c.low % 2 ^ 52
  Issues (.armw d a) s c → c.room 0 → c.act ≠ [] → wa % 8 = 0 → c.s.access c.root .load wa = .ok (pa, inv) →
    (bar = 2 ^ 32 - 1 → exec (.armw d a) s = .next ({ c.advance (.armw d a) with
      t := { c.t with binds := c.t.binds.filter fun x => x.1 != pa } } : Ctx).commit) ∧
    (bar ≠ 2 ^ 32 - 1 → barrierOk c bar → (c.t.binds.any (fun x => x.1 == pa) = true ∨ c.t.binds.length < 64) →
      ∃ bars, exec (.armw d a) s = .next ({ c.advance (.armw d a) with
        t := { c.t with bars := bars, binds := (c.t.binds.filter fun x => x.1 != pa) ++ [(pa, bar)] } } : Ctx).commit ∧
        bars.any (fun x => x.addr == bar) = true)

/-- R155, R319: one write that takes effect at memory, however many bytes it has, counts one arrival at the barrier of every word bound by ARMW
that it touches, in every team; it writes its bytes and no others. -/
def Sys2Proof.Statements.WritesArrive : Prop := ∀ (s : State) (src : Nat) (ws : List (Nat × Byte)), ws ≠ [] → (ws.map Prod.fst).Nodup →
  (∀ p ∈ ws, look (s.write src ws).mem p.1 = p.2) ∧
  (∀ a, a ∉ ws.map Prod.fst → look (s.write src ws).mem a = look s.mem a) ∧
  (s.write src ws).teams = s.teams.map fun t =>
    (t.binds.filter fun b => ws.any fun w => decide (b.1 ≤ w.1 ∧ w.1 < b.1 + 8)).foldl (fun t b => t.bar b.2 barArrive) t

/-- PUBLISH_COMPLETE (R136, R148, R422): the drain's items on the lines that the event names take effect at memory in their order, reductions on
what memory holds by then; those of a phase whose engine commands are still to read, or which a remote load belongs to, and of later ones stay.
Memory keeps every byte that none of them covers. Where nothing of the published phase is left at its scope the publish is over: the fragment that
waited runs, BOTH refreshes and PUB.DUR makes the checkpoint durable. Reductions that meet poison are not covered (R299). -/
def Sys2Proof.Statements.Drain : Prop := ∀ (team : Nat) (lines : List Nat) (s : State) (t : Team), s.team? team = some t →
  (∀ l ∈ lines, s.regionOf (64 * l) ≠ some .host) → (∀ i ∈ t.drain, i.item.isRedItem = true → s.isPoisoned (lineOf i.item.addr) = false) →
  let read := match t.pub with
    | none => s
    | some p => s.finishReads team p.phase
  let held := (t.drain.map (·.phase) ++ t.rstOut.map Prod.fst).filter fun k => read.engineBusy t k || t.remoteLoads k
  let goes := fun (i : DrainItem) => lines.contains (lineOf i.item.addr) && decide (i.phase < held.min?.getD (t.phasen + 1))
  let out := t.drain.filter goes
  ∃ s' t', exec (.publishComplete team lines) s = .next s' ∧ s'.team? team = some t' ∧
    t'.drain = t.drain.filter (fun i => !goes i) ∧ t'.pb = t.pb ∧ t'.phasen = t.phasen ∧
    (∀ a, (∀ i ∈ out, a < i.item.addr ∨ i.item.addr + i.item.size ≤ a) → look s'.mem a = look s.mem a) ∧
    (out.Pairwise (fun i j => i.phase ≤ j.phase) → (∀ i ∈ out, lineOf (i.item.addr + i.item.size - 1) = lineOf i.item.addr) →
      ∀ a, look s'.mem a = look ((out.map (·.item)).foldl drainItem (s.mem, [])).1 a) ∧
    (t.pub = none → t'.pub = none) ∧
    ∀ p, t.pub = some p →
      (¬ pubOver s' t' p.phase p.scope → t'.pub = some p) ∧
      (pubOver s' t' p.phase p.scope → t'.pub = none ∧ (p.refresh = true → t'.snap = []) ∧
        (p.dur = true → t'.dur = t'.ckpt ∧ t'.durPhase = p.phase + 1) ∧
        ∀ g k x, p.waiter = some (g, k) → t'.live.groups[g]? = some x → ∀ f ∈ x.frags, f.lowest = k → f.wait ≠ .pub)

/-- QUIET_REPORT and its sending (R145): a peer's cumulative count replaces a smaller one and never lowers it; this device reports what it has
received from a source under a tag. -/
def Sys2Proof.Statements.QuietReports : Prop :=
  (∀ (peer team : Nat) (tag : Bool) (count : Nat) (s : State) (t : Team), s.team? team = some t → peer ≠ s.devId →
    ∃ s' t', exec (.quietReport peer team tag count) s = .next s' ∧ s'.team? team = some t' ∧ s'.mem = s.mem ∧
      t'.sent = t.sent.map fun q => if q.peer = peer ∧ q.tag = tag then { q with seen := max q.seen count } else q) ∧
  (∀ (src team : Nat) (tag : Bool) (s : State),
    exec (.quietReportSend src team tag) s = .next { s with quietOut := s.quietOut ++ [(src, team, tag, s.received src team tag)] })

/-- The barrier instructions that change an object, and the completion check. -/
def Obligations.Barriers : Prop := Statements.BarrierUpdates ∧ Statements.BarrierCheck

/-- BARTEST, BARWAIT and its waking. -/
def Obligations.BarrierWaits : Prop := Statements.WaitAtBarrier ∧ Statements.BarrierWakes

/-- ARMW, and the arrivals of writes to armed words. -/
def Obligations.ArmedWords : Prop := Statements.Arm ∧ Statements.WritesArrive

/-- The drain of a publish, and the reports of quiet. -/
def Obligations.PublishDrains : Prop := Statements.Drain ∧ Statements.QuietReports

/-! ### Reserving loops -/

/-- RLOOP (R235, R236, R430): a group in a live instance, or an item count of all ones, is ILLEGAL with reason 7, but for a FREE RLOOP of a group
that has had its part of the instance of that id, which goes on to the table of R236 (log 106); an ORDERED loop starts; a FREE one
starts where the team has no record of the id, or has ended the one before; joins the current one under the same count; and waits for the
end of the one before. Registers, memory and everything else stay. -/
def Sys2Proof.Statements.LoopStarts : Prop := ∀ (a : Reg) (free : Bool) (loop : Fin 8) (s : State) (c : Ctx),
  let i : Instr := .rloop a free loop
  let d := c.advance i
  let n := (c.word a c.low).toNat
  let e := ((c.g.epochs.find? fun x => x.1 == loop.val).map Prod.snd).getD 0
  let inst : LoopInst := ⟨loop.val, free, n, 0, if free then e else 0⟩
  let joined : Group := { c.g with
    loop := some inst
    epochs := if free then (loop.val, e + 1) :: c.g.epochs.filter (fun x => x.1 != loop.val) else c.g.epochs }
  let started : Team := { c.t with live := { c.t.live with loops := inst :: c.t.live.loops.filter fun x => x.id != loop.val } }
  Issues i s c → c.room 0 → c.act ≠ [] →
    if (d.inLoop = true ∧ ¬ (free = true ∧ d.doneWith loop.val = true)) ∨ n = 2 ^ 32 - 1 then exec i s = .next (c.takeTrap (illegal (encode i) 7 c.mask))
    else if free = false then exec i s = .next ({ d with g := joined } : Ctx).commit
    else match c.t.live.loops.find? fun x => x.id == loop.val with
      | none => e = 0 → exec i s = .next ({ d with g := joined, t := started } : Ctx).commit
      | some r =>
        if e = r.epoch + 1 then
          if d.data.ended c.g r = true then exec i s = .next ({ d with g := joined, t := started } : Ctx).commit else exec i s = .next s
        else if e = r.epoch ∧ n ≠ r.n then exec i s = .next (c.takeTrap (illegal (encode i) 7 c.mask))
        else e ≤ r.epoch → exec i s = .next ({ d with g := joined } : Ctx).commit

/-- RLITEM (R237, R431): a lane with a pending item reads it again; the other active lanes take the next items in ascending lane order while
there are any, and read all ones after the last. The counter moves by the items taken. -/
def Sys2Proof.Statements.LoopItems : Prop := ∀ (k : Fin 96) (loop : Fin 8) (i : LoopInst) (s : State) (c : Ctx),
  let ins : Instr := .rlitem (.v k) loop
  let lanes := c.act.filter fun l => (c.g.slot? l).isNone
  let got := fun l => i.ctr + lanes.idxOf l
  let taken := lanes.filter fun l => decide (got l < i.n)
  Issues ins s c → c.room 136 → c.act ≠ [] → (c.advance ins).loopOf loop = some i → (∀ l ∈ c.act, ∀ x, c.g.slot? l = some x → x.admitted = false) →
  let base : Ctx := { c with g := { c.g with
    slots := (taken.map fun l => (⟨l, false, got l, [], 0⟩ : Slot)).reverse ++ c.g.slots } }
  let after := if taken = [] then base else base.setCtr i (i.ctr + taken.length)
    ∃ e : Ctx, exec ins s = .next e.commit ∧
      Wrote ins after e c.s c.g.latch (written c (.v k) 1 fun l => match c.g.slot? l with
        | some x => x.item
        | none => if got l < i.n then got l else 2 ^ 32 - 1)

/-- RLDONE and CLAIM (R238, R240, R349, R431, R432): RLDONE waits for the group's loads and stores, a faulted one of another fragment that has not
been issued again among them, and then retires the admitted items of the
fragment's slices; CLAIM posts the 8-byte granules of each active lane's access to the lane's item, and touches nothing else. -/
def Sys2Proof.Statements.LoopClaims : Prop :=
  (∀ (loop : Fin 8) (s : State) (c : Ctx), Issues (.rldone loop) s c → c.room 0 → ((c.advance (.rldone loop)).loopOf loop).isSome = true →
    exec (.rldone loop) s = .next (
      if c.g.count .ld = 0 ∧ c.g.count .st = 0 ∧ ∀ f ∈ c.g.frags, f.replay = true → f.lowest = c.f.lowest then
        let d := c.advance (.rldone loop)
        ({ d with g := { d.g with slots := c.g.slots.filter fun x => !(x.admitted && (sliceLanes c.f.slices).getLsbD x.lane && decide (x.lane < 32)) } } : Ctx).commit
      else s)) ∧
  (∀ (o : ClaimOps) (s : State) (c : Ctx), let n := xferBytes o.w o.sz
    let ea := fun l => c.rd o.a 2 l % 2 ^ 52
    Issues (.claim o) s c → c.room 0 → c.act ≠ [] → (∀ l ∈ c.act, ea l % n = 0) → ((c.advance (.claim o)).loopOf o.loop).isSome = true →
    (∀ l ∈ c.act, ∀ x, c.g.slot? l = some x → x.admitted = false) →
      let d := c.advance (.claim o)
      exec (.claim o) s = .next ({ d with g := { d.g with slots := c.g.slots.map fun x =>
        if x.lane ∈ c.act then ((List.range ((ea x.lane + n - 1) / 8 + 1 - ea x.lane / 8)).map (ea x.lane / 8 + ·)).foldl Slot.post x else x } } : Ctx).commit)

/-- WAVE (R239, R242, R460) over distinct items: an item of an ORDERED loop is admitted when no item of lower index in the group conflicts with it;
one of a FREE loop when it conflicts with no lower item that this WAVE admits, with no admitted item of another group, and with no item of
another group that has been put off eight times, unless its own turn comes first. The predicate shows the admitted lanes; the rest are put
off once more. -/
def Sys2Proof.Statements.Waves : Prop := ∀ (p loop : Fin 8) (i : LoopInst) (s : State) (c : Ctx),
  let ins : Instr := .wave p loop
  let others := c.otherSlots i
  Issues ins s c → c.room 12 → c.act ≠ [] → (c.advance ins).loopOf loop = some i →
  (∀ l, (sliceLanes c.f.slices).getLsbD l = true → l < 32 → ∀ x, c.g.slot? l = some x → x.admitted = false) →
  (c.g.slots.map (·.lane)).Nodup → (c.g.slots.map (·.item)).Nodup →
    ∃ (e : Ctx) (now : List Nat), exec ins s = .next e.commit ∧
      SetPred ins { c with g := { c.g with slots := c.g.slots.map fun x =>
          if x.lane ∈ now then { x with admitted := true } else if x.lane ∈ c.act then { x with defer := x.defer + 1 } else x } }
        e c.s c.g.latch p (fun l => decide (l ∈ now)) ∧
      ∀ x ∈ c.g.slots, (x.lane ∈ now ↔ x.lane ∈ c.act ∧
        if i.free then
          (∀ y ∈ c.g.slots, y.lane ∈ now → y.item < x.item → conflict x y = false) ∧
          (∀ y ∈ others, conflict x y = true → y.admitted = false ∧ (y.defer < 8 ∨ 8 ≤ x.defer ∧ x.item ≤ y.item))
        else ∀ y ∈ c.g.slots, y.item < x.item → conflict x y = false)

/-- The instructions of reserving loops. A FREE RLOOP of a group that has had its part is log 106, RLOOP in any live instance log 46, and whose
deferrals count log 47 (all DEDUCED). -/
def Obligations.Loops : Prop := Statements.LoopStarts ∧ Statements.LoopItems ∧ Statements.LoopClaims ∧ Statements.Waves

/-! ### Escorted requests -/

namespace Sys2Proof.Statements

/-- LDE and ATOME: success predicate, destination with its registers, address, escort register and mask, bytes of a lane, atomic. -/
def escortRow : Instr → Option (Fin 8 × Reg × Nat × Reg × Reg × BitVec 24 × Nat × Option (Bool × AtomOp))
  | .lde o => some (o.sp, o.d, o.w.regs, o.a, o.b, o.mask, xferBytes o.w o.sz, none)
  | .atome o => some (o.sp, o.d, atomRegs o.wide, o.a, o.b, o.mask, atomBytes o.wide, some (o.wide, o.op))
  | _ => none

end Sys2Proof.Statements

/-- LDE and ATOME (R182, R183, R326, R390): one whose cost exceeds the quota or the core's reserve is refused: its predicate clears and that is
all; otherwise the predicate is set, the request departs with the escorted registers, its cost is taken from the quota and the reserve, and
its registers are held. Registers and memory stay until it lands. The lanes of an LDE on pages that grant the load are settled or left to be read
as those of LD are, LDE.ACQ refreshing first (R131, R132, R192), and it waits as LD does for an older load of bytes that the team has written.
(An ATOME's publish: `OtherPublishes`.) -/
def Obligations.Escorts : Prop := ∀ (i : Instr) (sp : Fin 8) (d : Reg) (nd : Nat) (a b : Reg) (mask : BitVec 24) (nb : Nat)
  (atom : Option (Bool × AtomOp)) (s : State) (c : Ctx),
  escortRow i = some (sp, d, nd, a, b, mask, nb, atom) → Issues i s c → c.room 4364 → c.act ≠ [] →
  let ea := fun l => c.rd a 2 l % 2 ^ 52
  let used := (List.range 8).countP fun k => c.act.any fun l => l / 4 == k
  let cost := 16 * ((List.range 24).countP mask.getLsbD) * used
  let refuse := c.meta (·.escq) < c.g.escu + cost ∨ (c.coreOf.map (·.elb)).getD 0 < cost
  let ok := fun l => (c.s.access c.root .load (ea l)).toOption
  let behind := atom = none ∧ (∀ l ∈ c.act, (ok l).isSome) ∧ ∃ l ∈ c.act, ∃ p, ok l = some p ∧
    c.t.ownItems (32 * c.ref.group + l) p.1 nb ≠ [] ∧ c.g.unread p.1 nb = true
  (∀ l ∈ c.act, ea l % nb = 0) →
    (refuse → ∃ e : Ctx, exec i s = .next e.commit ∧ SetPred i c e c.s c.g.latch sp fun _ => false) ∧
    (¬ refuse → atom.isSome = true → c.t.pub.isSome = true → exec i s = .next s) ∧
    (¬ refuse → behind → exec i s = .next s) ∧
    (¬ refuse → ¬ behind → (atom.isSome = true → c.t.pub = none) → ∃ (e : Ctx) (x : Escort), exec i s = .next e.commit ∧ x ∈ e.g.escs ∧
      (∀ o, i = .lde o → refreshed c e (o.sc == .acq) ∧ x.bad.isNone = decide (∀ l ∈ c.act, (ok l).isSome) ∧
        ((∀ l ∈ c.act, (ok l).isSome) → settled c (o.sc == .acq) nb c.act (fun l => (((ok l).getD (0, false)).1))
          (fun l => (((ok l).getD (0, false)).2)) x.vals x.pas)) ∧
      x.lanes = c.act.map (fun l => (l, ea l)) ∧ x.cost = cost ∧ x.phase = c.t.phasen ∧ x.faulted = false ∧ x.atom = atom ∧
      x.operand = c.act.map (fun l => (l, BitVec.ofNat 64 (c.rd d nd l))) ∧ x.dst = c.runIds d nd ∧
      (∀ k : Fin 96, b = .v k → ∀ j, mask.getLsbD j = true → j < 24 → k.val + j < 96 → c.g.first k + j ∈ x.regs) ∧
      (∀ r ∈ x.regs, ∀ l, l < 32 → (∃ m ∈ c.act, m / 4 = l / 4) → (r, l, c.g.getId r l) ∈ x.carried) ∧
      (⟨x.op, .es, c.t.phasen, false, .esc x.op⟩ : Op) ∈ e.g.ops ∧ (∀ r ∈ x.dst ++ x.regs, r ∈ e.g.sb) ∧
      e.g.escu = c.g.escu + cost ∧ e.s.core? c.t.core = (c.s.core? c.t.core).map (fun k => { k with elb := k.elb - cost }) ∧
      e.s.mem = c.s.mem ∧ e.f = (c.advance i).f ∧ e.g.v = c.g.v ∧ e.g.s = c.g.s ∧
      ∀ q l, l < 32 → (e.g.pred q).getLsbD l = if q = sp.val ∧ l ∈ c.act then true else (c.g.pred q).getLsbD l)

/-! ### Remote access -/

namespace Sys2Proof.Statements

/-- What every remote instruction leaves alone while it issues. -/
structure RemoteIssued (i : Instr) (c e : Ctx) : Prop where
  ref : e.ref = c.ref
  frag : e.f.pc = (c.advance i).f.pc
  mem : e.s.mem = c.s.mem
  scr : e.t.live.scr = c.t.live.scr
  v : e.g.v = c.g.v
  s : e.g.s = c.g.s
  p : e.g.p = c.g.p

/-- Every peer can be reached, and every lane's offset is aligned. -/
def peersOk (c : Ctx) (n : Nat) (off : Nat → Nat) (ps : List (Nat × List Nat)) : Prop :=
  ∀ p ∈ ps, p.1 ≤ 9215 ∧ c.s.reachable p.1 = true ∧ ∀ l ∈ p.2, off l % n = 0

end Sys2Proof.Statements

namespace Sys2Proof.Statements

/-- A remote instruction: its peer register, the lanes that name peers, their offsets, and whether it names one lane of a peer alone. -/
def remoteRow (c : Ctx) : Instr → Option (Reg × List Nat × (Nat → Nat) × Bool)
  | .rld o => some (o.b, c.lanes o.d, fun l => c.rd o.a 2 l, false)
  | .rst o => some (o.b, if o.d.isV || o.a.isV || o.b.isV then c.act else c.act.take 1, fun l => c.rd o.a 2 l, false)
  | .ratom o => some (o.b, c.lanes o.d, fun l => c.rd o.a 2 l, false)
  | .rflush b => some (b, c.act, fun _ => 0, false)
  | .rfencef _ a b => some (b, c.act, fun l => c.rd a 2 l, true)
  | _ => none

end Sys2Proof.Statements

/-- R252, R253: the peers of an instruction are the distinct device ids of its active lanes, ascending, each with its lanes; an s register
names one peer for all of them. -/
def Sys2Proof.Statements.Peers : Prop := ∀ (c : Ctx) (b : Reg) (lanes : List Nat), lanes ≠ [] →
  (b.isV = false → c.peers b lanes = [((c.word b 0).toNat, lanes)]) ∧
  (b.isV = true → (c.peers b lanes).Pairwise (fun x y => x.1 < y.1) ∧
    ∀ p ls, (p, ls) ∈ c.peers b lanes ↔ ls = lanes.filter (fun l => decide ((c.word b l).toNat = p)) ∧ ls ≠ [])

/-- RLD (R252, R253, R419): one request for each peer, in ascending order of the peers, each with the offsets of its lanes, which leaves on its
route; the destination is held, and `ACQ` refreshes. That all peers go in one step is log 52 (DESIGN CHOICE). -/
def Sys2Proof.Statements.RemoteLoads : Prop := ∀ (o : RemOps) (s : State) (c : Ctx),
  let n := xferBytes o.w o.sz
  let off := fun l => c.rd o.a 2 l
  let ps := c.peers o.b (c.lanes o.d)
  Issues (.rld o) s c → c.room (136 * o.w.regs) → c.act ≠ [] → keyed c → peersOk c n off ps → c.g.count .rm + ps.length ≤ 64 →
    ∃ (e : Ctx) (rs : List RemReq), exec (.rld o) s = .next e.commit ∧ RemoteIssued (.rld o) c e ∧
      e.s.rreqs = c.s.rreqs ++ rs ∧ rs.length = ps.length ∧
      (∀ (k : Nat) (p : Nat × List Nat) r, ps[k]? = some p → rs[k]? = some r → Asks c c.t.phasen .rld p.1 n (p.2.map fun l => ⟨l, off l, []⟩) r) ∧
      (∀ r ∈ rs, left c.s e.s r.msg) ∧
      (∀ r ∈ c.runIds o.d o.w.regs, r ∈ e.g.sb) ∧ e.t.pb = c.t.pb ∧ e.t.phasen = c.t.phasen ∧
      e.t.snap = if o.sc = .acq then [] else c.t.snap

/-- RST (R129, R252): the Phase Buffer takes one item for each peer, under the number of its place in the order of issue; it leaves for its peer
when the phase is published (`Published`). RST.REL first takes a boundary at DOMAIN scope, once the team's earlier publish is over, and its fragment
waits for that publish. That all peers go in one step is log 52 (DESIGN CHOICE). -/
def Sys2Proof.Statements.RemoteStores : Prop := ∀ (o : RemOps) (s : State) (c : Ctx),
  let n := xferBytes o.w o.sz
  let lanes := if o.d.isV || o.a.isV || o.b.isV then c.act else c.act.take 1
  let ps := c.peers o.b lanes
  let items := fun (uid : Nat) => ps.zipIdx.map fun (p : (Nat × List Nat) × Nat) =>
    (⟨p.1.1, p.1.2.map fun l => ⟨l, c.rd o.a 2 l, leBytes n (c.rd o.d o.w.regs l)⟩, c.ref.group, laneSlices c.mask, n, uid + p.2⟩ : RstItem)
  let team := { c.t with rsts := c.t.rsts ++ items c.s.uid }
  Issues (.rst o) s c → c.room 0 → c.act ≠ [] → peersOk c n (fun l => c.rd o.a 2 l) ps → c.g.count .rm + ps.length ≤ 64 →
    (o.sc ≠ .rel → team.lines ≤ 64 * c.t.live.groups.length →
      ∃ e : Ctx, exec (.rst o) s = .next e.commit ∧ RemoteIssued (.rst o) c e ∧ e.t = team ∧ e.s = { c.s with uid := c.s.uid + ps.length } ∧
        { e.g with ops := c.g.ops } = c.g) ∧
    (o.sc = .rel → c.t.pub.isSome = true → exec (.rst o) s = .next s) ∧
    (o.sc = .rel → c.t.pub = none →
      ∃ w e : Ctx, exec (.rst o) s = .next e.commit ∧ RemoteIssued (.rst o) c e ∧
        Published c w .domain false false (some (c.ref.group, c.ref.slice)) ∧ Bounded c w c.f.pc ∧
        e.s = { w.s with uid := w.s.uid + ps.length } ∧ e.t = { w.t with rsts := items w.s.uid } ∧ { e.g with ops := w.g.ops } = w.g ∧
        e.f.wait = if w.t.pub.isSome then .pub else c.f.wait)

namespace Sys2Proof.Statements

/-- The requests of a RATOM are on their way: for each peer and each offset one, with the lanes of that offset, their operands and the next
sequence to that peer. `b` is the context in which they leave. -/
def ratomSent (o : RatomOps) (c b e : Ctx) : Prop :=
  let n := atomBytes o.wide
  let off := fun l => c.rd o.a 2 l
  let ps := c.peers o.b (c.lanes o.d)
  let offs := fun (ls : List Nat) => (ls.map off).eraseDups
  ∃ rs : List RemReq, RemoteIssued (.ratom o) c e ∧ e.f.stage = 0 ∧
    (∀ r ∈ c.runIds o.d (atomRegs o.wide), r ∈ e.g.sb) ∧ e.s.rreqs = b.s.rreqs ++ rs ∧
    rs.length = (ps.map fun p => (offs p.2).length).sum ∧ (∀ r ∈ rs, left b.s e.s r.msg) ∧
    ∀ p ∈ ps, ∀ k q, (offs p.2)[k]? = some q → ∃ r ∈ rs, r.msg.op = o.op ∧ r.msg.seq = (if k = 0 then b.s.nextSeq p.1 else (b.s.nextSeq p.1 + k) % 65536) ∧
      Asks c c.t.phasen .ratom p.1 n ((p.2.filter fun l => decide (off l = q)).map fun l =>
        ⟨l, q, leBytes n (c.rd o.d (atomRegs o.wide) l)⟩) r

/-- The windows of a RATOM's peers have room. -/
def ratomRoom (o : RatomOps) (c b : Ctx) : Prop :=
  ∀ p ∈ c.peers o.b (c.lanes o.d), b.s.seqRoom p.1 ((p.2.map fun l => c.rd o.a 2 l).eraseDups).length = true

end Sys2Proof.Statements

/-- RATOM (R138, R252, R255, R420) begins with a publish, for which it waits where it is not over at once; then, and its windows having room,
the requests of its peers and offsets leave; the destination is held. That all peers go in one step is log 52 (DESIGN CHOICE). -/
def Sys2Proof.Statements.RemoteAtomics : Prop := ∀ (o : RatomOps) (s : State) (c : Ctx),
  let ps := c.peers o.b (c.lanes o.d)
  Issues (.ratom o) s c → c.room 272 → c.act ≠ [] → keyed c → peersOk c (atomBytes o.wide) (fun l => c.rd o.a 2 l) ps →
  c.g.count .rm + ps.length ≤ 64 →
    (c.f.stage ≠ 0 → ratomRoom o c c → ∃ e : Ctx, exec (.ratom o) s = .next e.commit ∧ ratomSent o c c e) ∧
    (c.f.stage = 0 → c.t.pub.isSome = true → exec (.ratom o) s = .next s) ∧
    (c.f.stage = 0 → c.t.pub = none → ∃ w : Ctx, Published c w (c.effScope o.sc) false false (some (c.ref.group, c.ref.slice)) ∧
      w.t.phasen = c.t.phasen ∧
      (w.t.pub.isSome = true → exec (.ratom o) s = .next w.commit ∧ w.f = { c.f with stage := 1, wait := .pub }) ∧
      (w.t.pub = none → ratomRoom o c w → ∃ e : Ctx, exec (.ratom o) s = .next e.commit ∧ ratomSent o c w e))

/-- RFLUSH and RFENCEF (R256): RFLUSH sends one flush to each peer; RFENCEF ends the phase at DOMAIN scope, and one flag for each peer, with the
value and the offset of the peer's lowest lane, belongs to the phase before and waits for its publish. That all peers go in one step is log 52
(DESIGN CHOICE). -/
def Sys2Proof.Statements.Flags : Prop :=
  (∀ (b : Reg) (s : State) (c : Ctx),
    let ps := c.peers b c.act
    Issues (.rflush b) s c → c.room 0 → c.act ≠ [] → keyed c → peersOk c 1 (fun _ => 0) ps → c.g.count .rm + ps.length ≤ 64 →
      ∃ (e : Ctx) (rs : List RemReq), exec (.rflush b) s = .next e.commit ∧ RemoteIssued (.rflush b) c e ∧
        e.s.rreqs = c.s.rreqs ++ rs ∧ rs.length = ps.length ∧ (∀ r ∈ rs, left c.s e.s r.msg) ∧
        ∀ (k : Nat) (p : Nat × List Nat) r, ps[k]? = some p → rs[k]? = some r → r.held = false ∧ Asks c c.t.phasen .flush p.1 0 (p.2.map fun l => ⟨l, 0, []⟩) r) ∧
  (∀ (d a b : Reg) (s : State) (c : Ctx),
    let ps := c.peers b c.act
    Issues (.rfencef d a b) s c → c.act ≠ [] → peersOk c 8 (fun l => c.rd a 2 l) (ps.map fun p => (p.1, p.2.take 1)) →
    c.g.count .rm + ps.length ≤ 64 →
      (c.t.pub.isSome = true → exec (.rfencef d a b) s = .next s) ∧
      (c.t.pub = none → ∃ (e : Ctx) (rs : List RemReq), exec (.rfencef d a b) s = .next e.commit ∧ RemoteIssued (.rfencef d a b) c e ∧
        e.t.phasen = c.t.phasen + 1 ∧ (∀ r ∈ rs, r ∈ e.s.rreqs) ∧ rs.length = ps.length ∧
        ∀ (k : Nat) (p : Nat × List Nat) r, ps[k]? = some p → rs[k]? = some r → r.held = true ∧
          Asks c c.t.phasen .flag p.1 8 [⟨p.2.headD 0, c.rd a 2 (p.2.headD 0), leBytes 8 (c.rd d 2 (p.2.headD 0))⟩] r))

/-- R251, R253, R254: of the peers of any remote instruction the first, where it cannot be reached or its id is past 9215, traps with REMOTE and
cause 1, the lanes of that peer being named (of RFENCEF the one that it takes its flag from); nothing has been sent. A request of a function whose
key is 0 is not sent either: its group holds a pending REMOTE trap with cause 2. -/
def Sys2Proof.Statements.NoSuchPeer : Prop :=
  (∀ (i : Instr) (b : Reg) (lanes : List Nat) (off : Nat → Nat) (one : Bool) (p : Nat × List Nat) (rest : List (Nat × List Nat)) (s : State)
    (c : Ctx), remoteRow c i = some (b, lanes, off, one) → Issues i s c → c.act ≠ [] → c.peers b lanes = p :: rest →
    (9215 < p.1 ∨ c.s.reachable p.1 = false) →
      exec i s = .next (c.takeTrap { code := 11, addr := off (p.2.headD 0), lanes := maskOf (if one then p.2.take 1 else p.2), aux0 := 1,
                                     aux1 := BitVec.ofNat 32 p.1, aux2 := 0, pc := none })) ∧
  (∀ (r : RemReq) (s : State) (t : Team) (g : Group), r.msg.key = 0 → r.msg.lanes ≠ [] → s.team? r.team = some t → t.gen = r.gen →
    t.live.groups[r.group]? = some g →
      ∃ t' g' off, (s.sendReq r).netOut = s.netOut ∧ (∀ x ∈ (s.sendReq r).rreqs, x.id ≠ r.id) ∧ (s.sendReq r).mem = s.mem ∧
        (s.sendReq r).team? r.team = some t' ∧ t'.live.groups[r.group]? = some g' ∧ g'.v = g.v ∧ g'.s = g.s ∧ g'.p = g.p ∧
        .remote r.op r.phase 2 r.msg.dst off r.slices (maskOf (r.msg.lanes.map (·.lane))) ∈ g'.pend)

/-- The remote instructions. That all peers of one instruction go in one step is log 52 (DESIGN CHOICE). -/
def Obligations.RemoteAccess : Prop := Statements.Peers ∧ Statements.RemoteLoads ∧ Statements.RemoteStores ∧ Statements.RemoteAtomics ∧
  Statements.Flags ∧ Statements.NoSuchPeer

/-! ### The Matrix Array -/

namespace Sys2Proof.Statements

/-- A Matrix Array operation as it is posted: it counts in MX and is the last in the core's order; no register, no predicate, no byte of
memory or scratchpad and no tile changes. -/
structure MxPosted (i : Instr) (c e : Ctx) (k : Option Latch) (m : MxOp) : Prop where
  device : e.s = { c.s with uid := c.s.uid + 1, cores := c.s.cores.map fun x => if x.id = c.t.core then { x with mxNext := x.mxNext + 1 } else x }
  ref : e.ref = c.ref
  team : e.t.bare = c.t.bare
  frag : e.f = (c.advance i).f
  group : { e.g with ops := c.g.ops } = { c.g with latch := k }
  posted : (⟨c.s.uid, .mx, c.t.phasen, false, .mx m⟩ : Op) ∈ e.g.ops
  core : m.core = c.t.core
  order : m.order = (c.coreOf.map (·.mxNext)).getD 0

/-- A scratchpad range of the launch. -/
def inScr (c : Ctx) (a n : Nat) : Prop := a < 2 ^ 31 ∧ a + n ≤ c.scrSize

/-- The bytes of a range as the operation took them. -/
def took (c : Ctx) (m : MxOp) (a n : Nat) : Prop := ∀ k, k < n → look m.src (a + k) = look c.t.live.scr (a + k)

end Sys2Proof.Statements

/-- MMA (R215 to R224, R399) where its checks pass: the operation is posted with the A run of each active lane, through the reuse latch, and with
the B matrix and the scales as they stand at issue (DESIGN CHOICE, log 40). -/
def Sys2Proof.Statements.MmaIssue : Prop := ∀ (o : MmaOps) (wide : Bool) (nmax : Nat) (s : State) (c : Ctx),
  let fb := c.rd o.fmt 4 0
  let n := (c.word o.nreg 0).toNat
  let b := (c.word o.b 0).toNat
  let bc := fb / 256 % 256
  let sa := fb / 2 ^ 32 % 2 ^ 32
  let sb := fb / 2 ^ 64 % 2 ^ 32
  let run := mmaRun (fb % 256)
  let x := c.readA o.r o.a run
  let cols := if o.zf then nmax else n
  Issues (.mma o) s c → c.act ≠ [] → c.room (264 * (c.act.length * ((cols + 63) / 32))) →
  mmaBad fb o.t o.sat = false → 0 < n → n % 16 = 0 → n ≤ nmax → c.tileDecl o.tile.val = some (wide, nmax) →
  wide = decide (fb / 65536 % 256 = 1) → c.g.win + Reg.num o.a + run ≤ c.g.alloc →
  inScr c b (mmaBytes bc n) → (bc < 8 → b % mmaSize bc = 0) →
  (sa ≠ 2 ^ 32 - 1 → sa % 4 = 0 ∧ inScr c sa 128) → (sb ≠ 2 ^ 32 - 1 → sb % 4 = 0 ∧ inScr c sb (4 * n)) →
    ∃ (e : Ctx) (m : MxOp), exec (.mma o) s = .next e.commit ∧ MxPosted (.mma o) c e x.1.g.latch m ∧
      m.what = .mma o.zf o.t o.sat b fb ∧ m.tile = o.tile.val ∧ m.wide = wide ∧ m.nmax = nmax ∧ m.n = n ∧
      m.rows = c.act.map (fun l => (l, 0, x.2 l)) ∧ took c m b (mmaBytes bc n) ∧
      (sa ≠ 2 ^ 32 - 1 → ∀ l ∈ c.act, took c m (sa + 4 * l) 4) ∧ (sb ≠ 2 ^ 32 - 1 → took c m sb (4 * n))

/-- ACCLD, ACCST and ACCZ (R227, R311, R312) where their checks pass: row `l` of the tile goes with the address of lane `l`, from its v register or
at `l` rows from the s register's, without wrapping; ACCLD takes the bytes at issue (DESIGN CHOICE, log 40). -/
def Sys2Proof.Statements.AccIssue : Prop :=
  (∀ (o : AccOps) (st wide : Bool) (nmax : Nat) (s : State) (c : Ctx),
    let i : Instr := if st then .accst o else .accld o
    let n := (c.word o.b 0).toNat
    let el := if wide then 8 else 4
    let addr := fun l => if o.a.isV then (c.word o.a l).toNat else (c.word o.a 0).toNat + l * n * el
    Issues i s c → c.act ≠ [] → c.room (264 * (c.act.length * ((n + 63) / 32)) + 72 * (c.act.length * (n * el / 64 + 2))) →
    0 < n → n % 16 = 0 → c.tileDecl o.tile.val = some (wide, nmax) → n ≤ nmax →
    (∀ l ∈ c.act, addr l % el = 0 ∧ inScr c (addr l) (n * el) ∧ (st = true → c.inMirror (addr l) (n * el) = false)) →
      ∃ (e : Ctx) (m : MxOp), exec i s = .next e.commit ∧ MxPosted i c e c.g.latch m ∧
        m.what = (if st then .accst else .accld) ∧ m.tile = o.tile.val ∧ m.wide = wide ∧ m.nmax = nmax ∧ m.n = n ∧
        m.rows = c.act.map (fun l => (l, addr l, 0)) ∧ (st = false → ∀ l ∈ c.act, took c m (addr l) (n * el))) ∧
  (∀ (tile : Fin 16) (wide : Bool) (nmax : Nat) (s : State) (c : Ctx),
    Issues (.accz tile) s c → c.act ≠ [] → c.room (264 * (c.act.length * ((nmax + 63) / 32))) → c.tileDecl tile.val = some (wide, nmax) →
      ∃ (e : Ctx) (m : MxOp), exec (.accz tile) s = .next e.commit ∧ MxPosted (.accz tile) c e c.g.latch m ∧ m.what = .accz ∧
        m.tile = tile.val ∧ m.wide = wide ∧ m.nmax = nmax ∧ m.rows = c.act.map fun l => (l, 0, 0))

/-- MX_OPERATION_COMPLETE (R71, R221, R222, R224, R227): the oldest operation of the core takes effect: each element of the rows of an MMA takes the
old element, or 0 under Z, and the sum over 64 products of its row and column; Z clears the columns past n; ACCLD loads, ACCST stores, ACCZ
clears. Other rows, the registers and global memory stay. An operation that reads bytes which an older reflective store of its group has yet
to write waits (R225). Of an ACCST the bytes that a copy or gather has yet to land, and those of an outstanding ATOMS or CASS, are not covered
(R141 and R323 leave them open), nor are several rows over the copy ring, which may post such copies. -/
def Sys2Proof.Statements.MxLands : Prop := ∀ (core tid gi : Nat) (o : Op) (m : MxOp) (s : State) (t : Team),
  s.mxNext core = some (tid, gi, o, m) → s.team? tid = some t → t.live.tiles.any (fun p => p.1 == m.tile) = true →
  (m.rows.map (·.1)).Nodup → m.n ≤ m.nmax → m.nmax ≤ 512 →
    (m.reads ≠ [] → t.reflBefore gi o.id m.reads = true → exec (.mxOperationComplete core) s = .next s) ∧
    ((m.reads = [] ∨ t.reflBefore gi o.id m.reads = false) → ∃ s' t', exec (.mxOperationComplete core) s = .next s' ∧ s'.mem = s.mem ∧ s'.team? tid = some t' ∧
      (∀ k g, t.live.groups[k]? = some g → ∃ g', t'.live.groups[k]? = some g' ∧ g'.v = g.v ∧ g'.s = g.s ∧ g'.p = g.p ∧
        ∀ x ∈ g'.ops, k = gi → x.id = o.id → x.fin = true) ∧
      (∀ r c, c < 512 → r ∉ m.rows.map (·.1) → tileGet (t'.live.tile m.tile) r c = tileGet (t.live.tile m.tile) r c) ∧
      (∀ r ∈ m.rows, ∀ c, c < 512 →
        let new := tileGet (t'.live.tile m.tile) r.1 c
        let old := tileGet (t.live.tile m.tile) r.1 c
        match m.what with
        | .mma zf tr sat b fb =>
          let base := if zf ∧ c < m.nmax then 0 else old
          new = if c < m.n then
            (mmaElem (fb / 65536 % 256) (decide (fb / 2 ^ 24 % 2 = 1)) sat
              ((mmaScale m.src (fb / 2 ^ 32 % 2 ^ 32) r.1).mul (mmaScale m.src (fb / 2 ^ 64 % 2 ^ 32) c)) base
              ((List.range 64).map fun k => (mmaA (fb % 256) r.2.2 k, mmaB (fb / 256 % 256) tr m.n m.src b k c))).1 % 2 ^ 64
            else base
        | .accld => new = if c < m.n then readNat m.src (r.2.1 + c * m.size) m.size else old
        | .accst => new = old
        | .accz => new = if c < m.nmax then 0 else old) ∧
      (m.what ≠ .accst → t'.live.scr = t.live.scr) ∧
      (m.what = .accst → (∀ r ∈ m.rows, (s.tear t r.2.1 (m.n * m.size)).1 = [] ∧ (t.tearAtoms r.2.1 (m.n * m.size) s).1 = []) →
        (m.rows.length = 1 ∨ ∀ r ∈ m.rows, clearOf (s.metaOf t (·.cpring)) (ringOf t.live.scr (s.metaOf t (·.cpring)) (s.scrSizeOf t))
          r.2.1 (m.n * m.size)) →
        (m.rows.Pairwise fun x y => x.2.1 + m.n * m.size ≤ y.2.1 ∨ y.2.1 + m.n * m.size ≤ x.2.1) →
        (∀ r ∈ m.rows, ∀ c, c < m.n → readNat t'.live.scr (r.2.1 + c * m.size) m.size = tileGet (t.live.tile m.tile) r.1 c % 2 ^ (8 * m.size)) ∧
        ∀ a, (∀ r ∈ m.rows, a < r.2.1 ∨ r.2.1 + m.n * m.size ≤ a) → look t'.live.scr a = look t.live.scr a))

/-- One element of an MMA over integers (R221): the exact sum, wrapped to 32 bits or saturated. -/
def Sys2Proof.Statements.IntegerMma : Prop := ∀ (neg sat : Bool) (one : FVal) (old : Nat) (a b : Nat → Nat),
  let terms := (List.range 64).map fun k => (mmaScalar 7 (a k), mmaScalar 7 (b k))
  let sum := toSigned 32 old + ((List.range 64).map fun k => (if neg then -1 else 1) * toSigned 8 (a k) * toSigned 8 (b k)).sum
  mmaElem 8 neg sat one old terms = ((if sat then (max (-2147483648) (min sum 2147483647) % 2 ^ 32).toNat else (sum % 2 ^ 32).toNat), [])

/-- The Matrix Array, from issue to effect. That an operation takes its scratchpad bytes at issue is log 40 (DESIGN CHOICE). -/
def Obligations.MatrixArray : Prop := Statements.MmaIssue ∧ Statements.AccIssue ∧ Statements.MxLands ∧ Statements.IntegerMma

/-! ### The engines' commands -/

/-- CPYP (R65, R68, R358, R359): an invalid ring, or more entries than it has slots, is ILLEGAL with reason 7; CPYP waits for room in the ring and in
CP, where its sources overlap the phase's unpublished lines for a boundary, and where they overlap a line that the drain still holds until it has
reached memory; then its entries stand in their slots in lane order, TAIL
and NOTIFY have moved past them, each counts in CP, and the registers that entries are to fill are held. -/
def Obligations.CopyRing : Prop := ∀ (d : Reg) (s : State) (c : Ctx),
  let off := c.meta (·.cpring)
  let field := fun (o n : Nat) => readNat c.t.live.scr (off + o) n
  let base := field 0 4
  let count := field 4 4
  let head := field 8 8
  let tail := field 16 8
  let es := (c.lanes d).map fun l => c.rd d 8 l
  let valid := base % 32 = 0 ∧ 2 ≤ count ∧ count ≤ 256 ∧ (∃ k, count = 2 ^ k) ∧ base + 32 * count ≤ c.scrSize
  let regs := es.map fun x => (((entryOf x).run c.t.live).getD []).length
  let next := leBytes 8 ((tail + es.length) % 2 ^ 64)
  let span := es.flatMap fun x => (entryOf x).named.flatMap fun p => c.physical p.1 p.2
  let overlap := c.unpublished span
  c.act ≠ [] →
    (s.cur.bind s.ctx = some c → c.held = false → c.t.undoAfter = false → c.check (.cpyp d) = none → (¬ valid ∨ count < es.length) →
      exec (.cpyp d) s = .next (c.takeTrap (illegal (encode (.cpyp d)) 7 c.mask))) ∧
    (s.cur.bind s.ctx = some c → c.held = false → c.t.undoAfter = false → c.check (.cpyp d) = none → valid → es.length ≤ count →
      (tail + 2 ^ 64 - head) % 2 ^ 64 + es.length > count ∨ 64 < c.g.count .cp + es.length → exec (.cpyp d) s = .next s) ∧
    (Issues (.cpyp d) s c → valid → c.room (72 * (es.length + 4) + 136 * regs.sum) → (tail + 2 ^ 64 - head) % 2 ^ 64 + es.length ≤ count →
      c.g.count .cp + es.length ≤ 64 →
      (overlap ≠ [] → c.t.pub.isSome = true → exec (.cpyp d) s = .next s) ∧
      (overlap ≠ [] → c.t.pub = none → ∃ e : Ctx, exec (.cpyp d) s = .next e.commit ∧ e.f.pc = c.f.pc ∧ e.t.phasen = c.t.phasen + 1 ∧
        e.t.pb = [] ∧ e.t.live.scr = c.t.live.scr ∧ e.s.mem = c.s.mem) ∧
      (overlap = [] → c.draining span = true → exec (.cpyp d) s = .next s) ∧
      (overlap = [] → c.draining span = false → ∃ e : Ctx, exec (.cpyp d) s = .next e.commit ∧ e.s = { c.s with uid := c.s.uid + es.length } ∧ e.f = (c.advance (.cpyp d)).f ∧
        e.t.live.scr = writeBytes (writeBytes (es.zipIdx.foldl (fun m x =>
          writeBytes m (base + (tail + x.2) % 2 ^ 64 % count * 32) (leBytes 32 x.1)) c.t.live.scr) (off + 16) next) (off + 24) next ∧
        e.g.v = c.g.v ∧ e.g.s = c.g.s ∧ e.g.p = c.g.p ∧ e.t.pb = c.t.pb ∧
        (∀ k, k < es.length → (⟨c.s.uid + k, .cp, c.t.phasen, false, .copy ((tail + k) % 2 ^ 64)⟩ : Op) ∈ e.g.ops) ∧
        ∀ x ∈ es, ∀ ids, (entryOf x).run c.t.live = some ids → ∀ r ∈ ids,
          ∃ g, e.team.live.groups[(entryOf x).target]? = some g ∧ vName r ∈ g.sb))

namespace Sys2Proof.Statements

/-- A command that is posted to an engine: it counts in its class, and no register, no predicate, no byte of memory or scratchpad changes; the
group's loads that are under way read no later than now (row LD of R148). -/
structure EnginePosted (i : Instr) (c e : Ctx) (cls : OpClass) (kind : OpKind) : Prop where
  ref : e.ref = c.ref
  frag : e.f = (c.advance i).f
  team : { e.t with bars := c.t.bars } = c.t
  group : { e.g with ops := c.g.ops } = { c.g.capLoads c.t.phasen c.s.ver with ops := c.g.ops }
  op : (⟨c.s.uid, cls, c.t.phasen, false, kind⟩ : Op) ∈ e.g.ops

/-- A source range meets a line that the phase has not published (R144): the instruction waits for an outstanding publish, or ends the phase and
issues again. One that meets a line which the drain still holds waits until it has reached memory (note 2 of R147 and R148). -/
def publishesFirst (i : Instr) (s : State) (c : Ctx) (span : List (Nat × Nat)) : Prop :=
  (c.unpublished span = [] → c.draining span = true → exec i s = .next s) ∧
  (c.unpublished span ≠ [] → c.t.pub.isSome = true → exec i s = .next s) ∧
  (c.unpublished span ≠ [] → c.t.pub = none → ∃ e : Ctx, exec i s = .next e.commit ∧ e.f.pc = c.f.pc ∧ e.t.phasen = c.t.phasen + 1 ∧ e.t.pb = [] ∧
    e.s.gaths = c.s.gaths ∧ e.s.colls = c.s.colls ∧ e.s.rses = c.s.rses ∧ e.s.mem = c.s.mem ∧ e.t.live.scr = c.t.live.scr)

/-- A source range that neither the phase nor the drain holds a line of. -/
def published (c : Ctx) (span : List (Nat × Nat)) : Prop := c.unpublished span = [] ∧ c.draining span = false

/-- The barrier that a command names passes CheckBarrier, or it names none. -/
def namedOk (c : Ctx) (w : Nat) : Prop := w % 2 ^ 20 = 2 ^ 20 - 1 ∨ barrierOk c (16 * (w % 2 ^ 20))

end Sys2Proof.Statements

/-- GATH (R260, R379, R380) where its checks pass: the descriptor goes to the Gather Engine with the indices as they stand at issue. -/
def Sys2Proof.Statements.GatherPosted : Prop := ∀ (d : Reg) (s : State) (c : Ctx),
  let x := c.rd d 8 0
  let g : GathDesc := ⟨x % 2 ^ 64, x / 2 ^ 64 % 2 ^ 32, x / 2 ^ 96 % 2 ^ 32, x / 2 ^ 128 % 2 ^ 32, x / 2 ^ 160 % 2 ^ 32, x / 2 ^ 192 % 2 ^ 32,
    x / 2 ^ 224 % 2 ^ 32⟩
  let idx := (List.range g.count).map fun j => readNat c.t.live.scr (g.idx + 4 * j) 4
  Issues (.gath d) s c → c.room 0 → c.act ≠ [] → g.count ≤ 65536 → g.rowb ≤ 4096 → namedOk c g.ctl → g.idx % 4 = 0 → g.dst % 4 = 0 →
  inScr c g.idx (4 * g.count) → g.dst < 2 ^ 31 → (g.dst + g.count * g.rowb + 7) / 8 * 8 + 8 ≤ c.scrSize →
    publishesFirst (.gath d) s c (c.gathSpan g idx) ∧
    (published c (c.gathSpan g idx) → ∃ e : Ctx, exec (.gath d) s = .next e.commit ∧ EnginePosted (.gath d) c e .ga (.gath c.s.uid) ∧
      e.s = { c.s with
        uid := c.s.uid + 1
        funcs := e.s.funcs
        hostWait := e.s.hostWait
        gaths := c.s.gaths ++ [
          { id := c.s.uid, team := c.ref.team, gen := c.t.gen, phase := c.t.phasen, group := c.ref.group, op := c.s.uid,
            src := g.src, idx := idx, count := g.count, rowb := g.rowb, stride := g.stride, dst := g.dst, ctl := BitVec.ofNat 32 g.ctl,
            left := List.range g.count, credited := 0, ver := c.s.ver, cap := none, torn := [] }] })

/-- COLL (R259, R353) where its checks pass: the descriptor joins the engine's acceptance order. -/
def Sys2Proof.Statements.CollectivePosted : Prop := ∀ (d : Reg) (s : State) (c : Ctx),
  let x := c.rd d 8 0
  let ctl := x % 2 ^ 32
  let count := x / 2 ^ 32 % 2 ^ 32
  let src := x / 2 ^ 64 % 2 ^ 64
  let bar := x / 2 ^ 192 % 2 ^ 32
  let stat := x / 2 ^ 224 % 2 ^ 32
  let span := c.physical src (collSrcLen ctl count (c.s.groupOf c.t ctl).length)
  Issues (.coll d) s c → c.room 0 → c.act ≠ [] → namedOk c bar → stat % 8 = 0 → inScr c stat 8 →
    publishesFirst (.coll d) s c span ∧
    (published c span → ∃ e : Ctx, exec (.coll d) s = .next e.commit ∧ EnginePosted (.coll d) c e .co (.coll c.s.uid) ∧
      e.s = { c.s with
        uid := c.s.uid + 1
        colls := c.s.colls ++ [
          { id := c.s.uid, team := c.ref.team, gen := c.t.gen, phase := c.t.phasen, group := c.ref.group, op := c.s.uid,
            launch := c.t.launch, ctl := BitVec.ofNat 32 ctl, count := count, src := src, dst := x / 2 ^ 128 % 2 ^ 64, bar := BitVec.ofNat 32 bar,
            stat := stat, served := false, landed := false, inst := 0, rank := 0, members := 0, code := 0, ver := c.s.ver, cap := none }] })

/-- RSHARD (R434, R435) where its checks pass: the command goes to the Re-Shard Engine with the physical address of its progress record. -/
def Sys2Proof.Statements.ReshardPosted : Prop := ∀ (d : Reg) (pg : Page) (pa : Nat) (s : State) (c : Ctx),
  let x := c.rd d 8 0
  let src := x % 2 ^ 64
  let dst := x / 2 ^ 64 % 2 ^ 64
  let prog := x / 2 ^ 128 % 2 ^ 64
  let bar := x / 2 ^ 192 % 2 ^ 32
  let span := (c.rshardRanges src dst).flatMap fun r => c.physical r.1 r.2
  Issues (.rshard d) s c → c.room 0 → c.act ≠ [] → x / 2 ^ 224 % 2 ^ 32 = 0 → bar / 2 ^ 20 = 0 → src % 64 = 0 → dst % 64 = 0 → prog % 8 = 0 →
  namedOk c bar → c.s.translate c.root prog = some (pg, pa) → c.s.dstFaults c.root false prog 16 = [] →
    publishesFirst (.rshard d) s c span ∧
    (published c span → ∃ e : Ctx, exec (.rshard d) s = .next e.commit ∧ EnginePosted (.rshard d) c e .co (.rshard c.s.uid) ∧
      e.s = { c.s with
        uid := c.s.uid + 1
        rses := c.s.rses ++ [
          { id := c.s.uid, team := c.ref.team, gen := c.t.gen, phase := c.t.phasen, group := c.ref.group, op := c.s.uid,
            src := src, dst := dst, prog := prog, progPa := pa, bar := BitVec.ofNat 32 bar, ver := c.s.ver, running := false, elem := 0, dlo := [], dhi := [],
            sbase := 0, dbase := 0, pieces := [], flight := [], credited := 0, stop := none }] })

/-- The commands to the gather, collective and re-shard engines. -/
def Obligations.EngineCommands : Prop := Statements.GatherPosted ∧ Statements.CollectivePosted ∧ Statements.ReshardPosted

/-! ### Sealing -/

/-- SEALO (R290, R440): the handle of a new context in d, or the code of the first check that fails: reserved fields and algorithm, a free
handle of the team's four, a valid slot of the partition with the TYPE of the algorithm; with no lane active it does nothing. Where the spec
leaves a choice: log 25. -/
def Sys2Proof.Statements.SealOpens : Prop := ∀ (k : Fin 31) (a : Reg) (s : State) (c : Ctx),
  let i : Instr := .sealo (.s k) a
  let x := c.rd a 1 0
  let slot := x % 256
  let alg := x / 256 % 4
  let free := (List.range 4).find? fun h => !c.t.live.seals.any fun y => y.1 == h
  let bound := c.s.keySlots.any fun q => q.slot == slot && q.v && some q.part == c.part.map (·.id) && q.type == alg + 2
  let res := if x / 1024 ≠ 0 ∨ 2 ≤ alg then 0x80000003 else match free with
    | none => 0x80000001
    | some h => if bound then h else 0x80000002
  let opened := x / 1024 = 0 ∧ alg < 2 ∧ free ≠ none ∧ bound = true
  Issues i s c → c.room 12 →
    (c.act = [] → exec i s = .next (c.advance i).commit) ∧
    (c.act ≠ [] → ∃ e : Ctx, exec i s = .next e.commit ∧
      Wrote i { c with
          t := if opened then { c.t with live := { c.t.live with seals := c.t.live.seals ++ [(res, ⟨alg, slot, none, [], false, false⟩)] } } else c.t
          g := { c.g with ops := e.g.ops } }
        e { c.s with uid := c.s.uid + 1 } c.g.latch (written c (.s k) 1 fun _ => res))

/-- SEALA and SEALC (R291, R292, R440). SEALA with a handle that is not open, a reserved bit set or a length over 2²⁴ is ILLEGAL with reason 7, and
a range outside the scratchpad is SCRATCH; otherwise it waits for an outstanding publish, and for the group's earlier reflective stores and ACCSTs
to a scratchpad range, and is posted with its range, a scratchpad range as it stands at issue (DESIGN CHOICE, log 40). SEALC with an address off a
multiple of 64 is ALIGN; without an open context that has absorbed or is to absorb it is ILLEGAL with reason 7; otherwise it is posted, and its
handle is open no more. With no lane active both do nothing. -/
def Sys2Proof.Statements.SealPosts : Prop :=
  (∀ (a : Reg) (s : State) (c : Ctx),
    let i : Instr := .seala a
    let x := c.rd a 4 0
    let addr := x % 2 ^ 64
    let len := x / 2 ^ 64 % 2 ^ 32
    let w := x / 2 ^ 96 % 2 ^ 32
    let scr := decide (w / 2 ^ 30 = 1)
    let fields := w % 2 ^ 30 < 4 ∧ w / 2 ^ 30 < 2 ∧ (c.openCtx (w % 4)).isSome = true ∧ len ≤ 2 ^ 24
    let earlier := scr = true ∧ c.g.ops.any (fun o => o.writesScr addr len) = true
    let posted : State := { c.s with uid := c.s.uid + 1 }
    Issues i s c →
      (c.act = [] → c.room 0 → exec i s = .next (c.advance i).commit) ∧
      (c.act ≠ [] → ¬ fields → exec i s = .next (c.takeTrap (illegal (encode i) 7 c.mask))) ∧
      (c.act ≠ [] → fields → scr = true → ¬ inScr c addr len → exec i s = .next (c.takeTrap (trapAt 7 addr c.mask))) ∧
      (c.act ≠ [] → fields → (scr = true → inScr c addr len) →
        (c.t.pub.isSome = true ∨ earlier → exec i s = .next s) ∧
        (c.t.pub = none → scr = false → c.room 0 → publishesFirst i s c (c.physical addr len)) ∧
        (c.t.pub = none → ¬ earlier → (scr = false → published c (c.physical addr len)) → c.room 0 →
          ∃ e : Ctx, exec i s = .next e.commit ∧
            EnginePosted i c e .cp (.seala (w % 4) (!scr) addr len c.s.ver (if scr then readBytes c.t.live.scr addr len else [])) ∧
            e.s = if scr then posted else posted.askHostRange ((c.func.map (·.vf)).getD 256) c.s.uid c.root addr len))) ∧
  (∀ (a b : Reg) (s : State) (c : Ctx),
    let i : Instr := .sealc a b
    let h := c.rd a 1 0
    let addr := c.rd b 2 0
    let ready := ∃ q, c.openCtx h = some q ∧ (q.seq.isSome = true ∨ (c.advance i).team.sealAhead h c.s.uid = true)
    Issues i s c →
      (c.act = [] → c.room 0 → exec i s = .next (c.advance i).commit) ∧
      (c.act ≠ [] → addr % 64 ≠ 0 → exec i s = .next (c.takeTrap (trapAt 3 addr c.mask))) ∧
      (c.act ≠ [] → addr % 64 = 0 → ¬ ready → exec i s = .next (c.takeTrap (illegal (encode i) 7 c.mask))) ∧
      (c.act ≠ [] → addr % 64 = 0 → ready → c.room 0 → ∃ e : Ctx, exec i s = .next e.commit ∧
        EnginePosted i
          { c with t := { c.t with live := { c.t.live with seals := c.t.live.seals.map fun y => if y.1 = h then (y.1, { y.2 with closing := true }) else y } } }
          e .cp (.sealc h addr) ∧
        e.s = { c.s with uid := c.s.uid + 1 }))

/-- SEALA_ABSORB and SEALC_RECORD (R291, R292, R294, R138). The oldest SEALA of a group, once its host lines are there, adds its bytes to the
context of its handle: a scratchpad range as it was posted, a range of global memory as the engine reads it; one that the engine may not read fails
the context, and a failed context stays as it is. The first absorption takes the slot's next sequence (which value that is: DESIGN CHOICE, log 24),
and the phase ends with it (when within the command: DESIGN CHOICE, log 26). A SEALC waits for the earlier SEALAs of its context, and for the
channel of its function where its address lies in host memory; then the record, or the one kept from before a rollback, stands at its address, or
goes to the SEALOUT ring where the address may not be written, and the handle is free. -/
def Sys2Proof.Statements.SealEnds : Prop :=
  (∀ (team group h a len ver : Nat) (glob : Bool) (data : List Byte) (q : SealCtx) (s : State) (t : Team) (g : Group) (o : Op),
    s.team? team = some t → t.live.groups[group]? = some g → g.firstOp isSeala = some o → o.kind = .seala h glob a len ver data →
    t.live.seals.find? (fun x => x.1 == h) = some (h, q) →
      let root := ((s.funcOf t).map (·.root)).getD 0
      let bytes := if glob then (s.engRead root none ver none a len).1 else data
      let q' := if q.failed then q else if glob = true ∧ s.srcFaults root false a len 0 ≠ [] then { q with failed := true }
        else { q with bytes := q.bytes ++ bytes }
      (s.awaitsHost o.id = true → exec (.sealaAbsorb team group) s = .next s) ∧
      (s.awaitsHost o.id = false → ∃ s' t', exec (.sealaAbsorb team group) s = .next s' ∧ s'.mem = s.mem ∧ s'.team? team = some t' ∧
        t'.live.seals.find? (fun x => x.1 == h) =
          some (h, { q' with seq := some (q.seq.getD (((s.keySlots.find? fun k => k.slot == q.slot).map (·.seq)).getD 0)) }) ∧
        (q.seq = none → s'.keySlots = s.keySlots.map fun k => if k.slot = q.slot then { k with seq := (k.seq + 1) % 2 ^ 64 } else k) ∧
        (q.seq.isSome = true → s'.keySlots = s.keySlots) ∧ t'.phasen = if t.pub = none then t.phasen + 1 else t.phasen)) ∧
  (∀ (team group h addr : Nat) (q : SealCtx) (s : State) (t : Team) (g : Group) (o : Op),
    s.team? team = some t → t.live.groups[group]? = some g → g.firstOp isSealc = some o → o.kind = .sealc h addr →
    t.live.seals.find? (fun x => x.1 == h) = some (h, q) →
      let root := ((s.funcOf t).map (·.root)).getD 0
      let vf := ((s.funcOf t).map (·.vf)).getD 256
      let kept := t.sealKept.find? fun k => k.1 == h && k.2.1 == q.seq.getD 0
      let rec_ := (kept.map (·.2.2)).getD (s.sealRecord (((s.partOf t).map (·.id)).getD 0) q false)
      let holds := s.dstFaults root false addr 3392 = [] ∧ s.hostHeld (s.funcOf t) root addr 3392 = true
      (t.sealAhead h o.id = true ∨ holds → exec (.sealcRecord team group) s = .next s) ∧
      (t.sealAhead h o.id = false → ¬ holds → ∃ s' t', exec (.sealcRecord team group) s = .next s' ∧ s'.team? team = some t' ∧
        s'.mem = (if s.dstFaults root false addr 3392 = [] then s.engWrite vf root addr rec_
          else s.sealOutRing t (if q.failed then 2 else 0) rec_).mem ∧
        (∀ y ∈ t'.live.seals, y.1 ≠ h) ∧ (∀ y ∈ t.live.seals, y.1 ≠ h → y ∈ t'.live.seals) ∧ s'.keySlots = s.keySlots))

/-- A seal record (R293): 3,392 bytes, the magic and version first, then status, slot, partition, device, sequence and length, and the SHA-384 digest
of the bytes absorbed. -/
def Sys2Proof.Statements.SealRecord : Prop := ∀ (s : State) (part : Nat) (q : SealCtx) (closed : Bool),
  let r := s.sealRecord part q closed
  let field := fun (o n : Nat) => leNat ((r.drop o).take n)
  r.length = 3392 ∧ field 0 4 = 0x314C4553 ∧ field 4 2 = 1 ∧ field 6 2 = (if q.failed then 2 else if closed then 1 else 0) ∧
    field 8 1 = q.alg % 256 ∧ field 9 1 = q.slot % 256 ∧ field 10 2 = part % 65536 ∧ field 12 2 = s.devId % 65536 ∧
    field 14 2 = (if q.alg = 0 then 3309 else 96) ∧ field 16 8 = q.seq.getD 0 % 2 ^ 64 ∧ field 24 8 = q.bytes.length % 2 ^ 64 ∧
    (r.drop 32).take 48 = sha384 q.bytes

/-- Sealing, from the opening of a context to its record. Which sequence is assigned is log 24, when within a command its parts happen log 26, a
scratchpad range read at issue log 40 (all DESIGN CHOICE). -/
def Obligations.Sealing : Prop := Statements.SealOpens ∧ Statements.SealPosts ∧ Statements.SealEnds ∧ Statements.SealRecord

/-! ### Launches from the device -/

/-- LNCH (R278, R394, R395): it publishes at DEVICE scope first, as an atomic does; a record in host memory is asked for once, after the drain has
given up the team's writes to it, and waited for (DESIGN CHOICE, log 45); then its fragment waits past the instruction for the front end. -/
def Sys2Proof.Statements.LaunchWaits : Prop := ∀ (d a : Reg) (q : BitVec 6) (pa : Nat) (inv : Bool) (s : State) (c : Ctx),
  let i : Instr := .lnch d a q
  let va := c.rd a 2 c.low % 2 ^ 52
  let asked := fun (w : Ctx) => ({ w with f := { (c.advance i).f with stage := 0, wait := .lnch pa q.toNat d } } : Ctx).commit
  let mine := c.t.drain.any fun x => x.item.meets pa 64
  Issues i s c → c.room 0 → c.act ≠ [] → va % 64 = 0 → pa % 64 = 0 → c.s.access c.root .load va = .ok (pa, inv) →
    (c.f.stage ≠ 0 → hostRead c pa 64 → exec i s = .next (asked c)) ∧
    (c.f.stage ≠ 0 → c.s.regionOf pa = some .host → mine = true ∨ 2 ≤ c.f.stage ∧ c.s.awaitsHost (c.f.stage - 2) = true → exec i s = .next s) ∧
    (c.f.stage = 1 → c.s.regionOf pa = some .host → mine = false → ∃ e : Ctx, exec i s = .next e.commit ∧
      e.f = { c.f with stage := c.s.uid + 2 } ∧ e.t = c.t ∧ e.g = c.g ∧ (c.s.uid, pa / 64) ∈ e.s.hostWait ∧ e.s.mem = c.s.mem) ∧
    (c.f.stage = 0 → c.t.pub.isSome = true → exec i s = .next s) ∧
    (c.f.stage = 0 → c.t.pub = none → ∃ w : Ctx, Published c w .device false false (some (c.ref.group, c.ref.slice)) ∧ w.t.phasen = c.t.phasen ∧
      (w.t.pub.isSome = true → exec i s = .next w.commit ∧ w.f = { c.f with stage := 1, wait := .pub }) ∧
      (w.t.pub = none → c.s.regionOf pa ≠ some .host → exec i s = .next (asked w)))

/-- LNCH_COMPLETE (R2, R394, R395): the front end reads the 64 bytes and answers 0 (accepted: a launch enters the journal), 1 (a SEQ the queue has
seen), 2 (no room, or fewer than two dies to hold the record: log 107) or 3 (queue not enabled, function not in RUN, a function of its
partition in ERROR); the status goes into d, and the boundary is taken. That 3 stands before 1, and that the record is read when the front end
completes, is log 63 (DEDUCED). -/
def Sys2Proof.Statements.LaunchAnswers : Prop := ∀ (r : FragRef) (pa q : Nat) (k : Fin 31) (f : Func) (s : State) (c : Ctx),
  s.ctx r = some c → c.f.wait = .lnch pa q (.s k) → c.t.pub = none → c.func = some f → s.func? f.vf = some f →
  let bs := readBytes s.mem pa 64
  let seq := leNat (bs.take 8)
  let queue := f.queues.find? fun x => x.q == q
  let used := (s.launches.filter fun l => l.vf == f.vf && l.q == q).length
  let runs := f.ifst = .run ∧ ∀ k ∈ s.funcs, k.part = f.part → k.ifst ≠ .error
  let st := if runs then match queue with
    | none => 3
    | some x => if x.seq.any (fun m => decide (seq ≤ m)) then 1 else if ¬ x.en then 3
        else if used < 4096 ∧ 2 ≤ (s.dies.filter fun d => !d.failed).length then 0 else 2
    else 3
  ∃ e : Ctx, exec (.lnchComplete r.team r.group r.slice) s = .next e.commit ∧ e.s.mem = s.mem ∧ e.f.wait = .run ∧ e.f.pc = c.f.pc ∧
    e.t.phasen = c.t.phasen + 1 ∧ (∀ b m, 1 ≤ b → m < 32 → e.g.getId b m = if b = 1 + k.val then BitVec.ofNat 32 st else c.g.getId b m) ∧
    (st ≠ 0 → e.s.launches.map Launch.uncounted = s.launches.map Launch.uncounted) ∧
    (st = 0 → ∃ l, e.s.launches.map Launch.uncounted = s.launches.map Launch.uncounted ++ [l] ∧ l.vf = f.vf ∧ l.q = q ∧ l.seq = seq ∧ l.status = .accepted ∧
      l.tag = BitVec.ofNat 32 (leNat ((bs.drop 44).take 4)))

/-- A launch that kernel code makes. When the record is read, and status 3 for a SEQ already seen, is log 63 (DEDUCED). -/
def Obligations.DeviceLaunch : Prop := Statements.LaunchWaits ∧ Statements.LaunchAnswers

/-! ### The host -/

namespace Sys2Proof.Statements

/-- A function's partition is confidential (R285). -/
abbrev guards (s : State) (f : Func) : Prop := (s.part? f.part).any (·.prot) = true

/-- The messages of the host that its channel carries, as they come over the wire: the function, the KIND of R278, and the content. -/
def fromHost : Instr → Option (Nat × Nat × List Byte × List Byte)
  | .launchRecord vf q bytes wire => some (vf, 1, Config.hostContent 1 [q] (fit 64 bytes), wire)
  | .deviceMemoryWrite vf va data wire => some (vf, 8, Config.hostContent 8 [va.toNat, data.length] data, wire)
  | .deviceMemoryReadRequest vf va len wire => some (vf, 9, Config.hostContent 9 [va.toNat, len] [], wire)
  | .hostMemoryReadReply vf pa data wire => some (vf, 7, Config.hostContent 7 [pa] data, wire)
  | .trapReply vf token kill wire => some (vf, 4, leBytes 4 token ++ leBytes 2 (if kill then 1 else 0) ++ leBytes 2 0, wire)
  | .killRequest vf q seq wire => some (vf, 11, Config.hostContent 11 [q, seq] [], wire)
  | _ => none

/-- The record of R287 that carries a message to the device under a key: KIND, VFID, LEN, the ciphertext, and the tag over it with the first eight
bytes as additional data; the IV is the direction byte 01, three zero bytes and the device's own count of the records that have come. -/
def wireRecord (f : Func) (key kind : Nat) (plain : List Byte) : List Byte :=
  let iv : List Byte := [1, 0, 0, 0] ++ leBytes 8 f.rxCtr
  let head := leBytes 2 kind ++ leBytes 2 f.vf ++ leBytes 4 plain.length
  let data := fit plain.length (Config.gcmText f.vf key iv plain)
  head ++ data ++ fit 16 (Config.gcmTag f.vf key iv head data)

/-- A message of the host reaches a function: where its partition is confidential the channel has a key and is not in ERROR, and what came over
the wire is the record that carries the message (R287, R288). -/
def hears (s : State) (i : Instr) (f : Func) : Prop := ∃ vf kind plain wire, fromHost i = some (vf, kind, plain, wire) ∧ s.func? vf = some f ∧
  (guards s f → f.chanErr = false ∧ ∃ key, f.chanKey = some key ∧ wire = wireRecord f key kind plain)

end Sys2Proof.Statements

/-- LAUNCH_RECORD (R2, R3, R33): in RUN, with no function of the partition in ERROR, a SEQ not above the queue's highest is acknowledged again; a new
one enters the journal of an enabled queue with room while two dies work, and is acknowledged; any other is not acknowledged. -/
def Sys2Proof.Statements.LaunchRecords : Prop := ∀ (vf q : Nat) (bytes wire : List Byte) (f : Func) (k : Queue) (s : State),
  hears s (.launchRecord vf q bytes wire) f → bytes.length = 64 → f.queues.find? (fun x => x.q == q) = some k →
  let seq := leNat (bytes.take 8)
  let runs := f.ifst == .run && !s.funcs.any fun k => k.part == f.part && k.ifst == .error
  let seen := k.seq.any fun m => decide (seq ≤ m)
  let again := runs && seen
  let fresh := runs && !seen && k.en && decide ((s.launches.filter fun l => l.vf == vf && l.q == q).length < 4096 ∧
    2 ≤ (s.dies.filter fun d => !d.failed).length)
  let field := fun (o n : Nat) => leNat ((bytes.drop o).take n)
  ∃ s' f', exec (.launchRecord vf q bytes wire) s = .next s' ∧ s'.func? vf = some f' ∧ s'.mem = s.mem ∧ s'.teams = s.teams ∧
    f'.out = f.out ++ (if again || fresh then [.ack q seq] else []) ∧
    (fresh = false → s'.launches = s.launches) ∧
    (fresh = true → f'.queues.find? (fun x => x.q == q) = some { k with seq := some seq } ∧
      ∃ l, s'.launches = s.launches ++ [l] ∧ l.vf = vf ∧ l.q = q ∧ l.seq = seq ∧ l.meta_ = field 8 8 ∧
        l.grid = (field 16 4, field 20 4, field 24 4) ∧ l.flags = field 28 4 ∧ l.args = field 32 8 ∧ l.arglen = field 40 4 ∧
        l.tag = BitVec.ofNat 32 (field 44 4) ∧ l.parkto = field 48 4 ∧ l.fpthr = k.fpthr ∧ l.status = .accepted)

/-- DEVICE_MEMORY_WRITE and DEVICE_MEMORY_READ_REQUEST (R279): within one page of the partition's own memory that is not protected, a write takes
effect whatever the page's RO and INV say, and a read is answered with the bytes that have taken effect; a poisoned line answers with the
code of MCHK; a page that is not mapped, protected, or host memory, answers with its code (host memory and poisoned lines: DEDUCED, log 59). -/
def Sys2Proof.Statements.DeviceMemory : Prop :=
  (∀ (vf : Nat) (va : VAddr) (data wire : List Byte) (f : Func) (pg : Page) (pa : Nat) (s : State),
    hears s (.deviceMemoryWrite vf va data wire) f → f.ifst ≠ .error → 1 ≤ data.length → data.length ≤ 4096 → va.toNat % 65536 + data.length ≤ 65536 →
    s.translate f.root va.toNat = some (pg, pa) → pg.prot = false → s.regionOf pa ≠ some .host →
      ∃ s', exec (.deviceMemoryWrite vf va data wire) s = .next s' ∧ readBytes s'.mem pa data.length = data ∧
        ∀ a, a < pa ∨ pa + data.length ≤ a → look s'.mem a = look s.mem a) ∧
  (∀ (vf : Nat) (va : VAddr) (len : Nat) (wire : List Byte) (f : Func) (s : State),
    hears s (.deviceMemoryReadRequest vf va len wire) f → f.ifst ≠ .error → 1 ≤ len → len ≤ 4096 → va.toNat % 65536 + len ≤ 65536 →
      let reply : HostMsg := match s.translate f.root va.toNat with
        | none => .readError 4
        | some (pg, pa) =>
          if pg.prot then .readError 5 else if s.regionOf pa = some .host then .readError 6
          else if s.poisoned pa len then .readError 14 else .readReply (readBytes s.mem pa len)
      ∃ s' f', exec (.deviceMemoryReadRequest vf va len wire) s = .next s' ∧ s' = { s with funcs := s'.funcs } ∧ s'.func? vf = some f' ∧
        f'.out = f.out ++ [reply])

/-- HOST_MEMORY_READ_REPLY (R278): the bytes of the host lines that something waits for are known from then on, nothing waits any longer for a line
that the reply covers, and no other byte changes. That the device knows the bytes from the reply on is log 45 (DESIGN CHOICE). -/
def Sys2Proof.Statements.HostReplies : Prop := ∀ (vf pa : Nat) (data wire : List Byte) (f : Func) (s : State),
  hears s (.hostMemoryReadReply vf pa data wire) f →
  ∃ s', exec (.hostMemoryReadReply vf pa data wire) s = .next s' ∧ s'.teams = s.teams ∧
    s'.hostWait = s.hostWait.filter (fun x => !decide (pa ≤ 64 * x.2 ∧ 64 * x.2 + 64 ≤ pa + data.length)) ∧
    ∀ a, look s'.mem a =
      if pa ≤ a ∧ a < pa + data.length ∧ s.regionOf a = some .host ∧ s.hostWait.any (fun x => x.2 == a / 64) = true then data.getD (a - pa) 0
      else look s.mem a

/-- TRAP_REPLY and KILL_REQUEST (R170, R280): RETRY lets the parked handler of the token reissue and return, KILL ends its launch with FAULTED and
the trap's code, a token of no parked handler is discarded; that the handler runs RFT on RETRY is log 93 (DESIGN CHOICE); KILL_REQUEST ends an
unreported launch with KILLED, and none of its running teams is left. -/
def Sys2Proof.Statements.HostDecides : Prop :=
  (∀ (vf token gi : Nat) (kill : Bool) (wire : List Byte) (f : Func) (t : Team) (g : Group) (h : Handler) (s : State),
    hears s (.trapReply vf token kill wire) f → s.parkedHandler vf token = some (t, gi, g) → s.team? t.id = some t → g.handler = some h →
      (kill = false → ∃ s' t', exec (.trapReply vf token kill wire) s = .next s' ∧ s'.mem = s.mem ∧ s'.team? t.id = some t' ∧
        ∃ g', t'.live.groups[gi]? = some g' ∧ g'.handler = some { h with retry := true, token := none, todo := [.rft] } ∧
          g'.v = g.v ∧ g'.s = g.s ∧ g'.p = g.p ∧ ∀ x ∈ g'.frags, x.lowest = h.slice → x.wait ≠ .host) ∧
      (kill = true → ∃ s', exec (.trapReply vf token kill wire) s = .next s' ∧ s'.team? t.id = none ∧
        ∀ l, s.launch? t.launch = some l → l.status.ended = false →
          ∃ l', s'.launch? t.launch = some l' ∧ l'.status = .failed 1 ∧ l'.fcode = g.trap.code)) ∧
  (∀ (vf token : Nat) (kill : Bool) (wire : List Byte) (f : Func) (s : State), hears s (.trapReply vf token kill wire) f → s.parkedHandler vf token = none →
    ∃ s', exec (.trapReply vf token kill wire) s = .next s' ∧ s' = { s with funcs := s'.funcs }) ∧
  (∀ (vf q seq : Nat) (wire : List Byte) (f : Func) (l : Launch) (s : State), hears s (.killRequest vf q seq wire) f →
    s.launches.find? (fun x => x.vf == vf && x.q == q && x.seq == seq) = some l → s.launch? l.id = some l → l.status.ended = false →
      ∃ s' l', exec (.killRequest vf q seq wire) s = .next s' ∧ s'.launch? l.id = some l' ∧ l'.status = .failed 5 ∧
        ∀ t ∈ s'.teams, t.launch = l.id → t.running = false)

/-- COMPLETION_CREDIT (R278): the records held go out in order while credits last, but for a confidential partition's channel without a key or in
ERROR, which sends none (R287, R288). Such a channel discards every message of the host; one whose authentication fails puts it into ERROR. -/
def Sys2Proof.Statements.Credits : Prop :=
  (∀ (vf n : Nat) (f : Func) (s : State), s.func? vf = some f →
    let k := if guards s f ∧ (f.chanKey = none ∨ f.chanErr = true) then 0 else min (f.credits + n) f.held.length
    ∃ s' f', exec (.completionCredit vf n) s = .next s' ∧ s' = { s with funcs := s'.funcs } ∧ s'.func? vf = some f' ∧
      f'.out = f.out ++ (f.held.take k).map .record ∧ f'.held = f.held.drop k ∧ f'.credits = f.credits + n - k) ∧
  (∀ (i : Instr) (vf kind : Nat) (plain wire : List Byte) (f : Func) (s : State), fromHost i = some (vf, kind, plain, wire) →
    s.func? vf = some f → guards s f →
    (f.chanKey = none ∨ f.chanErr = true → exec i s = .next s) ∧
    (∀ key, f.chanKey = some key → f.chanErr = false → wire ≠ wireRecord f key kind plain →
      ∃ s', exec i s = .next s' ∧ s' = { s with funcs := s'.funcs } ∧ s'.func? vf = some { f with chanErr := true }))

/-- What the host sends. The codes for host pages and poisoned lines are log 59 (DEDUCED), host bytes known from the reply on log 45 and the handler's
RFT on RETRY log 93 (both DESIGN CHOICE). -/
def Obligations.HostMessages : Prop := Statements.LaunchRecords ∧ Statements.DeviceMemory ∧ Statements.HostReplies ∧ Statements.HostDecides ∧
  Statements.Credits

/-! ### The device interface -/

/-- LOCK_INTERFACE, GET_DEVICE_INTERFACE_REPORT and START_INTERFACE (R281 to R283): UNLOCKED with an SPDM session goes to LOCKED with a report of the
registers as they are, and the key of the partition's save area where it is confidential and has none, LOCKED to RUN; the report can be had,
with its signature, in LOCKED and RUN; any other request is refused and changes nothing, also where R281's table does not list it (DESIGN
CHOICE, log 117). The layout that is signed and the key's number: log 108, 109. -/
def Sys2Proof.Statements.InterfaceStates : Prop := ∀ (vf : Nat) (f : Func) (s : State), s.func? vf = some f →
  (∃ s' f', exec (.lockInterface vf) s = .next s' ∧ s' = { s with funcs := s'.funcs, parts := s'.parts } ∧ s'.func? vf = some f' ∧
    s'.parts = (s.parts.map fun p => if f.ifst = .unlocked ∧ f.session = true ∧ p.id = f.part ∧ p.prot = true ∧ p.ctxKey = none then
      { p with ctxKey := some f.keyings } else p) ∧
    if f.ifst = .unlocked ∧ f.session = true then
      f'.ifst = .locked ∧ ∃ r, f'.report = some r ∧ r.vf = f.vf ∧ r.part = f.part ∧ r.xw = (f.xwbase, f.xwsize, f.xwkey) ∧
        r.queues = f.queues.map fun k => (k.q, k.en, k.prio, k.fpthr)
    else f'.ifst = f.ifst ∧ f'.out = f.out ++ [.refused]) ∧
  (∃ s' f', exec (.getDeviceInterfaceReport vf) s = .next s' ∧ s' = { s with funcs := s'.funcs } ∧ s'.func? vf = some f' ∧ f'.ifst = f.ifst ∧
    f'.out = f.out ++ [match (if f.ifst = .locked ∨ f.ifst = .run then f.report else none) with
      | some r => .report r (Config.spdmSignature vf r.numbers r.strings)
      | none => .refused]) ∧
  (∃ s' f', exec (.startInterface vf) s = .next s' ∧ s' = { s with funcs := s'.funcs } ∧ s'.func? vf = some f' ∧
    if f.ifst = .locked then f'.ifst = .run ∧ f'.out = f.out else f'.ifst = f.ifst ∧ f'.out = f.out ++ [.refused])

/-- STOP_INTERFACE and FUNCTION_LEVEL_RESET (R284, R286, R3, R170): afterwards the function is UNLOCKED without a report, no launch of its
partition's functions is left, their contexts reach no table and their channels have no key, the partition has no save area and no key for one,
and its key slots are erased. The reset alone sets TOKEN to 0 and forgets the SEQs that queues have accepted. From UNLOCKED, STOP is refused and
the reset changes nothing. Where the spec leaves a choice: log 58, 76, 77. -/
def Sys2Proof.Statements.InterfaceStops : Prop := ∀ (stop : Bool) (vf : Nat) (f : Func) (s : State), s.func? vf = some f →
  let i : Instr := if stop then .stopInterface vf else .functionLevelReset vf
  (f.ifst = .unlocked → ∃ s', exec i s = .next s' ∧ s' = { s with funcs := s'.funcs } ∧
    s'.func? vf = some (if stop then { f with out := f.out ++ [.refused] } else f)) ∧
  (f.ifst ≠ .unlocked → ∃ s' f', exec i s = .next s' ∧ s'.func? vf = some f' ∧ f'.ifst = .unlocked ∧ f'.report = none ∧
    (stop = false → f'.token = 0 ∧ f'.queues = f.queues.map fun k => { k with seq := none }) ∧ (stop = true → f'.queues = f.queues) ∧
    (∀ l ∈ s'.launches, ∀ k, s'.func? l.vf = some k → k.part ≠ f.part) ∧
    (∀ k ∈ s'.funcs, k.part = f.part → k.root = noRoot ∧ k.chanKey = none) ∧
    (∀ p ∈ s'.parts, p.id = f.part → p.ctxKey = none ∧ p.saves = []) ∧
    ∀ k ∈ s'.keySlots, k.v = true → k.part = f.part → k.type = 0)

/-- Step 4 of R284: a scrub leaves zeros in the ranges and every other byte as it was, no line of them cached, and
none poisoned but where its channel is lost. -/
def Sys2Proof.Statements.Scrubs : Prop := ∀ (s : State) (rs : List (Nat × Nat)),
  (∀ a, look (s.scrub rs).mem a = if rs.any (fun r => decide (r.1 ≤ a ∧ a < r.1 + r.2)) then 0 else look s.mem a) ∧
  (∀ x ∈ (s.scrub rs).cache, ¬ rs.any (fun r => decide (r.1 ≤ 64 * x.1 ∧ 64 * x.1 < r.1 + r.2))) ∧
  ∀ l, s.lineLost l = false → rs.any (fun r => decide (r.1 ≤ 64 * l ∧ 64 * l < r.1 + r.2)) = true → (s.scrub rs).isPoisoned l = false

/-- SPDM_KEY_EXCHANGE (R281, R286 to R288): a function in ERROR refuses it. Otherwise the session is up, the channel has a new key and works, the
counters start anew, and then go out the records that the host had not acknowledged, the messages that the channel held, and the completion
and event records held while credits last; a slot that receives a derived key has its TYPE and a new key. Where the spec leaves a choice: log
18, 109. -/
def Sys2Proof.Statements.KeyExchange : Prop := ∀ (vf slot ty : Nat) (f : Func) (s : State), s.func? vf = some f → slot < 256 → 1 ≤ ty → ty ≤ 4 →
  (f.ifst = .error → ∃ s', exec (.spdmKeyExchange vf [(slot, ty)]) s = .next s' ∧ s' = { s with funcs := s'.funcs } ∧
    s'.func? vf = some { f with out := f.out ++ [.refused] }) ∧
  (f.ifst ≠ .error → ∃ s' f' again, exec (.spdmKeyExchange vf [(slot, ty)]) s = .next s' ∧ s'.mem = s.mem ∧ s'.func? vf = some f' ∧
    f'.session = true ∧ f'.chanErr = false ∧ f'.chanKey = some (f.keyings + 1) ∧ f'.keyings = f.keyings + 1 ∧ f'.rxCtr = 0 ∧
    again <:+ f.out.filter (·.kind.isSome) ∧ again.length ≤ f.txCtr ∧
    (let k := min f.credits f.held.length
     let new := again ++ f.waiting ++ (f.held.take k).map .record
     f'.out = f.out ++ new ∧ f'.held = f.held.drop k ∧ f'.waiting = [] ∧ f'.credits = f.credits - k ∧
       (guards s f → f'.txCtr = (new.filter (·.kind.isSome)).length % 2 ^ 64) ∧ (¬ guards s f → f'.txCtr = 0)) ∧
    (s'.keySlot slot).type = ty ∧ (s'.keySlot slot).gen = (s.keySlot slot).gen + 1 ∧ (s'.keySlot slot).v = (s.keySlot slot).v ∧
    (s'.keySlot slot).part = (s.keySlot slot).part ∧ ∀ j, j ≠ slot → s'.keySlot j = s.keySlot j)

/-- The interface's states and keys. -/
def Obligations.DeviceInterface : Prop := Statements.InterfaceStates ∧ Statements.InterfaceStops ∧ Statements.Scrubs ∧ Statements.KeyExchange

/-! ### System software's registers -/

namespace Sys2Proof.Statements

/-- A queue of a function, made when it is first written, under a change. -/
def onQueue (q : Nat) (w : Queue → Queue) (f : Func) : Func :=
  { f with queues := (if f.queues.any (fun k => k.q == q) then f.queues else f.queues ++ [⟨q, false, 0, 0, none⟩]).map fun k =>
      if k.q = q then w k else k }

/-- The registers of one function: number, whether R282 freezes it, and what a write makes of the function. -/
def funcReg (v : Nat) : MgmtReg → Option (Nat × Bool × (Func → Func))
  | .fpthr vf q => if q < 64 then some (vf, true, onQueue q fun k => { k with fpthr := v % 2 ^ 32 }) else none
  | .xwbase vf => some (vf, true, fun f => { f with xwbase := v % 2 ^ 52 / 65536 * 65536 })
  | .xwsize vf => some (vf, true, fun f => if v ≤ 2 ^ 40 then { f with xwsize := v / 65536 * 65536 } else f)
  | .xwkey vf => some (vf, true, fun f => { f with xwkey := BitVec.ofNat 32 v })
  | .root vf => some (vf, false, fun f => { f with root := v % 2 ^ 48 })
  | .privBase vf => some (vf, false, fun f => { f with privBase := v % 2 ^ 52 })
  | .privStride vf => some (vf, false, fun f => { f with privStride := v % 2 ^ 52 / 65536 * 65536 })
  | .privLimit vf => some (vf, false, fun f => { f with privLimit := v % 2 ^ 52 })
  | .funcPart vf => some (vf, false, fun f => if f.ifst = .unlocked ∧ v < 64 then { f with part := v } else f)
  | _ => none

/-- The registers of one partition. -/
def partReg (v : Nat) : MgmtReg → Option (Nat × (Part → Part))
  | .dgtbase p => some (p, fun p => { p with dgtbase := v % 2 ^ 48 })
  | .sealout p => some (p, fun p => { p with sealout := BitVec.ofNat 64 (v % 2 ^ 52) })
  | _ => none

/-- What an outcome is under the freeze of R281 and R282, for the functions `sel` that freeze a register: every one of them unlocked, the write
`w`; one of them locked or running, those enter ERROR and `kept` holds; one in ERROR and none of those, no effect. -/
def Freezes (s : State) (sel : Func → Bool) (o : Host.Outcome State Fault Refusal) (w : State → Prop) (kept : State → Prop) : Prop :=
  ((∀ f ∈ s.funcs, sel f = true → f.ifst = .unlocked) → ∃ s', o = .next s' ∧ w s') ∧
  ((∃ f ∈ s.funcs, sel f = true ∧ (f.ifst = .locked ∨ f.ifst = .run)) → ∃ s', o = .next s' ∧ kept s' ∧ s'.keySlots = s.keySlots ∧
    ∀ f ∈ s.funcs, sel f = true → (f.ifst = .locked ∨ f.ifst = .run) → ∃ f', s'.func? f.vf = some f' ∧ f'.ifst = .error) ∧
  ((∃ f ∈ s.funcs, sel f = true ∧ f.ifst = .error) → (∀ f ∈ s.funcs, sel f = true → f.ifst = .unlocked ∨ f.ifst = .error) → o = .next s)

/-- The fields of a descriptor keep their layout (R174). -/
def LayoutOk (bytes : List Byte) (p : Part) : Prop :=
  bytes.length = 64 ∧ p.id < 64 ∧ p.level < 3 ∧ p.rank < 64 ∧ leNat ((bytes.drop 6).take 2) < 8 ∧ p.cores.toNat < 2 ^ 144 ∧
    leNat ((bytes.drop 46).take 2) = 0 ∧ leNat ((bytes.drop 56).take 8) = 0 ∧ (p.level = 0 ↔ p.parent = 0xFFFF) ∧
    if p.ts then p.level ≠ 0 ∧ 1 ≤ p.tbudget ∧ p.tbudget ≤ p.tperiod else p.tperiod = 0 ∧ p.tbudget = 0

/-- The conditions of R174 on all descriptors together. -/
def DescriptorsOk (ps : List Part) : Prop := ∀ p ∈ ps,
  (p.level ≠ 0 → ∃ q ∈ ps, q.id = p.parent ∧ q.level + 1 = p.level ∧ p.cores &&& ~~~q.cores = 0) ∧
  ((ps.filter fun q => q.level != 0 && q.parent == p.id).map (·.bwmin)).sum ≤ p.bwmin ∧
  (p.ts = true → ((ps.filter fun q => q.ts && q.parent == p.parent && q.level == p.level).map (·.poolsh)).sum ≤ 256 ∧
    ((ps.filter fun q => q.ts && q.parent == p.parent && q.level == p.level).map (·.tbudget)).sum ≤ p.tperiod) ∧
  ∀ q ∈ ps, q.id ≠ p.id → q.rank ≠ p.rank ∧ (p.level = 0 → q.level = 0 → p.cores &&& q.cores = 0) ∧
    (p.level ≠ 0 ∧ q.level = p.level ∧ q.parent = p.parent ∧ p.ts = false ∧ q.ts = false → p.cores &&& q.cores = 0) ∧
    (q.level = p.level ∧ q.parent = p.parent ∧ p.ts = true ∧ q.ts = true → p.cores = q.cores ∧ p.tperiod = q.tperiod)

/-- The registers of a function that R282 freezes, as they stand. -/
def sameRegs (f g : Func) : Prop := f.queues = g.queues ∧ f.xwbase = g.xwbase ∧ f.xwsize = g.xwsize ∧ f.xwkey = g.xwkey

end Sys2Proof.Statements

/-- QCFG_WRITE (R157, R282): EN and PRIO of a queue; frozen, the write has no effect and the function enters ERROR; in ERROR it is refused. A function
and its queue have their records from their first write on (log 18), and there is no queue past 63. -/
def Sys2Proof.Statements.QueueWrites : Prop := ∀ (vf q : Nat) (v : Word) (s : State),
  let t := s.withFunc vf
  (64 ≤ q → exec (.qcfgWrite vf q v) s = .next s) ∧
  (q < 64 → Freezes t (fun f => f.vf == vf) (exec (.qcfgWrite vf q v) s)
    (fun s' => s' = t.modFunc vf (onQueue q fun k => { k with en := v.getLsbD 31, prio := v.toNat % 8 }))
    (fun s' => ∀ f, t.func? vf = some f → ∃ f', s'.func? vf = some f' ∧ sameRegs f' f))

/-- MGMT_REGISTER_WRITE (R60, R61, R214, R251, R258, R281, R282, R286, R294): each register takes the bits it has; one that a function or partition
freezes behaves as `Freezes` says; no other register of a function takes a write in ERROR. CXL memory is at most 8 TiB (R1). Where the spec leaves a
choice: log 4, 18, 71. -/
def Sys2Proof.Statements.RegisterWrites : Prop :=
  (∀ (r : MgmtReg) (v vf : Nat) (w : Func → Func) (s : State), let t := s.withFunc vf
    (funcReg v r = some (vf, true, w) → Freezes t (fun f => f.vf == vf) (exec (.mgmtRegisterWrite r v) s) (fun s' => s' = t.modFunc vf w)
      (fun s' => ∀ f, t.func? vf = some f → ∃ f', s'.func? vf = some f' ∧ sameRegs f' f)) ∧
    (funcReg v r = some (vf, false, w) → exec (.mgmtRegisterWrite r v) s = .next (t.modFunc vf fun f => if f.ifst = .error then f else w f))) ∧
  (∀ (vf q v : Nat) (s : State), 64 ≤ q → exec (.mgmtRegisterWrite (.fpthr vf q) v) s = .next s) ∧
  (∀ (r : MgmtReg) (v p : Nat) (w : Part → Part) (s : State), partReg v r = some (p, w) →
    Freezes s (fun f => f.part == p) (exec (.mgmtRegisterWrite r v) s) (fun s' => s' = s.modPart p w)
      (fun s' => ∀ q, s.part? p = some q → ∃ q', s'.part? p = some q' ∧ q'.dgtbase = q.dgtbase ∧ q'.sealout = q.sealout)) ∧
  (∀ (slot v : Nat) (s : State), (256 ≤ slot → exec (.mgmtRegisterWrite (.ksbind slot) v) s = .next s) ∧
    (slot < 256 → Freezes s (fun f => (s.keySlot slot).v && f.part == (s.keySlot slot).part) (exec (.mgmtRegisterWrite (.ksbind slot) v) s)
      (fun s' => s'.keySlot slot = { s.keySlot slot with v := decide (v / 2 ^ 15 % 2 = 1), part := v % 64 } ∧
        ∀ j, j ≠ slot → s'.keySlot j = s.keySlot j) (fun _ => True))) ∧
  (∀ (base size : Nat) (k : RegionKind) (s : State),
    let rs := (if size = 0 then [] else [(⟨base, size, k⟩ : Region)]) ++ s.regions.filter fun r => r.base != base || r.kind != k
    let s' := if ((rs.filter fun r => r.kind == .cxl).map (·.size)).sum ≤ 2 ^ 43 then { s with regions := rs } else s
    (k = .cxl → exec (.mgmtRegisterWrite (.cxlRange base) size) s = .next s') ∧
    (k = .host → exec (.mgmtRegisterWrite (.hostRange base) size) s = .next s') ∧
    ∀ a, s'.regions = rs → base ≤ a → a < base + size → s'.regionOf a = some k)

/-- PARTITION_DESCRIPTOR_WRITE and ROUTE_TABLE_LOAD (R174, R248, R281, R282): a descriptor whose layout is kept, and which keeps the conditions of R174
together with every other partition's, stands afterwards, beside the registers that are not of it; one that breaks them changes nothing, and
so does one with a reserved bit set, a level past 2 or an unknown parent (DESIGN CHOICE, log 73). A route entry is stored without its reserved
bits, and no entry past 9215 exists. -/
def Sys2Proof.Statements.TableWrites : Prop :=
  (∀ (bytes : List Byte) (s : State), let p := partOfBytes bytes
    let ok := LayoutOk bytes p ∧ DescriptorsOk (p :: s.parts.filter fun q => q.id != p.id)
    Freezes s (s.freezesDesc p.id) (exec (.partitionDescriptorWrite bytes) s)
      (fun s' => (¬ ok → s' = s) ∧ (ok → s'.mem = s.mem ∧ (s.part? p.id = none → s'.parts = s.parts ++ [p]) ∧
        ∀ q, s.part? p.id = some q → ∃ p', s'.part? p.id = some p' ∧ p'.bytes = p.bytes ∧ p'.dgtbase = q.dgtbase ∧ p'.sealout = q.sealout ∧
          p'.sealCount = q.sealCount))
      (fun s' => ∀ q, s.part? p.id = some q → ∃ q', s'.part? p.id = some q' ∧ q'.bytes = q.bytes)) ∧
  (∀ (dest : Nat) (e : DWord) (s : State), ∃ s', exec (.routeTableLoad dest e) s = .next s' ∧ s' = { s with routes := s'.routes } ∧
    ∀ k, look s'.routes k = if k = dest ∧ dest ≤ 9215 then e &&& 0xF01FF01FF01FF01F else look s.routes k)

/-- The registers that system software writes. A descriptor with a reserved bit, a wrong level or an unknown parent: log 73 (DESIGN CHOICE). -/
def Obligations.SystemRegisters : Prop := Statements.QueueWrites ∧ Statements.RegisterWrites ∧ Statements.TableWrites

/-! ### Words, fetch and steps -/

/-- R73, R77 to R97: words of every class, written out bit by bit from the layouts. 0001 of class 00 is SUB.S32 v1, v2, s0 with r; the others
are FMA.F64, CVT, ABS, ADDI, BRA, PLOP, LD, FENCE, RLOOP, MOVL, LDE and MMA. -/
def Obligations.DecodeWords : Prop :=
  decode 0b00_00001_000_0000001_0000010_1100000_1 0 = .ok (.sub ⟨.s32, .v 1, .v 2, .s 0, true⟩) ∧
  decode 0b00_00100_101_0000010_0000100_0000110_0 0 = .ok (.fma ⟨.f64, .v 2, .v 4, .v 6, false⟩) ∧
  decode 0b00_10000_101_0000001_0000010_1001001_0 0 = .ok (.cvt ⟨.f16, .f32, .rz, .v 1, .v 2⟩) ∧
  decode 0b00_10011_100_0000001_0000010_0000000_0 0 = .ok (.abs ⟨.f32, .v 1, .v 2, false⟩) ∧
  decode 0b01_00000_1100001_1100010_11111111111 0 = .ok (.addi ⟨.s 1, .s 2, -1⟩) ∧
  decode 0b01_01001_0110100_000000000000000010 0 = .ok (.bra ⟨3, .any, 2⟩) ∧
  decode 0b01_10011_0010000_0100000_011_1000_0000 0 = .ok (.plop ⟨1, 2, 3, 8⟩) ∧
  decode 0b10_00000_0000100_0001000_10_10_000_0001 0 = .ok (.ld ⟨.v 4, .v 8, .w4, .b32, .default, 1⟩) ∧
  decode 0b10_01011_1111111_1111111_00_00_011_0001 0 = .ok (.fenceAcq .device) ∧
  decode 0b10_10111_1111111_1100101_00_00_001_0010 0 = .ok (.rloop (.s 5) true 2) ∧
  decode 0b11_000000_0000011_1111111_1111111_000 0xDEADBEEF = .ok (.movl (.v 3) 0xDEADBEEF) ∧
  decode 0b11_000001_0000100_0000010_0001000_000 0b010_00_10_0_000000000000000000000101 =
    .ok (.lde ⟨2, .v 4, .w1, .b32, .v 2, .v 8, .default, 5⟩) ∧
  decode 0b11_001010_0011_1_00_0001000_1100001_001 0b1100010_1100100_1_00000000000000000 =
    .ok (.mma ⟨3, true, .v 8, .s 1, false, true, .s 2, .s 4, true⟩) ∧
  decode 0b01_11010_0000000_0000000_00000000000 0 = .error 1 ∧
  decode 0b01_01011_0000000_0000000_00000000001 0 = .error 2 ∧
  decode 0b00_00111_100_0000001_0000010_0000011_0 0 = .error 3 ∧
  decode 0b00_00000_010_0000001_0000010_0000100_0 0 = .error 4 ∧
  decode 0b00_00000_000_1100001_0000010_0000100_0 0 = .error 5

/-- Encoding a well-formed instruction and decoding its words gives it back, whatever its operands: no bit of an encoding is dropped. -/
def Obligations.EncodeDecode : Prop := ∀ i : Instr, i.isEvent = false → i.wf = true →
  decode ((encode i).getD 0 0) ((encode i).getD 1 0) = .ok i

/-- A word has one meaning: what decodes is well-formed, and its own encoding is the words that were decoded; the class alone says how many they
are (R73). -/
def Obligations.DecodeEncode : Prop := ∀ (w e : Nat) (i : Instr), w < 2 ^ 32 → e < 2 ^ 32 → decode w e = .ok i →
  i.wf = true ∧ i.isEvent = false ∧ encode i = if wordCount w = 2 then [w, e] else [w]

/-- The fragment whose turn it is, as `step` finds it: distinct teams, and every fragment of its group named by its lowest slice. -/
structure Sys2Proof.Statements.OnTurn (r : FragRef) (rest : List FragRef) (s : State) (c : Ctx) : Prop where
  agenda : s.agenda = []
  plan : s.plan = r :: rest
  here : ({ s with plan := rest, cur := some r } : State).ctx r = some c
  teams : (s.teams.map (·.id)).Nodup
  slices : ∀ f ∈ c.g.frags, f.slices ≠ 0
  frags : (c.g.frags.map Frag.lowest).Nodup
  may : c.mayIssue = true
  out : c.g.handler = none
  pend : c.pending = none

/-- One step (log 9). A fragment on its turn fetches the word at its program counter, and the next one where the class asks for it (R73), from the
bytes that have taken effect (DEDUCED, log 30); what they decode to runs, on the state as it stands but for the turn taken; a fetch that faults, or
a word that decodes to no instruction, takes its trap (R74, R99, R100), with the trap registers of log 17 (DESIGN CHOICE). An event of the agenda
runs as such. With neither, a clock passes: CLK and the management clocks count (R54, R301), and memory stays. -/
def Obligations.StepRuns : Prop :=
  (∀ (r : FragRef) (rest : List FragRef) (s : State) (c : Ctx) (x y : Nat) (iv iw : Bool) (i : Instr), Statements.OnTurn r rest s c →
    s.access c.root .fetch c.f.pc.toNat = .ok (x, iv) →
    let w := readNat s.mem x 4
    (wordCount w = 2 → s.access c.root .fetch (c.f.pc + 4).toNat = .ok (y, iw)) →
    decode w (if wordCount w = 2 then readNat s.mem y 4 else 0) = .ok i →
      step s = exec i { s with plan := rest, cur := some r }) ∧
  (∀ (r : FragRef) (rest : List FragRef) (s : State) (c : Ctx) (k : Nat), Statements.OnTurn r rest s c →
    (s.access c.root .fetch c.f.pc.toNat = .error k → step s = .next (c.takeTrap (trapAt k c.f.pc.toNat (maskOf c.act)))) ∧
    ∀ (x : Nat) (iv : Bool), s.access c.root .fetch c.f.pc.toNat = .ok (x, iv) →
      (wordCount (readNat s.mem x 4) = 2 → s.access c.root .fetch (c.f.pc + 4).toNat = .error k →
        step s = .next (c.takeTrap (trapAt k (c.f.pc + 4).toNat (maskOf c.act)))) ∧
      (wordCount (readNat s.mem x 4) = 1 → decode (readNat s.mem x 4) 0 = .error k →
        step s = .next (c.takeTrap (illegal [readNat s.mem x 4, 0] k (maskOf c.act))))) ∧
  (∀ (e : Instr) (rest : List Instr) (s : State), s.agenda = e :: rest → e.isEvent = true →
    step s = exec e { s with agenda := rest, cur := none }) ∧
  (∀ s : State, s.agenda = [] → s.plan = [] → ∃ t, step s = .next t ∧ t.mem = s.mem ∧ t.launches = s.launches ∧ t.funcs = s.funcs ∧
    t.cores = s.cores.map (fun k => { k with clk := (k.clk + 1) % 2 ^ 32 }) ∧
    t.dies = s.dies.map (fun d => { d with clock := (d.clock + 1) % 2 ^ 64 }))

/-- What reset leaves (R3, R157, R170, R214, R248, R251, R255, R286, R294): nothing launched, no route, no table entry, no key bound; a function
that is first addressed is unlocked with its fabric registers and TOKEN 0, and a queue that is first written had EN, PRIO and FPTHR 0 and no
SEQ accepted. Memory lists no byte, and one that is not listed reads as 0 (DESIGN CHOICE, log 1); CLK starts at 0 (DESIGN CHOICE, log 5).
Where the spec leaves another choice: log 18. -/
def Obligations.ResetState : Prop :=
  State.reset.mem = [] ∧ Memory.wf State.reset.mem = true ∧ (∀ a, look State.reset.mem a = 0) ∧ State.reset.launches = [] ∧ State.reset.teams = [] ∧ State.reset.replay = [] ∧ State.reset.rreqs = [] ∧
  (∀ d, look State.reset.routes d = 0) ∧ (∀ k, (State.reset.keySlot k).v = false ∧ (State.reset.keySlot k).type = 0) ∧
  (∀ vf, vf < 256 → ∃ f, (State.reset.withFunc vf).func? vf = some f ∧ f.ifst = .unlocked ∧ f.xwbase = 0 ∧ f.xwsize = 0 ∧ f.xwkey = 0 ∧
    f.token = 0 ∧ f.report = none ∧ f.session = false) ∧
  (∀ vf q v, vf < 256 → q < 64 → ∃ s f k, exec (.qcfgWrite vf q v) State.reset = .next s ∧ s.func? vf = some f ∧
    f.queues = [k] ∧ k.q = q ∧ k.en = v.getLsbD 31 ∧ k.prio = v.toNat % 8 ∧ k.fpthr = 0 ∧ k.seq = none) ∧
  (State.reset.cores.length = 144 ∧ ∀ k ∈ State.reset.cores, k.clk = 0 ∧ k.elb = 262144 ∧ k.alive = true)

/-- Memory keeps its canonical form over every step, whatever runs. -/
def Obligations.MemoryStaysCanonical : Prop := ∀ s t : State, Memory.wf s.mem = true → step s = .next t → Memory.wf t.mem = true

/-- The machine never stops of its own: wherever a fragment issues, every instruction answers a next state, and so does every event; a step stops
only where the plan names a fragment without slices, or the agenda holds one of the two traps that stand in for an instruction (which
`tick` and the outside world never put there). -/
def Obligations.NeverStops : Prop :=
  (∀ (i : Instr) (s : State), (s.cur.bind s.ctx).isSome = true → ∃ t, exec i s = .next t) ∧
  (∀ (i : Instr) (s : State), i.isEvent = true → i ≠ .escfaultTaken → i ≠ .remoteTrapTaken → ∃ t, exec i s = .next t) ∧
  (∀ (i : Instr) (s : State), i.isEvent = false ∨ i = .escfaultTaken ∨ i = .remoteTrapTaken → s.cur.bind s.ctx = none →
    exec i s = .fault .noIssuer) ∧
  (∀ s : State, (∀ r ∈ s.plan, r.slice < 8) → (∀ e ∈ s.agenda, e ≠ .escfaultTaken ∧ e ≠ .remoteTrapTaken) → ∃ t, step s = .next t)

/-! ### The dispatcher -/

namespace Sys2Proof.Statements

/-- The launch that a dispatcher's event names is at the head of its queue, and no launch ahead of it can place a team (R158). -/
structure AtHead (s : State) (launch : Nat) (l : Launch) (p : Part) : Prop where
  found : s.launch? launch = some l
  part : ∃ f, s.func? l.vf = some f ∧ s.part? f.part = some p
  head : (s.heads p.id).any (fun h => h.id == launch) = true
  first : ((s.heads p.id).takeWhile fun h => h.id != launch).any (s.canPlace p) = false
  waits : l.status = .accepted ∨ l.status = .placing

/-- A group of a team that has just been placed (R10, R19, R35, R118, R126, R159). -/
structure Fresh (l : Launch) (m : Meta) (idx g age : Nat) (x : Group) : Prop where
  role : x.role = if g < m.n.getD 0 0 then .copy else if g < m.n.getD 0 0 + m.n.getD 1 0 then .matrix else .vector
  alloc : x.alloc = m.regs.getD x.role.toNat 0
  frags : x.frags = [⟨m.entry, 255, age, none, .run, 0, 0, false⟩]
  live : x.live = BitVec.allOnes 32 ∧ x.win = 0 ∧ x.tilew = 32
  v : ∀ r, look x.v r = 0
  s : ∀ r, look x.s r = if r = 0 then BitVec.ofNat 32 l.args else if r = 1 then BitVec.ofNat 32 (l.args / 2 ^ 32)
    else if r = 2 then BitVec.ofNat 32 l.arglen else 0
  p : ∀ r, look x.p r = 0
  rng : ∀ k, k < 32 → look x.rng k =
    let y := m.seed + 0x9E3779B9#32 * BitVec.ofNat 32 (32 * (idx * m.n.sum + g) + k)
    if y = 0 then 1 else y

/-- A launch whose team faults reports FAULTED with the team's index and the code, unless it has failed before (R43). -/
def faults (s s' : State) (t : Team) (code : Nat) : Prop := s'.team? t.id = none ∧
  ∀ l, s.launch? t.launch = some l → l.status.ended = false →
    ∃ l', s'.launch? t.launch = some l' ∧ l'.status = .failed 1 ∧ l'.fteam = BitVec.ofNat 32 t.idx ∧ l'.fcode = code

/-- The bytes of a completion record (R4, R40). -/
def record (l : Launch) (status kind team : Nat) : List Byte :=
  leBytes 8 l.seq ++ leBytes 4 l.tag.toNat ++ leBytes 2 status ++ leBytes 2 kind ++ leBytes 4 team ++ leBytes 4 l.fteam.toNat ++
    leBytes 4 l.fcode ++ leBytes 4 0

end Sys2Proof.Statements

/-- TEAM_PLACEMENT (R34, R36, R39, R42, R118, R125, R126, R159): a launch whose metadata is no good fails with BADRECORD, one that the partition
can never hold with TOO-LARGE; a launch that places one team at a time gets its next team on the core, in the state of a fresh team, with
the core's placement counter as its age. -/
def Sys2Proof.Statements.Placement : Prop := ∀ (launch : Nat) (l : Launch) (p : Part) (s : State), AtHead s launch l p →
  (∀ cores, l.md = none → s.readMeta l = none → ∃ s' l', exec (.teamPlacement launch cores) s = .next s' ∧ s' = { s with launches := s'.launches } ∧
    s'.launch? launch = some l' ∧ l'.status = .failed 7) ∧
  (∀ m, l.md = some m ∨ (l.md = none ∧ s.readMeta l = some m) →
    let l1 := { l with md := some m, status := .placing }
    let s1 := s.modLaunch launch fun _ => l1
    (∀ cores, l.placed = 0 → s1.tooLarge p l1 m = true → ∃ s' l', exec (.teamPlacement launch cores) s = .next s' ∧
      s' = { s with launches := s'.launches } ∧ s'.launch? launch = some l' ∧ l'.status = .failed 4) ∧
    (∀ k c, ¬ (l.placed = 0 ∧ s1.tooLarge p l1 m = true) → s1.coresOk p l1 m [k] = true → s1.canPlace p l1 = true → s1.savedTeams l1 = [] →
      s.core? k = some c →
        ∃ s' t l', exec (.teamPlacement launch [k]) s = .next s' ∧ s'.mem = s.mem ∧ s'.teams.map (·.id) = s.teams.map (·.id) ++ [t.id] ∧
          t ∈ s'.teams ∧ t.id = s.uid + 1 ∧ t.launch = launch ∧ t.idx = l.placed ∧ t.core = k ∧ t.phasen = 0 ∧ t.pb = [] ∧ t.ending = .no ∧
          t.live.groups.length = m.n.sum ∧ (∀ g x, t.live.groups[g]? = some x → Fresh l m l.placed g c.placed x) ∧
          t.ckpt = t.live ∧ t.dur = t.live ∧ s'.core? k = some { c with placed := c.placed + 1 } ∧
          s'.launch? launch = some l' ∧ l'.placed = l.placed + 1 ∧ l'.md = some m ∧ l'.status = .placing))

/-- GROUP_END (R16, R20, R188): a group whose lanes have all exited ends once nothing of it is outstanding; a pending trap that no fragment is left
to take ends the team instead. -/
def Sys2Proof.Statements.GroupEnds : Prop := ∀ (team gi : Nat) (t : Team) (g : Group) (s : State), s.team? team = some t →
  t.live.groups[gi]? = some g → g.ended = false → g.live = 0 → g.frags = [] →
    (g.pend = [] → g.ops = [] → g.escs = [] → ∃ s' t', exec (.groupEnd team gi) s = .next s' ∧ s' = { s with teams := s'.teams } ∧
      s'.team? team = some t' ∧ t' = { t with live := { t.live with groups := t.live.groups.set gi { g with ended := true } } }) ∧
    (g.pend = [] → g.ops ≠ [] ∨ g.escs ≠ [] → exec (.groupEnd team gi) s = .next s) ∧
    (∀ n h m rest, g.pend = .esc n h m :: rest → ∃ s', exec (.groupEnd team gi) s = .next s' ∧ faults s s' t 10) ∧
    (∀ n k cause peer addr m lanes rest, g.pend = .remote n k cause peer addr m lanes :: rest →
      ∃ s', exec (.groupEnd team gi) s = .next s' ∧ faults s s' t 11)

/-- TEAM_END (R370, R40): with every group ended, what the team has not published goes to the drain; once the drain is empty and no re-shard
command of the team is left, the team is gone and its index waits to retire. Where the spec leaves a choice: log 66. -/
def Sys2Proof.Statements.TeamEnds : Prop := ∀ (team : Nat) (t : Team) (s : State), s.team? team = some t → (∀ g ∈ t.live.groups, g.ended = true ∧ g.pend = []) →
  t.pub = none →
    (t.ending = .no → t.pb ≠ [] → t.rsts = [] → ∃ s' t', exec (.teamEnd team) s = .next s' ∧ s'.mem = s.mem ∧ s'.team? team = some t' ∧
      t'.ending = .publishing ∧ t'.pb = [] ∧ t'.phasen = t.phasen ∧
      t'.drain.map (fun i => (i.phase, i.item.addr, i.item.size)) =
        t.drain.map (fun i => (i.phase, i.item.addr, i.item.size)) ++ t.pb.map fun i => (t.phasen, i.addr, i.size)) ∧
    (t.ending ≠ .no → t.drain ≠ [] → exec (.teamEnd team) s = .next s) ∧
    (t.ending ≠ .no → t.drain = [] → t.rstOut = [] → t.lost = false → (∀ c ∈ s.rses, c.team ≠ team) → t.live.seals = [] → ∃ s', exec (.teamEnd team) s = .next s' ∧ s'.mem = s.mem ∧
      s'.team? team = none ∧ (∀ k, k ≠ team → s'.team? k = s.team? k) ∧
      ∀ l, s.launch? t.launch = some l → s'.launch? t.launch = some { l with ended := l.ended ++ [t.idx] })

/-- TEAM_RETIRE (R4, R40, R41): the lowest team that has not retired does so once it has ended, with a record of KIND 1 where the launch asks for
one; when none is left, the launch is reported in the order of its queue, and leaves the journal. A record goes out while a credit is left
and the channel works. -/
def Sys2Proof.Statements.Retirement : Prop := ∀ (launch : Nat) (l : Launch) (f : Func) (s : State), s.launch? launch = some l → s.func? l.vf = some f →
  f.credits ≠ 0 → (guards s f → f.chanKey.isSome = true ∧ f.chanErr = false) → f.held = [] →
    ((l.status = .placing ∨ l.status = .parked) → l.retired ∈ l.ended → ∃ s' l' f', exec (.teamRetire launch) s = .next s' ∧ s'.teams = s.teams ∧
      s'.launch? launch = some l' ∧ l'.count = l.count + 1 ∧ l'.retired = l.retired + 1 ∧ l'.ended = l.ended.filter (· ≠ l.retired) ∧
      s'.func? l.vf = some f' ∧ f'.out = f.out ++ if l.flags / 4 % 2 = 1 then [.record (record l 0 1 l.retired)] else []) ∧
    (∀ code, (l.status = .failed code ∨ (code = 0 ∧ l.status = .placing ∧ l.grid.1 * l.grid.2.1 * l.grid.2.2 ≤ l.retired)) → l.ended = [] →
      (∀ t ∈ s.teams, t.launch ≠ l.id) → (∀ k ∈ s.launches, k.vf = l.vf → k.q = l.q → l.acc ≤ k.acc) →
        ∃ s' f', exec (.teamRetire launch) s = .next s' ∧ s'.launches = s.launches.filter (fun k => k.id ≠ l.id) ∧ s'.func? l.vf = some f' ∧
          f'.out = f.out ++ [.record (record l code 0 l.count)])

/-- PARKTO_EXPIRY (R38, R41, R177): a parked launch with a timeout fails with EVICTED and its running teams are killed; one whose groups have all
ended goes on to retire. -/
def Sys2Proof.Statements.ParkExpires : Prop := ∀ (launch : Nat) (l : Launch) (s : State), s.launch? launch = some l →
  (l.status = .parked → l.parkto ≠ 0 → ∃ s' l', exec (.parktoExpiry launch) s = .next s' ∧ s'.launch? launch = some l' ∧ l'.status = .failed 3 ∧
    (∀ t ∈ s'.teams, t.launch = launch → ∀ g ∈ t.live.groups, g.ended = true) ∧
    ((s.teams.map (·.id)).Nodup → ∀ t ∈ s.teams, t.launch = launch → (∀ g ∈ t.live.groups, g.ended = true) → (s'.team? t.id).isSome = true)) ∧
  (l.status ≠ .parked ∨ l.parkto = 0 → exec (.parktoExpiry launch) s = .next s)

/-- Teams from their placement to their launch's report. -/
def Obligations.Dispatching : Prop := Statements.Placement ∧ Statements.GroupEnds ∧ Statements.TeamEnds ∧ Statements.Retirement ∧
  Statements.ParkExpires

/-! ### Time slices, rollback, saving -/

namespace Sys2Proof.Statements

/-- A team is ready as R175 has it, unless a rollback of it is asked for. -/
def readiness (s : State) : Prop := ∀ t ∈ s.teams, t.rb = false → t.ready = (!t.saved && !t.leave && s.inSlice (s.teamPart t))

/-- Nothing of the device but its teams and its partitions' slices differs. -/
def onlyTurns (s s' : State) : Prop := s' = { s with teams := s'.teams, parts := s'.parts } ∧
  s'.parts.map (fun p => { p with slice := .on }) = s.parts.map fun p => { p with slice := .on }

end Sys2Proof.Statements

/-- SLICE_END and TIME_SLICE_START (R143, R175): at the end of a slice every team of the partition and of those below it is to roll back; once they
have, and their drains hold no line, the sibling with the next PARTID has its turn. A period begins, when no sibling is in its turn, with the
lowest PARTID. Teams are ready in their partition's turn. Where the spec leaves a choice: log 67. -/
def Sys2Proof.Statements.Slices : Prop :=
  (∀ (part : Nat) (p : Part) (s : State), s.part? part = some p → p.ts = true → p.slice = .on →
    (∀ t, t ∈ s.teams → s.isBelow part (s.teamPart t) = true → t.saved = false → t.ending = .no →
      ∃ s' p' t', exec (.sliceEnd part) s = .next s' ∧ onlyTurns s s' ∧ s'.part? part = some p' ∧ p'.slice = .leaving ∧ t' ∈ s'.teams ∧
        t' = { t with rb := true }) ∧
    ((∀ t ∈ s.teams, s.isBelow part (s.teamPart t) = true → t.saved = true) →
      ∃ s' p', exec (.sliceEnd part) s = .next s' ∧ onlyTurns s s' ∧ readiness s' ∧ s'.part? part = some p' ∧ p'.slice = .off ∧
        ∀ q, s.part? q.id = some q → siblings p q = true → p.id < q.id → (∀ r ∈ s.parts, siblings p r = true → p.id < r.id → q.id ≤ r.id) →
          s'.part? q.id = some { q with slice := .on })) ∧
  (∀ (part : Nat) (p : Part) (t : Team) (s : State), s.part? part = some p → p.slice = .leaving → t ∈ s.teams →
    s.isBelow part (s.teamPart t) = true → t.saved = false → t.rb = true ∨ t.drain ≠ [] ∨ t.rstOut ≠ [] → exec (.sliceEnd part) s = .next s) ∧
  (∀ (part : Nat) (p : Part) (s : State), s.part? part = some p →
    (p.ts = true → p.slice = .off → (∀ q ∈ s.parts, siblings p q = true → q.slice = .off ∧ p.id ≤ q.id) →
      ∃ s', exec (.timeSliceStart part) s = .next s' ∧ onlyTurns s s' ∧ readiness s' ∧ s'.part? part = some { p with slice := .on }) ∧
    (p.ts = false ∨ p.slice ≠ .off ∨ (∃ q ∈ s.parts, siblings p q = true ∧ (q.slice ≠ .off ∨ q.id < p.id)) →
      exec (.timeSliceStart part) s = .next s))

/-- THROTTLE_REPORT (R176): a memory controller's queue holds `total` of `depth` entries, `share` of them the partition's. The step rises, to 5 at
most, where the queue is more than half full and the share exceeds BWMIN, and falls to 0 otherwise; no step is in force while every queue last
reported less than half full. The form of the report: log 110. -/
def Sys2Proof.Statements.Throttle : Prop := ∀ (part : Nat) (q : QueueReading) (p : Part) (s : State), s.part? part = some p →
  ∃ s' p', exec (.throttleReport part q) s = .next s' ∧ s' = { s with parts := s'.parts } ∧ s'.part? part = some p' ∧
    p' = { p with step := p'.step, busy := p'.busy } ∧
    p'.step = (if q.depth < 2 * q.total ∧ p.bwmin * q.total < 4096 * q.share then min 5 (p.step + 1) else p.step - 1) ∧
    (q.ctrl ∈ p'.busy ↔ q.depth ≤ 2 * q.total) ∧ (∀ k, k ≠ q.ctrl → (k ∈ p'.busy ↔ k ∈ p.busy)) ∧
    p'.throttle = if p'.busy = [] then 0 else p'.step

/-- CONTEXT_SWITCH, ROLLBACK and TEAM_SAVE (R142, R150, R172, R173, R191): a team that is to leave rolls back to its checkpoint (its Phase Buffer and
Undo Log empty, every register, predicate and program counter as recorded, the scratchpad as recorded but for barrier objects and the mirror
region), and leaves its core once its drain is empty, with its checkpoint's bytes in the partition's save area. With a team of a cooperative
launch every team of it leaves, and the launch parks (R38, log 72). The save area's layout: log 108. -/
def Sys2Proof.Statements.RollsBack : Prop :=
  (∀ (team : Nat) (t : Team) (s : State), s.team? team = some t → t.saved = false → t.ending = .no →
    ∃ s', exec (.contextSwitch team) s = .next s' ∧ s' = { s with teams := s'.teams, launches := s'.launches } ∧
      s'.team? team = some { t with rb := true, leave := true } ∧
      ((∀ l, s.launch? t.launch = some l → l.coop = false) → s'.launches = s.launches ∧
        ∀ k, k ≠ team → s'.team? k = s.team? k) ∧
      ∀ l, s.launch? t.launch = some l → l.coop = true →
        (∃ l', s'.launch? t.launch = some l' ∧ l' = { l with status := if l.status.ended then l.status else .parked }) ∧
        ∀ u ∈ s.teams, u.launch = l.id → u.saved = false → u.ending = .no → { u with rb := true, leave := true } ∈ s'.teams) ∧
  (∀ (team : Nat) (t : Team) (s : State), s.team? team = some t → t.lost = false → (t.rb = false ∨ t.ending ≠ .no) →
    exec (.rollback team) s = .next s) ∧
  (∀ (team : Nat) (t : Team) (s : State), s.team? team = some t → t.rb = true → t.ending = .no → t.undoAfter = false → t.lost = false →
    s.mayRollback t = true →
    (∀ c ∈ s.gaths, c.team ≠ t.id) → (∀ c ∈ s.colls, c.team ≠ t.id) → (∀ c ∈ s.rses, c.team ≠ t.id) → storeWf t.live.scr = true →
      ∃ s' t', exec (.rollback team) s = .next s' ∧ s'.mem = s.mem ∧ s'.team? team = some t' ∧ t'.rb = false ∧ t'.gen = t.gen + 1 ∧
        t'.phasen = t.phasen ∧ t'.pb = [] ∧ t'.rsts = [] ∧ t'.undo = [] ∧ t'.drain = t.drain ∧ t'.leave = t.leave ∧
        t'.live.tiles = t.ckpt.tiles ∧ t'.live.budgets = t.ckpt.budgets ∧
        (∀ a, look t'.live.scr a =
          if t.bars.any (fun b => decide (b.addr ≤ a ∧ a < b.addr + 16)) || (decide (2 ≤ s.metaOf t (·.tset)) &&
            decide (s.metaOf t (·.mirOff) ≤ a ∧ a < s.metaOf t (·.mirOff) + s.metaOf t (·.mirSize))) then look t.live.scr a else look t.ckpt.scr a) ∧
        ∀ (k : Nat) (g c : Group), t.live.groups[k]? = some g → t.ckpt.groups[k]? = some c → ∃ g' : Group, t'.live.groups[k]? = some g' ∧ g'.v = c.v ∧ g'.s = c.s ∧
          g'.p = c.p ∧ g'.frags.map (fun f => (f.pc, f.slices, f.guard)) = c.frags.map (fun f => (f.pc, f.slices, f.guard)) ∧ g'.live = c.live ∧
          g'.ops = [] ∧ g'.handler = none ∧ g'.latch = none ∧ g'.escs = g.escs.filter fun e => e.faulted && decide (e.phase < t.phasen)) ∧
  (∀ (team : Nat) (t : Team) (s : State), s.team? team = some t → t.leave = true → t.rb = false →
    (t.drain ≠ [] ∨ t.rstOut ≠ [] → exec (.teamSave team) s = .next s) ∧
    (t.drain = [] → t.rstOut = [] → ∃ s' u, exec (.teamSave team) s = .next s' ∧ s' = { s.saveArea t with teams := s'.teams, cores := s'.cores } ∧
      s'.team? team = some { u with saved := true, leave := false, ready := false } ∧
      (∀ p, s.partOf t = some p → let x := p.saveBytes t
        readBytes s'.mem x.1 x.2.length = x.2 ∧ ∀ a, a < x.1 ∨ x.1 + x.2.length ≤ a → look s'.mem a = look s.mem a) ∧
      ((∀ p, s.partOf t = some p → ∀ b ∈ t.binds, touches (cells (p.saveBytes t).1 (p.saveBytes t).2) b.1 = false) →
        u = { t with area := match s.partOf t with
          | some p => some (p.saveBytes t)
          | none => t.area }) ∧
      ∀ k, s.core? t.core = some k →
        s'.core? t.core = some { k with elb := k.elb + ((t.live.groups.flatMap (·.escs)).map (·.cost)).sum }))

/-- Turns, throttling, rollback and saving. -/
def Obligations.Scheduling : Prop := Statements.Slices ∧ Statements.Throttle ∧ Statements.RollsBack

/-! ### Escorts that come back -/

/-- The lanes that an operation had still to read, with the bytes that they have read now: bytes that memory has held, or that the team's
snapshot holds (R130, R131). -/
def Sys2Proof.Statements.landed (got : List (Nat × List Byte)) (snap : Store 9) (s : State) (lanes : List LaneAcc) (n : Nat) : Prop :=
  got.map Prod.fst = lanes.map (·.lane) ∧ ∀ p ∈ got.zip lanes, p.1.2.length = n ∧ ∀ k (hk : k < p.1.2.length),
    (∃ v, p.1.2[k] = s.byteAt v (p.2.addr + k)) ∨
      (snapHas snap ((p.2.addr + k) / 8 * 8) = true ∧ p.1.2[k] = snapGet snap (p.2.addr + k))

/-- ESCORT_LANDING of an LDE whose lanes are settled (R184, R186, R187, R188): the carried registers come back with the values they left with, the
results go to d, the quota and the core's reserve take the cost back and the operation has finished; lanes not yet settled read now, each byte one
that the team's snapshot holds or memory has held. An ATOME (R326) waits for the team's publish, applies the lanes of one address in
ascending order at memory, brings the old values back, and takes its boundary. A request that met a fault comes back without a result, holds
its cost, and leaves a pending trap for its slices, in issue order; poison that it met is a machine check, which rolls the team back, or where
the request's phase has been committed ends it, or restarts it under DUR (R171, R298; DEDUCED, log 79); behind an older read of its group of the
same bytes a request waits (R192); one that nobody waits for gives its cost back. The handle of a retained request: log 49 (DESIGN CHOICE). -/
def Sys2Proof.Statements.EscortLands : Prop :=
  (∀ (team gi esc : Nat) (t : Team) (g : Group) (e : Escort) (k : Core) (s : State), s.team? team = some t → t.live.groups[gi]? = some g →
    g.escs.find? (fun x => x.op == esc && !x.faulted) = some e → s.awaitsHost esc = false → e.atom = none → s.core? t.core = some k →
    (∀ x ∈ e.carried, 32 ≤ x.1 ∧ x.2.1 < 32 ∧ x.1 ∉ e.dst) → (e.carried.map fun x => (x.1, x.2.1)).Nodup → (∀ b ∈ e.dst, 32 ≤ b) →
      (t.escBehind gi e = true → exec (.escortLanding team gi esc) s = .next s) ∧
      (t.escBehind gi e = false → e.bad = none → (e.mchk = true ∨ ∃ l ∈ e.pas, s.poisoned l.addr e.nb = true) →
        ∃ s', exec (.escortLanding team gi esc) s = .next s' ∧
        (e.phase < t.phasen → s.durable t.launch = false → faults s s' t 14) ∧
        (e.phase < t.phasen → s.durable t.launch = true → ∃ t', s'.team? team = some t' ∧ t'.rb = true ∧ t'.lost = true) ∧
        (t.phasen ≤ e.phase → ∃ t' g', s'.mem = s.mem ∧ s'.team? team = some t' ∧ t'.rb = true ∧ t'.live.groups[gi]? = some g' ∧
          (g.frags ≠ [] → g'.trap.code = 14) ∧
          ∀ x ∈ e.carried, g'.getId x.1 x.2.1 = x.2.2)) ∧
      (t.escBehind gi e = false → e.bad = none → e.mchk = false → (∀ l ∈ e.pas, s.poisoned l.addr e.nb = false) → 1 ≤ e.elem →
        (e.vals.map Prod.fst ++ e.pas.map (·.lane)).Nodup → (∀ x ∈ e.vals.map Prod.fst ++ e.pas.map (·.lane), x < 32) → e.dst.Nodup →
        ∃ s' t' g' got, exec (.escortLanding team gi esc) s = .next s' ∧ s'.mem = s.mem ∧ s'.team? team = some t' ∧
          t'.live.groups[gi]? = some g' ∧ landed got t.snap s e.pas e.nb ∧
          s'.core? t.core = some { k with elb := k.elb + e.cost } ∧ g'.escu = g.escu - e.cost ∧ g'.escs = g.escs.filter (fun x => x.op ≠ e.op) ∧
          g'.pend = g.pend ∧ (∀ r, r ∈ g'.sb ↔ r ∈ g.sb ∧ r ∉ e.dst ∧ r ∉ e.regs) ∧ (∀ x ∈ g'.ops, x.id = e.op → x.fin = true) ∧
          (∀ x ∈ e.carried, g'.getId x.1 x.2.1 = x.2.2) ∧
          (∀ x ∈ e.vals ++ got, ∀ j b, e.dst[j]? = some b → (4 ≤ e.nb → g'.getId b x.1 = BitVec.ofNat 32 (leNat ((x.2.drop (4 * j)).take 4))) ∧
            (e.nb < 4 → j = 0 → g'.getId b x.1 = BitVec.ofNat 32 (leNat (x.2.take e.nb)))) ∧
          (∀ b m, 1 ≤ b → m < 32 → b ∉ e.dst → (∀ x ∈ e.carried, ¬ (x.1 = b ∧ x.2.1 = m)) → g'.getId b m = g.getId b m) ∧ g'.p = g.p) ∧
      (t.escBehind gi e = false → e.bad ≠ none →
        ∃ s' t' g' h, exec (.escortLanding team gi esc) s = .next s' ∧ s' = { s with teams := s'.teams } ∧ s'.team? team = some t' ∧
          t'.live.groups[gi]? = some g' ∧ g'.escu = g.escu ∧ g'.pend.Perm (.esc e.op h e.slices :: g.pend) ∧
          (g.pend.Pairwise (fun x y => x.ord ≤ y.ord) → g'.pend.Pairwise fun x y => x.ord ≤ y.ord) ∧
          g'.escs = g.escs.map (fun x => if x.op = e.op then { x with handle := h, faulted := true } else x) ∧
          (∀ u ∈ s.teams, u.core = t.core → ∀ y ∈ u.live.groups, ∀ x ∈ y.escs, x.faulted = true → x.handle ≠ h) ∧
          (∀ r, r ∈ g'.sb ↔ r ∈ g.sb ∧ r ∉ e.regs) ∧ (∀ x ∈ e.carried, g'.getId x.1 x.2.1 = x.2.2) ∧
          ∀ b m, 1 ≤ b → m < 32 → (∀ x ∈ e.carried, ¬ (x.1 = b ∧ x.2.1 = m)) → g'.getId b m = g.getId b m)) ∧
  (∀ (team gi esc : Nat) (t : Team) (g : Group) (e : Escort) (wide : Bool) (op : AtomOp) (s : State), s.team? team = some t →
    t.live.groups[gi]? = some g → g.escs.find? (fun x => x.op == esc && !x.faulted) = some e → e.atom = some (wide, op) → e.bad = none →
    (t.pub.isSome = true → exec (.escortLanding team gi esc) s = .next s) ∧
    (let n := atomBytes wide
     let ls := e.pas.map fun p => (⟨p.lane, p.addr, (((e.operand.find? fun x => x.1 == p.lane).map Prod.snd).getD 0).toNat, 0⟩ : AtomLane)
     let run := fun p => atomRun (atomFn op wide) (ls.filter fun l => l.addr == p) (readNat s.mem p n)
     s.awaitsHost esc = false → t.pub = none → t.escBehind gi e = false → t.hostBehind s e = false → e.mchk = false → e.nb = n →
     (∀ l ∈ e.pas, s.poisoned l.addr n = false ∧ l.addr % n = 0 ∧ l.lane < 32) → (e.pas.map (·.lane)).Nodup → e.dst.Nodup →
     e.dst.length = atomRegs wide → (∀ x ∈ e.carried, 32 ≤ x.1 ∧ x.2.1 < 32 ∧ x.1 ∉ e.dst) →
     (e.carried.map fun x => (x.1, x.2.1)).Nodup → (∀ b ∈ e.dst, 32 ≤ b) →
       ∃ s' t' g', exec (.escortLanding team gi esc) s = .next s' ∧ s'.team? team = some t' ∧ t'.live.groups[gi]? = some g' ∧
         (∀ p ∈ ls.map (·.addr), readBytes s'.mem p n = leBytes n (run p).2.1) ∧
         (∀ q, (∀ p ∈ ls.map (·.addr), q < p ∨ p + n ≤ q) → look s'.mem q = look s.mem q) ∧
         t'.phasen = t.phasen + 1 ∧ t'.pb = [] ∧ t'.snap = [] ∧ g'.escu = g.escu - e.cost ∧ g'.escs = g.escs.filter (fun x => x.op ≠ e.op) ∧
         (∀ x ∈ e.carried, g'.getId x.1 x.2.1 = x.2.2) ∧
         ∀ l ∈ ls, ∀ v, (l.lane, v) ∈ (run l.addr).1 → ∀ j b, e.dst[j]? = some b → g'.getId b l.lane = BitVec.ofNat 32 (v / 2 ^ (32 * j)))) ∧
  (∀ (team gi esc : Nat) (s : State), (∀ t, s.team? team = some t → ∀ g, t.live.groups[gi]? = some g → ∀ x ∈ g.escs, ¬ (x.op = esc ∧ x.faulted = false)) →
    ∃ s', exec (.escortLanding team gi esc) s = .next s' ∧ s' = { s with cores := s'.cores } ∧
      s'.cores = s.cores.map fun k =>
        { k with elb := k.elb + ((k.late.filter fun x => x.1 == esc).map (·.2)).sum, late := k.late.filter fun x => x.1 ≠ esc })

/-- ESCFAULT_TAKEN (R164, R168, R188, R189): the fragment takes the pending trap at its next issue, with the request's handle, window and cause, its
words, lanes and address; the pending entry is gone, the request stays. A PAGE cause parks the handler for the host, another ends the team. -/
def Sys2Proof.Statements.EscfaultTrap : Prop := ∀ (n h m : Nat) (e : Escort) (f : EscFault) (s : State) (c : Ctx),
  s.cur.bind s.ctx = some c → c.pending = some (.esc n h m) → c.g.escs.find? (fun x => x.faulted && x.handle == h) = some e → e.bad = some f →
    (f.cause = 4 → ∃ s' t' g' x, exec .escfaultTaken s = .next s' ∧ s'.mem = c.s.mem ∧ s'.team? c.ref.team = some t' ∧
      t'.live.groups[c.ref.group]? = some g' ∧
      g'.trap = ⟨10, c.f.pc, BitVec.ofNat 52 f.addr, f.lanes, BitVec.ofNat 32 (65536 * (h % 256) + 4096 * (e.wbase % 16) + 4),
        BitVec.ofNat 32 e.words.1, BitVec.ofNat 32 e.words.2⟩ ∧
      g'.handler = some x ∧ x.slice = c.f.lowest ∧ x.esc = some h ∧ x.token.isSome = true ∧ g'.pend = c.g.pend.erase (.esc n h m) ∧
      g'.escs = c.g.escs ∧ g'.v = c.g.v ∧ g'.s = c.g.s ∧ g'.p = c.g.p) ∧
    (f.cause ≠ 4 → f.cause < 4096 → ∃ s', exec .escfaultTaken s = .next s' ∧ faults s s' c.t 10)

/-- REMOTE_TRAP_TAKEN (R168, R254): the pending REMOTE trap is taken in place of the fragment's next issue; the firmware ends the team. -/
def Sys2Proof.Statements.RemoteTrap : Prop := ∀ (n k cause peer addr m : Nat) (lanes : BitVec 32) (s : State) (c : Ctx),
  s.cur.bind s.ctx = some c → c.pending = some (.remote n k cause peer addr m lanes) →
    ∃ s', exec .remoteTrapTaken s = .next s' ∧ faults s s' c.t 11

/-- What comes back from an escort, and the traps that stand in for an instruction. Poison at a committed phase: log 79 (DEDUCED); the handle in
TRAPAUX0: log 49 (DESIGN CHOICE). -/
def Obligations.EscortReturns : Prop := Statements.EscortLands ∧ Statements.EscfaultTrap ∧ Statements.RemoteTrap

/-! ### The engines at work -/

namespace Sys2Proof.Statements

/-- No write of memory is newer than the version count: what every step keeps, and what makes a version the present one. -/
abbrev histOk (s : State) : Prop := ∀ h ∈ s.hist, h.ver ≤ s.ver

/-- What an engine's end does to the scratchpad for the barrier that bits 19:0 of a word name (R66, R150, R151): bytes are credited, or the
barrier breaks; an object that is not registered, or no name, leaves it alone. -/
def barrierAfter (t : Team) (w : Nat) (ok : Bool) (n : Nat) (m : Store 8) : Store 8 :=
  if w % 2 ^ 20 ≠ 2 ^ 20 - 1 ∧ t.bars.any (fun b => b.addr == 16 * (w % 2 ^ 20)) = true then
    barStore m (16 * (w % 2 ^ 20)) (if ok then barCredit n else barBreak)
  else m

/-- The boundary that makes room in the Undo Log comes before a landing of an engine, once the team's publish is over (R138, R140); the event then
comes again, and no byte of memory has changed (log 105). -/
def roomFirst (s : State) (t : Team) (o : Host.Outcome State Fault Refusal) : Prop :=
  (t.pub.isSome = true → o = .next s) ∧
  (t.pub = none → ∃ s' t', o = .next s' ∧ s'.mem = s.mem ∧ s'.copies = s.copies ∧ s'.gaths = s.gaths ∧ s'.colls = s.colls ∧
    s'.team? t.id = some t' ∧ t'.phasen = t.phasen + 1 ∧ t'.live.scr = t.live.scr)

/-- The bytes of a virtual range as they stand at memory. -/
def rangeBytes (s : State) (root va len : Nat) : List Byte := (pages va len).flatMap fun p => match s.translate root p.1 with
  | none => []
  | some (_, pa) => readBytes s.mem pa p.2.2

/-- Bytes of a virtual range as 64-byte lines or parts of them at their physical addresses (R129). -/
def placed (s : State) (root va : Nat) (bs : List Byte) : List PbItem := ((pages va bs.length).flatMap fun p => match s.translate root p.1 with
  | none => []
  | some (_, pa) => linePieces (pa, (bs.drop p.2.1).take p.2.2)).map fun p => .st p.1 p.2

/-- The registers and predicates of every group stay. -/
def sameFiles (t t' : Team) : Prop := ∀ (k : Nat) (g : Group), t.live.groups[k]? = some g →
  ∃ g' : Group, t'.live.groups[k]? = some g' ∧ g'.v = g.v ∧ g'.s = g.s ∧ g'.p = g.p

/-- The registers of every group stay, and the operation of a group has finished. -/
def finished (t t' : Team) (group op : Nat) : Prop := ∀ (k : Nat) (g : Group), t.live.groups[k]? = some g →
  ∃ g' : Group, t'.live.groups[k]? = some g' ∧ g'.v = g.v ∧ g'.s = g.s ∧ g'.p = g.p ∧ (k = group → ∀ x ∈ g'.ops, x.id = op → x.fin = true)

/-- The context that a team's addresses are in. -/
def rootOf (s : State) (t : Team) : Nat := ((s.funcOf t).map (·.root)).getD 0

end Sys2Proof.Statements

/-- COPY_ENTRY_TAKE (R65, R66, R67): the engine takes the entry at HEAD of the ring whose turn it is (DESIGN CHOICE, log 44), and HEAD advances; no
other byte of the scratchpad changes, and none of memory. While no ring of the core can be served it takes none. -/
def Sys2Proof.Statements.CopyTakes : Prop :=
  (∀ (core : Nat) (s : State), (s.core? core).bind s.ringTurn = none → exec (.copyEntryTake core) s = .next s) ∧
  ∀ (core : Nat) (t : Team) (s : State), (s.core? core).bind s.ringTurn = some t → s.team? t.id = some t →
  let off := s.metaOf t (·.cpring)
  let base := readNat t.live.scr off 4
  let count := readNat t.live.scr (off + 4) 4
  let head := readNat t.live.scr (off + 8) 8
  let e := entryOf (readNat t.live.scr (base + head % count * 32) 32)
  ∃ (s' : State) (t' : Team) (c : CopyCmd), exec (.copyEntryTake core) s = .next s' ∧ s'.mem = s.mem ∧ s'.copies = s.copies ++ [c] ∧ c.team = t.id ∧ c.core = core ∧
    c.seq = head ∧ c.entry = ⟨e.src, e.dst % 2 ^ 64, e.len, e.ctl % 2 ^ 32, e.rows, e.stride⟩ ∧ c.code = s.entryCode t e ∧
    s'.team? t.id = some t' ∧ (∀ a, look t'.live.scr a =
      if off + 8 ≤ a ∧ a < off + 16 then (leBytes 8 ((head + 1) % 2 ^ 64)).getD (a - (off + 8)) 0 else look t.live.scr a)

/-- COPY_ENTRY_COMPLETE (R66, R67, R70, R129, R141), of a source that nobody has written since. Into the scratchpad: the payload, then the stamp
with the sequence number, then the credit. Into registers: word 32 j + l of the payload to lane l of register j of the run, and the stamp to STAMPR.
Into global memory: the payload and the stamp, line by line, into the Phase Buffer, or the drain once the phase has ended. An entry that was refused
at its check moves nothing, stamps bit 63 with its code, and breaks its barrier. Memory, and every register that is no destination, stay. It waits
for its lines of host memory, and for the boundary that makes room in the Undo Log or the Phase Buffer. Bytes that the team wrote meanwhile, and
those of an outstanding ATOMS or CASS, are not covered (R141, R323 leave them open). -/
def Sys2Proof.Statements.CopyEnds : Prop := ∀ (cmd : Nat) (c : CopyCmd) (t : Team) (s : State),
  s.copies.find? (fun c => c.id == cmd) = some c → s.team? c.team = some t →
  let e := c.entry
  let root := rootOf s t
  let stamp := (e.off + e.total + 7) / 8 * 8
  let data := e.ranges.flatMap fun p => rangeBytes s root p.1 p.2
  let fits := s.undoFits t c.phase (s.entryKeys t c.code e)
  let clean := c.code = 0 ∧ c.ver = s.ver ∧ e.total ≤ 2 ^ 24 ∧ (e.ranges.flatMap fun p => s.srcFaults root false p.1 p.2 0) = [] ∧ e.dec = false
  let ends := fun (s' : State) (t' : Team) => exec (.copyEntryComplete cmd) s = .next s' ∧ s'.mem = s.mem ∧
    s'.copies = s.copies.filter (fun x => x.id ≠ cmd) ∧ s'.team? c.team = some t'
  (s.awaitsHost cmd = true → exec (.copyEntryComplete cmd) s = .next s) ∧
  (s.awaitsHost cmd = false → (fits = false ∨ c.code = 0 ∧ e.kind = 2 ∧ t.noRoom c.phase e.off (stamp + 8 - e.off) = true) →
    roomFirst s t (exec (.copyEntryComplete cmd) s)) ∧
  (s.awaitsHost cmd = false → c.torn = [] → histOk s → fits = true →
    (e.kind = 0 → stamp + 8 ≤ s.scrSizeOf t → (t.tearAtoms e.off (stamp + 8 - e.off) s).1 = [] →
      (clean → ∃ s' t', ends s' t' ∧ finished t t' c.group c.op ∧
        t'.live.scr = barrierAfter t e.ctl true e.total (writeBytes (writeBytes t.live.scr e.off data) stamp (leBytes 8 c.seq))) ∧
      (c.code ≠ 0 → c.code ≠ 9 → ∃ s' t', ends s' t' ∧ finished t t' c.group c.op ∧
        t'.live.scr = barrierAfter t e.ctl false 0 (writeBytes t.live.scr stamp (leBytes 8 (2 ^ 63 + c.seq % 2 ^ 55 * 256 + c.code))))) ∧
    (∀ g, e.kind = 1 → t.live.groups[e.target]? = some g → e.total % 128 = 0 → clean → ∃ s' t' g', ends s' t' ∧
      t'.live.scr = barrierAfter t e.ctl true e.total (writeBytes t.live.scr (s.metaOf t (·.cpring) + 32) (leBytes 8 c.seq)) ∧
      t'.live.groups[e.target]? = some g' ∧ g'.p = g.p ∧
      (∀ j l, j < e.total / 128 → l < 32 → g'.getId (vName (e.off + j)) l = BitVec.ofNat 32 (leNat ((data.drop (128 * j + 4 * l)).take 4))) ∧
      (∀ b m, 1 ≤ b → m < 32 → (∀ j, j < e.total / 128 → b ≠ vName (e.off + j)) → g'.getId b m = g.getId b m) ∧
      (∀ run, e.run t.live = some run → ∀ r ∈ run, vName r ∉ g'.sb) ∧
      ∀ (k : Nat) (x : Group), k ≠ e.target → t.live.groups[k]? = some x → ∃ x' : Group, t'.live.groups[k]? = some x' ∧ x'.v = x.v ∧ x'.s = x.s ∧ x'.p = x.p) ∧
    (e.kind = 2 → clean → e.enc = false → t.noRoom c.phase e.off (stamp + 8 - e.off) = false → s.dstFaults root false e.off e.total = [] →
      s.dstFaults root false stamp 8 = [] → ∃ s' t', ends s' t' ∧ finished t t' c.group c.op ∧
        t'.live.scr = barrierAfter t e.ctl true e.total t.live.scr ∧
        (let items := placed s root e.off data ++ placed s root stamp (leBytes 8 c.seq)
         if t.handed c.phase then t'.pb = t.pb ∧ t'.drain = t.drain ++ items.map fun i => ⟨c.phase, i⟩
         else t'.pb = t.pb ++ items ∧ t'.drain = t.drain)))

/-- GATH_COMPLETE (R379, R380): the last row lands at its place and is credited, and the stamp 0 follows; with no rows the stamp is followed by the
credit of 0 bytes; a malformed descriptor moves no byte, stamps bit 63 with 0x10 and breaks its barrier. The boundary that makes room in the
Undo Log comes first. Bytes that R141 and R323 leave open are not covered. Where the spec leaves a choice: log 60; the rounding of the stamp's
place: log 41 (DEDUCED). -/
def Sys2Proof.Statements.GatherEnds : Prop := ∀ (cmd rows : Nat) (c : GathCmd) (t : Team) (s : State),
  s.gaths.find? (fun c => c.id == cmd) = some c → s.team? c.team = some t → s.awaitsHost cmd = false → c.torn = [] → histOk s →
  let stamp := (c.dst + c.count * c.rowb + 7) / 8 * 8
  let stamped := fun (x : Nat) (m : Store 8) => if stamp + 8 ≤ s.scrSizeOf t then writeBytes m stamp (leBytes 8 x) else m
  let fits := s.undoFits t c.phase (s.gathKeys t c (if c.bad then [] else c.left.filter rows.testBit))
  let ends := fun (s' : State) (t' : Team) => exec (.gathComplete cmd rows) s = .next s' ∧ s'.mem = s.mem ∧
    s'.gaths = s.gaths.filter (fun x => x.id ≠ cmd) ∧ s'.team? c.team = some t' ∧ finished t t' c.group c.op
  (fits = false → roomFirst s t (exec (.gathComplete cmd rows) s)) ∧
  (fits = true → (t.tearAtoms stamp 8 s).1 = [] →
    (∀ j, (t.tearAtoms (c.dst + j * c.rowb) c.rowb s).1 = [] → c.bad = false → c.left = [j] → c.count ≠ 0 → rows.testBit j = true → c.ver = s.ver →
      let va := (c.src + c.idx.getD j 0 * c.stride) % 2 ^ 52
      s.srcFaults (rootOf s t) false va c.rowb 0 = [] → ∃ s' t', ends s' t' ∧
        t'.live.scr = stamped 0 (barrierAfter t c.ctl.toNat true c.rowb (writeBytes t.live.scr (c.dst + j * c.rowb) (rangeBytes s (rootOf s t) va c.rowb)))) ∧
    (c.bad = false → c.left = [] → c.count = 0 → ∃ s' t', ends s' t' ∧ t'.live.scr = barrierAfter t c.ctl.toNat true 0 (stamped 0 t.live.scr)) ∧
    (c.bad = true → ∃ s' t', ends s' t' ∧ t'.live.scr = barrierAfter t c.ctl.toNat false 0 (stamped (2 ^ 63 + 0x10) t.live.scr)))

/-- COLL_EXECUTE (R250, R251, R258, R259, R261, R354): the oldest command that the engine has not served is checked: one whose group's table entry or
ids are poisoned, a malformed one, and one of a group that this device is no member of, takes its code; another takes the launch's next
instance number for the group, with its rank, and asks each other member for its contribution: where the function's key is 0 or a member cannot
be reached it asks none and takes that code. -/
def Sys2Proof.Statements.CollectiveServed : Prop := ∀ (found : CollMatch) (c : CollCmd) (t : Team) (l : Launch) (s : State),
  s.colls.find? (fun c => !c.served) = some c → s.team? c.team = some t → s.launch? c.launch = some l →
  let ids := s.groupOf t c.ctl.toNat
  let g := c.ctl.toNat / 2 ^ 24
  let k := ((l.instances.find? fun x => x.1 == g).map Prod.snd).getD 0
  let table := ((s.partOf t).map (·.dgtbase)).getD 0 + 16 * g
  let members := readNat s.mem table 4
  let poisoned := s.poisoned table 16 = true ∨ 1 ≤ members ∧ members ≤ 9216 ∧ s.poisoned (readNat s.mem (table + 8) 8) (2 * members) = true
  (∀ code, (poisoned ∧ code = 0x1C ∨ ¬ poisoned ∧ s.collBad t c = true ∧ code = 0x10 ∨
      ¬ poisoned ∧ s.collBad t c = false ∧ s.devId ∉ ids ∧ code = 0x11) →
    ∃ s' i, exec (.collExecute found) s = .next s' ∧ s' = { s with colls := s'.colls, freeCtr := s'.freeCtr } ∧
      s'.colls = s.colls.map fun x => if x.id = c.id then { x with served := true, inst := i, code := code } else x) ∧
  (∀ r, ¬ poisoned → s.collBad t c = false → ids.idxOf? s.devId = some r →
    let others := ids.eraseIdx r
    ∃ s' l' code, exec (.collExecute found) s = .next s' ∧ s'.mem = s.mem ∧ s'.teams = s.teams ∧ s'.launch? c.launch = some l' ∧
      ((l'.instances.find? fun x => x.1 == g).map Prod.snd) = some (k + 1) ∧
      (∀ j, j ≠ g → (l'.instances.find? fun x => x.1 == j) = l.instances.find? fun x => x.1 == j) ∧
      (s'.colls = s.colls.map fun x => if x.id = c.id then
        { x with
          served := true
          inst := k % 2 ^ 32
          rank := r
          members := ids.length
          code := code }
        else x) ∧
      (ids.length = 1 → code = 0 ∧ s'.rreqs = s.rreqs) ∧
      (ids.length ≠ 1 → found = .mismatch → code = 0x12 ∧ s'.rreqs = s.rreqs) ∧
      (ids.length ≠ 1 → found = .unreachable → code = 0x13 ∧ s'.rreqs = s.rreqs) ∧
      (ids.length ≠ 1 → found = .agree → c.count = 0 → code = 0 ∧ s'.rreqs = s.rreqs) ∧
      (ids.length ≠ 1 → found = .agree → c.count ≠ 0 → ∀ f, s.funcOf t = some f →
        (f.xwkey = 0 → code = 0x15 ∧ s'.rreqs = s.rreqs) ∧
        (f.xwkey ≠ 0 → (∃ d ∈ others, 9215 < d ∨ s.reachable d = false) → code = 0x13 ∧ s'.rreqs = s.rreqs) ∧
        (f.xwkey ≠ 0 → (∀ d ∈ others, d ≤ 9215 ∧ s.reachable d = true) → code = 0 ∧ ∃ rs : List RemReq, s'.rreqs = s.rreqs ++ rs ∧
          rs.length = others.length ∧ ∀ (j d : Nat) (q : RemReq), others[j]? = some d → rs[j]? = some q →
            q.msg.kind = .pull ∧ q.msg.dst = d ∧ q.msg.key = f.xwkey ∧ q.op = c.id ∧ q.held = false ∧ left s s' q.msg)))

/-- COLL_COMPLETE (R197, R250, R261, R354, R355) of the oldest command; no other completes before it. One with a code moves no byte, leaves the code
and its instance in the status word, and breaks its barrier. Otherwise DST is written and its bytes are credited first (in a group of one it
receives SRC, of a float reduction with each NaN made canonical, and with COUNT 0 nothing moves but the barrier is checked), and a second event
leaves the status 0. Contributions that do not answer the latest sending of their pulls are dropped. The boundary that makes room in the Undo
Log comes first. Bytes that R323 leaves open are not covered. -/
def Sys2Proof.Statements.CollectiveEnds : Prop := ∀ (cmd : Nat) (c : CollCmd) (s : State), s.colls.head? = some c →
  (c.id ≠ cmd ∨ c.served = false → ∀ parts fail, exec (.collComplete cmd parts fail) s = .next s) ∧
  ∀ (t : Team), c.id = cmd → c.served = true → s.team? c.team = some t →
  let status := fun (code : Nat) (m : Store 8) => writeBytes m c.stat (leBytes 4 code ++ leBytes 4 c.inst)
  let credited := fun (s' : State) => s'.colls = s.colls.map fun x =>
    if x.id = cmd then { x with landed := true, cap := some (x.cap.getD s'.ver) } else x
  let fits := s.undoFits t c.phase (s.lineKeys t c.stat 8)
  let pulls := s.rreqs.filter fun r => r.msg.kind == .pull && r.op == cmd
  (∀ parts, c.code ≠ 0 ∨ c.landed = true → fits = false → roomFirst s t (exec (.collComplete cmd parts 0) s)) ∧
  (∀ parts, c.code ≠ 0 ∨ c.landed = true → fits = true → (t.tearAtoms c.stat 8 s).1 = [] →
    ∃ s' t', exec (.collComplete cmd parts 0) s = .next s' ∧ s'.mem = s.mem ∧
    s'.colls = s.colls.filter (fun x => x.id ≠ cmd) ∧ s'.team? c.team = some t' ∧ finished t t' c.group c.op ∧
    t'.live.scr = if c.code ≠ 0 then barrierAfter t c.bar.toNat false 0 (status c.code t.live.scr) else status 0 t.live.scr) ∧
  (c.code = 0 → c.landed = false → s.awaitsHost cmd = true → ∀ parts, exec (.collComplete cmd parts 0) s = .next s) ∧
  (∀ parts, c.code = 0 → c.landed = false → s.awaitsHost cmd = false → c.count = 0 →
    ∃ s' t', exec (.collComplete cmd parts 0) s = .next s' ∧ s'.mem = s.mem ∧ credited s' ∧ s'.team? c.team = some t' ∧ sameFiles t t' ∧
      t'.live.scr = barrierAfter t c.bar.toNat true 0 t.live.scr) ∧
  (∀ (parts : List PullReply), c.code = 0 → c.landed = false → c.count ≠ 0 →
    (parts.length ≠ pulls.length ∨ ∃ (j : Nat) (q : RemReq) (p : PullReply), pulls[j]? = some q ∧ parts[j]? = some p ∧ p.seq ≠ q.msg.seq) →
      exec (.collComplete cmd parts 0) s = .next s) ∧
  (∀ (pg qg : Page) (pa qa : Nat) (ty : NumTy), c.code = 0 → c.landed = false → c.members = 1 → c.rank = 0 → c.count ≠ 0 → s.collBad t c = false →
    pulls = [] → s.awaitsHost cmd = false → c.ver = s.ver → histOk s → collType c.ctl.toNat = some ty →
    let w := collElem c.ctl.toNat
    let n := c.count * w
    s.translate (rootOf s t) c.src = some (pg, pa) → s.translate (rootOf s t) c.dst = some (qg, qa) → c.src % 65536 + n ≤ 65536 →
    c.dst % 65536 + n ≤ 65536 → s.srcFaults (rootOf s t) false c.src n 0 = [] → s.dstFaults (rootOf s t) false c.dst n = [] →
    (c.src = c.dst ∨ rangeMeets c.src n c.dst n = false) → (∀ u ∈ s.teams, u.binds = []) →
      ∃ s' t', exec (.collComplete cmd [] 0) s = .next s' ∧
        (∀ a, a < qa ∨ qa + n ≤ a → look s'.mem a = look s.mem a) ∧
        (∀ k, k < c.count → let x := readNat s.mem (pa + k * w) w
          readNat s'.mem (qa + k * w) w = if collKind c.ctl.toNat ≠ 1 ∧ collFloat ty = true then (match (numFmt ty).val x with
            | .nan _ => (numFmt ty).nan
            | _ => x) else x) ∧
        credited s' ∧ s'.team? c.team = some t' ∧ sameFiles t t' ∧ t'.live.scr = barrierAfter t c.bar.toNat true n t.live.scr)

/-- RSHARD_START (R263 to R266): a plan or a progress record with a status of its own ends the command before a byte moves; otherwise the command
runs with the plan's pieces, and where no record of the plan stands, a fresh one is written. -/
def Sys2Proof.Statements.ReshardStarts : Prop := ∀ (cmd : Nat) (c : RseCmd) (t : Team) (pg : Page) (pa : Nat) (s : State),
  s.rses.find? (fun c => c.id == cmd) = some c → s.team? c.team = some t → s.rseReady c = true →
  s.translate (rootOf s t) c.prog = some (pg, pa) → pg.prot = false → pg.ro = false → pg.inv = false →
  (∀ k, (s.rsePlan c = .error k ∨ ∃ x y i ps plan, s.rsePlan c = .ok (x, y, i, ps, plan) ∧ s.examine c ps plan = .error k) →
    c.prog % 65536 + 8 ≤ 65536 →
    ∃ s' t', exec (.rshardStart cmd) s = .next s' ∧ s'.mem = writeBytes s.mem (pa + 6) (leBytes 2 k) ∧
      s'.rses = s.rses.filter (fun x => x.id ≠ cmd) ∧ s'.team? c.team = some t' ∧ finished t t' c.group c.op) ∧
  (∀ x y i ps plan, s.rsePlan c = .ok (x, y, i, ps, plan) → s.examine c ps plan = .ok none → (∃ p ∈ ps, p.done < p.total) →
    c.prog % 65536 + 16 + 8 * ps.length ≤ 65536 →
      ∃ s' d, exec (.rshardStart cmd) s = .next s' ∧ s'.rses.find? (fun c => c.id == cmd) = some d ∧ d.running = true ∧ d.pieces = ps ∧
        d.elem = x.elem ∧ d.sbase = x.base ∧ d.dbase = y.base ∧ d.flight.length ≤ max c.flight.length 8 ∧
        s'.mem = writeBytes s.mem pa (leBytes 4 0x31475250 ++ leBytes 2 ps.length ++ leBytes 2 1 ++ leBytes 4 plan ++ leBytes 2 0xFFFF ++ leBytes 2 0 ++
          ps.flatMap fun p => leBytes 4 0 ++ leBytes 4 p.total))

/-- RSHARD_CHUNK_COMPLETE (R250, R261, R264 to R266): a reply to an earlier sending of a chunk's pull is dropped; a chunk that fails at its source
stops the command with its code, or with the code of its cause of R254, and moves no byte; another takes effect at the local shard, is credited,
and its piece's prefix of completed chunks grows as far as it is unbroken. Where the spec leaves a choice: log 62. -/
def Sys2Proof.Statements.ReshardChunks : Prop := ∀ (cmd piece chunk : Nat) (c : RseCmd) (p : Piece) (f : Func) (s : State) (data : PullReply),
  s.rses.find? (fun c => c.id == cmd) = some c → c.pieces[piece]? = some p → c.flight.contains (piece, chunk) = true → p.dev ≠ s.devId →
  s.rseFunc c = some f →
  let pull := fun (r : RemReq) => r.msg.kind = .pull ∧ r.op = cmd ∧ r.group = piece ∧ r.slices = chunk
  let ends := fun (fail : Nat) (s' : State) (d : RseCmd) => exec (.rshardChunkComplete cmd piece chunk data fail) s = .next s' ∧
    s'.rses.find? (fun c => c.id == cmd) = some d ∧ (piece, chunk) ∉ d.flight
  ((∀ r ∈ s.rreqs, pull r → r.msg.seq ≠ data.seq) → ∀ fail, exec (.rshardChunkComplete cmd piece chunk data fail) s = .next s) ∧
  ((∃ r ∈ s.rreqs, pull r ∧ r.msg.seq = data.seq) →
    (∀ fail code, (fail ∈ [0x13, 0x14, 0x15, 0x1C] ∧ code = fail ∨
        1 ≤ fail ∧ fail ≤ 6 ∧ code = if fail = 4 then 0x14 else if fail = 1 ∨ fail = 6 then 0x13 else 0x15) →
      ∃ s' d, ends fail s' d ∧ s'.mem = s.mem ∧ s'.teams = s.teams ∧ d.stop = some (c.stop.getD (code, p.dev)) ∧ d.pieces = c.pieces) ∧
    (∀ ws, data.data.length = p.chunk c.elem chunk → s.shardPieces c ((c.elems p chunk).map Prod.snd) data.data = .ok ws → chunk ≠ p.done →
      p.ahead.contains p.done = false → (∃ j r, c.pieces[j]? = some r ∧ j ≠ piece ∧ r.done < r.total) →
        ∃ s' d, ends 0 s' d ∧ s'.mem = putAll s.mem (ws.flatMap fun w => cells w.1 w.2) ∧ d.credited = c.credited + p.chunk c.elem chunk ∧
          d.pieces = c.pieces.set piece { p with ahead := chunk :: p.ahead }) ∧
    (∀ (ws : List (Nat × List Byte)) (pg : Page) (pa : Nat), data.data.length = p.chunk c.elem chunk →
      s.shardPieces c ((c.elems p chunk).map Prod.snd) data.data = .ok ws → chunk = p.done → 0 < p.total →
      (s.physWrite f.vf ws).translate f.root (c.prog + 16 + 8 * piece) = some (pg, pa) → pg.prot = false → pg.ro = false → pg.inv = false →
      (c.prog + 16 + 8 * piece) % 65536 + 4 ≤ 65536 → (∃ j r, c.pieces[j]? = some r ∧ j ≠ piece ∧ r.done < r.total) →
        let q := Piece.settle p.total { p with ahead := chunk :: p.ahead }
        ∃ s' d, ends 0 s' d ∧ s'.mem = writeBytes (putAll s.mem (ws.flatMap fun w => cells w.1 w.2)) pa (leBytes 4 q.done) ∧
          d.credited = c.credited + p.chunk c.elem chunk ∧ d.pieces = c.pieces.set piece q))

/-- The prefix of a piece grows over every completed chunk that joins it, and no further (R265). -/
def Sys2Proof.Statements.ReshardPrefix : Prop := ∀ (p : Piece) (n : Nat), p.ahead.length ≤ n →
  let q := Piece.settle n p
  p.done ≤ q.done ∧ q.done ∉ q.ahead ∧ (∀ k, p.done ≤ k → k < q.done → k ∈ p.ahead) ∧
    ∀ k, k ∈ q.ahead ↔ k ∈ p.ahead ∧ ¬ (p.done ≤ k ∧ k < q.done)

/-- RSHARD_STOP (R261, R262, R266): once no chunk is in flight the command ends, and its barrier breaks; the credits of a cancelled one are
withdrawn, without taking LAND below 0. -/
def Sys2Proof.Statements.ReshardStops : Prop := ∀ (cmd code dev : Nat) (c : RseCmd) (t : Team) (s : State),
  s.rses.find? (fun c => c.id == cmd) = some c → s.team? c.team = some t → c.stop = some (code, dev) →
  let a := 16 * (c.bar.toNat % 2 ^ 20)
  let withdrawn := if code = 0x1A ∧ c.bar.toNat % 2 ^ 20 ≠ 2 ^ 20 - 1 ∧ t.bars.any (fun b => b.addr == a) = true then
      barStore t.live.scr a fun o => { o with land := o.land - c.credited, brk := true }
    else t.live.scr
  (c.flight ≠ [] → exec (.rshardStop cmd) s = .next s) ∧
  (c.flight = [] → (∀ u ∈ s.teams, u.binds = []) → ∃ s' t', exec (.rshardStop cmd) s = .next s' ∧ s'.rses = s.rses.filter (fun x => x.id ≠ cmd) ∧
    s'.team? c.team = some t' ∧ finished t t' c.group c.op ∧ t'.live.scr = barrierAfter t c.bar.toNat false 0 withdrawn)

/-- What the Copy and Gather Engines do with the commands they have taken. The rounding of a stamp's place is log 41 (DEDUCED), the turn of the rings
log 44 (DESIGN CHOICE), the boundary that makes room log 105. -/
def Obligations.Engines : Prop := Statements.CopyTakes ∧ Statements.CopyEnds ∧ Statements.GatherEnds

/-- What the Collective and Re-Shard Engines do with the commands they have taken. -/
def Obligations.GroupEngines : Prop := Statements.CollectiveServed ∧ Statements.CollectiveEnds ∧ Statements.ReshardStarts ∧
  Statements.ReshardChunks ∧ Statements.ReshardPrefix ∧ Statements.ReshardStops

/-! ### The fabric -/

/-- REMOTE_REQUEST_RECEIPT (R145, R149, R249, R251, R254, R255): a request whose key one function has is served in that function's window, counted
once unless a lane fails, and answered on the route to its source: a store takes effect, a load reads, an atomic applies its operation once
however often it comes, a lane that fails answers with its cause. A key that no function has answers cause 2 in every lane; functions that share
it enter ERROR. Where the spec leaves a choice: log 53, 56. -/
def Sys2Proof.Statements.FabricServes : Prop := ∀ (m : Msg) (s : State), m.dst = s.devId → m.src ≠ s.devId →
  let reply := fun (ev : List Nat) (data : List MsgLane) (fails : List (Nat × Nat)) =>
    ({ kind := m.kind, src := s.devId, dst := m.src, req := m.req, seq := m.seq, alt := 0, hop := 0, ev := ev, data := data, fails := fails } : Reply)
  let answers := fun (s' : State) (r : Reply) => exec (.remoteRequestReceipt m) s = .next s' ∧ s'.launches = s.launches ∧
    s'.netReplies = s.netReplies ++ match s.route m.src with
      | none => []
      | some (alt, link) => [(link, 0, { r with alt := alt })]
  let fails := fun (f : Func) => m.kind ≠ .flush ∧ ¬ (m.kind = .ratom ∧ s.replay.any (fun r => r.src == m.src && r.seq == m.seq) = true) ∧
    ∃ l ∈ m.lanes, ∃ k, s.window f (decide (m.kind ≠ .rld)) l.off m.len = .error k
  let old := s.rxCounts.find? fun r => r.src == m.src && r.team == m.team && r.tag == m.tag
  (∀ f ∈ s.keyFuncs m.key, 2 ≤ (s.keyFuncs m.key).length →
    ∃ s' f', exec (.remoteRequestReceipt m) s = .next s' ∧ s'.func? f.vf = some f' ∧ f'.ifst = .error) ∧
  (s.keyFuncs m.key = [] → ∃ s', answers s' (reply [] [] (m.lanes.map fun x => (x.lane, 2))) ∧ s'.mem = s.mem) ∧
  (∀ f, s.keyFuncs m.key = [f] →
    (m.kind ≠ .pull → fails f → ∃ s', exec (.remoteRequestReceipt m) s = .next s' ∧ s'.rxCounts = s.rxCounts) ∧
    (m.kind ≠ .pull → ¬ fails f → ∃ s' r', exec (.remoteRequestReceipt m) s = .next s' ∧
      s'.rxCounts.find? (fun r => r.src == m.src && r.team == m.team && r.tag == m.tag) = some r' ∧ m.req ∈ r'.reqs ∧
      r'.count = match old with
        | none => 1
        | some r => if m.req ∈ r.reqs then r.count else r.count + 1) ∧
    (m.kind = .flush → ∃ s', answers s' (reply [] [] []) ∧ s'.mem = s.mem) ∧
    (∀ l, m.lanes = [l] →
      let store := decide (m.kind ≠ .rld)
      (∀ k, m.kind ∈ [.rld, .rst, .flag] → s.window f store l.off m.len = .error k →
        ∃ s', answers s' (reply [] [] [(l.lane, k)]) ∧ s'.mem = s.mem) ∧
      (∀ pa, s.window f store l.off m.len = .ok [(pa, 0, m.len)] → 0 < m.len →
        (m.kind ∈ [.rst, .flag] → l.data.length = m.len → ∃ s', answers s' (reply [] [] []) ∧ s'.mem = writeBytes s.mem pa l.data) ∧
        (m.kind = .rld → ∃ s', answers s' (if s.poisoned pa m.len then reply [] [] [(l.lane, 0)]
          else reply [] [⟨l.lane, l.off, readBytes s.mem pa m.len⟩] []) ∧ s'.mem = s.mem) ∧
        (m.kind = .ratom → s.poisoned pa m.len = false → s.replay.find? (fun r => r.src == m.src && r.seq == m.seq) = none →
          let cur := readNat s.mem pa m.len
          let y := atomicOp m.op (m.len == 8) cur (leNat l.data)
          ∃ s', answers s' (reply y.2 [⟨l.lane, l.off, leBytes m.len cur⟩] []) ∧ s'.mem = writeBytes s.mem pa (leBytes m.len y.1) ∧
            s'.replay.find? (fun r => r.src == m.src && r.seq == m.seq) = some ⟨m.src, m.seq, [⟨l.lane, l.off, leBytes m.len cur⟩], y.2⟩))) ∧
    (∀ r, m.kind = .ratom → s.replay.find? (fun r => r.src == m.src && r.seq == m.seq) = some r →
      ∃ s', answers s' (reply r.ev r.data []) ∧ s'.mem = s.mem))

/-- REMOTE_REPLY (R138, R188, R250, R252, R254 to R257, R298, R299): the values of a load or an atomic land in their lanes, the last reply finishes
the operation, and the last one of the group's remote atomics takes their boundary, after the team's previous publish (R145); a store, flag write or
flush is over, each in its turn; lanes that failed leave a pending trap, in issue order, with the lowest one's cause and offset; a poisoned source
is a machine check, and nothing lands; a reply that nothing waits for, or to an earlier sending of the load, is dropped. Where the spec leaves a
choice: log 53. -/
def Sys2Proof.Statements.FabricAnswers : Prop := ∀ (r : Reply) (s : State),
  ((∀ q ∈ s.rreqs, q.id = r.req → q.held = false → q.msg.dst = r.src → q.msg.kind = r.kind → q.msg.seq ≠ r.seq) → exec (.remoteReply r) s = .next s) ∧
  (∀ q : RemReq, s.answered r = some q → r.dst = s.devId → r.src ≠ s.devId →
    let ends := fun (s' : State) => exec (.remoteReply r) s = .next s' ∧ q ∉ s'.rreqs
    (s.early q = true → exec (.remoteReply r) s = .next s) ∧
    (∀ (t : Team) (g : Group) (o : Op) (l : LoadOp) (at_ : Option Scope), s.opOf q.team q.group q.op = some (t, g, o) → t.gen = q.gen →
      o.kind = .remote l [q.id] at_ → q.msg.kind = (if at_.isSome then .ratom else .rld) → g.ops = [o] →
      (at_.isSome = true → o.fin = false → t.pub.isSome = true → exec (.remoteReply r) s = .next s) ∧
      (r.fails = [] → (at_.isSome = true → t.pub = none) → (∀ x ∈ r.data, x.lane < 32 ∧ q.msg.lanes.any (fun y => y.lane == x.lane) = true) →
        (r.data.map (·.lane)).Nodup → l.dst.Nodup → (∀ b ∈ l.dst, 32 ≤ b) → 4 ≤ l.nb →
          ∃ (s' : State) (t' : Team) (g' : Group), ends s' ∧ s'.mem = s.mem ∧
            s'.team? q.team = some t' ∧ t'.live.groups[q.group]? = some g' ∧ (∀ x ∈ g'.ops, x.id = q.op → x.fin = true) ∧
            (∀ b, b ∈ g'.sb ↔ b ∈ g.sb ∧ b ∉ l.dst) ∧ g'.p = g.p ∧
            (at_ = none → s'.rreqs = s.rreqs.filter (fun x => x.id ≠ q.id) ∧ t'.phasen = t.phasen ∧ g'.pend = g.pend) ∧
            (at_.isSome = true → o.fin = false → t'.phasen = t.phasen + 1 ∧ t'.pb = [] ∧ t'.snap = []) ∧
            (∀ x ∈ r.data, ∀ k b, l.dst[k]? = some b → g'.getId b x.lane = BitVec.ofNat 32 (leNat ((x.data.drop (4 * k)).take 4))) ∧
            ∀ b m, 1 ≤ b → m < 32 → (b ∉ l.dst ∨ m ∉ r.data.map (·.lane)) → g'.getId b m = g.getId b m)) ∧
    (q.msg.kind ∈ [.rst, .flag, .flush] → s.early q = false → r.fails = [] → r.ev = [] →
      (∀ t g o l reqs at_, s.opOf q.team q.group q.op = some (t, g, o) → o.kind = .remote l reqs at_ → l.dst = [] ∧ at_ = none) →
        ∃ s', ends s' ∧ s'.mem = s.mem ∧ s'.rreqs = s.rreqs.filter (fun x => x.id ≠ q.id) ∧
          ∀ (t : Team) (g : Group), s.team? q.team = some t → t.live.groups[q.group]? = some g →
            ∃ (t' : Team) (g' : Group), s'.team? q.team = some t' ∧ t'.live.groups[q.group]? = some g' ∧ sameFiles t t' ∧ g'.pend = g.pend ∧
              ∀ o l, g.ops.find? (fun o => o.id == q.op) = some o → o.kind = .remote l [q.id] none → ∀ x ∈ g'.ops, x.id = q.op → x.fin = true) ∧
    (∀ (t : Team) (g : Group), s.team? q.team = some t → t.live.groups[q.group]? = some g → t.gen = q.gen → s.early q = false → q.msg.kind ≠ .pull →
      s.lastAtom q = none ∨ t.pub = none →
      (∀ x rest, r.fails = x :: rest → (∀ y ∈ r.fails, y.2 ≠ 0) →
        ∃ (s' : State) (t' : Team) (g' : Group), ends s' ∧ s'.mem = s.mem ∧ s'.rreqs = s.rreqs.filter (fun y => y.id ≠ q.id) ∧
          s'.team? q.team = some t' ∧ t'.live.groups[q.group]? = some g' ∧
          g'.pend.Perm (.remote q.op q.phase x.2 q.msg.dst (((q.msg.lanes.find? fun m => m.lane == x.1).map (·.off)).getD 0) q.slices
            (maskOf (r.fails.map (·.1))) :: g.pend) ∧
          (g.pend.Pairwise (fun x y => x.ord ≤ y.ord) → g'.pend.Pairwise fun x y => x.ord ≤ y.ord)) ∧
      ((∃ y ∈ r.fails, y.2 = 0) → ∃ s', exec (.remoteReply r) s = .next s' ∧
        (q.phase < t.phasen → s.durable t.launch = false → faults s s' t 14) ∧
        (q.phase < t.phasen → s.durable t.launch = true → ∃ t', s'.team? q.team = some t' ∧ t'.rb = true ∧ t'.lost = true) ∧
        (t.phasen ≤ q.phase → s'.mem = s.mem ∧ ∃ (t' : Team) (g' : Group), s'.team? q.team = some t' ∧ t'.rb = true ∧
          t'.live.groups[q.group]? = some g' ∧ g'.v = g.v))))

/-- REMOTE_RESEND_TIMEOUT (R250, R254): the request and the ones sent after it to its peer go out again in order, eight times; then it fails with
cause 6, or its engine's command stops with UNREACHABLE. A load or pull that is sent again takes a new number, by which a reply to an earlier
sending is told (log 54). -/
def Sys2Proof.Statements.FabricResends : Prop := ∀ (req : Nat) (q : RemReq) (s : State), s.rreqs.find? (fun q => q.id == req && !q.held) = some q →
  let later := fun (x : RemReq) => !x.held && x.msg.dst == q.msg.dst && !(s.rreqs.takeWhile fun y => y.id != req).any fun y => y.id == x.id
  let anew := fun (x : RemReq) => if x.msg.kind = .rld ∨ x.msg.kind = .pull then { x with msg := { x.msg with seq := x.msg.seq + 1 } } else x
  (q.resends < 8 → ∃ s', exec (.remoteResendTimeout req) s = .next s' ∧ s' = { s with rreqs := s'.rreqs, netOut := s'.netOut } ∧
    s'.rreqs = s.rreqs.map (fun x =>
      let y := if x.id = req then { x with resends := x.resends + 1 } else x
      if later x then anew y else y) ∧
    s'.netOut = s.netOut ++ (s.rreqs.filter later).filterMap fun x =>
      if x.msg.dst = s.devId then none else (s.route x.msg.dst).map fun r => (r.2, 0, { (anew x).msg with alt := r.1, hop := 0 })) ∧
  (8 ≤ q.resends → q.msg.kind = .pull → ∃ s', exec (.remoteResendTimeout req) s = .next s' ∧
    s' = { s with rreqs := s'.rreqs, rses := s'.rses, colls := s'.colls } ∧ s'.rreqs = s.rreqs.filter (fun x => x.id ≠ req) ∧
    (s'.colls = s.colls.map fun c => if c.id = q.op ∧ c.code = 0 then { c with code := 0x13 } else c) ∧
    ∀ c, s.rses.find? (fun c => c.id == q.op) = some c → ∃ d, s'.rses.find? (fun c => c.id == q.op) = some d ∧
      d.stop = some (c.stop.getD (0x13, q.msg.dst)) ∧ (q.group, q.slices) ∉ d.flight) ∧
  (∀ l rest (t : Team) (g : Group), 8 ≤ q.resends → q.msg.kind ≠ .pull → q.msg.lanes = l :: rest → s.team? q.team = some t → t.gen = q.gen →
    t.live.groups[q.group]? = some g →
      ∃ (s' : State) (t' : Team) (g' : Group), exec (.remoteResendTimeout req) s = .next s' ∧ s'.mem = s.mem ∧ s'.rreqs = s.rreqs.filter (fun x => x.id ≠ req) ∧
        s'.team? q.team = some t' ∧ t'.live.groups[q.group]? = some g' ∧
        g'.pend.Perm (.remote q.op q.phase 6 q.msg.dst l.off q.slices (maskOf (q.msg.lanes.map (·.lane))) :: g.pend))

/-- FABRIC_FORWARD (R249): a request or reply in transit keeps its alternate where that is valid, else takes the lowest with few enough hops left;
one at home, or past its hops, goes nowhere. -/
def Sys2Proof.Statements.FabricForwards : Prop := ∀ (p : Packet) (s : State),
  let at_ := match p with
    | .req m => (m.dst, m.alt, m.hop)
    | .rep r => (r.dst, r.alt, r.hop)
  let dst := at_.1
  let alt := at_.2.1
  let hop := at_.2.2
  let v := alternates (look s.routes dst).toNat
  let goes := fun (x : Nat × Nat × Nat) => exec (.fabricForward p) s = .next (match p with
    | .req m => { s with netOut := s.netOut ++ [(x.2.2, hop + 1, { m with alt := x.1, hop := hop + 1 })] }
    | .rep r => { s with netReplies := s.netReplies ++ [(x.2.2, hop + 1, { r with alt := x.1, hop := hop + 1 })] })
  (dst = s.devId ∨ 3 ≤ hop → exec (.fabricForward p) s = .next s) ∧
  (dst ≠ s.devId → hop < 3 →
    (∀ x ∈ v, x.1 = alt → goes x) ∧
    ((∀ x ∈ v, x.1 ≠ alt) → (∀ x ∈ v, x.2.1 + hop + 1 ≤ 4 → (∀ y ∈ v, y.1 < x.1 → 4 < y.2.1 + hop + 1) → goes x) ∧
      ((∀ x ∈ v, 4 < x.2.1 + hop + 1) → exec (.fabricForward p) s = .next s)))

/-- RFENCEF_FLAG_WRITE (R128, R145, R251, R256): the flag waits while a publish of its phase or an earlier one is under way; then it leaves for its
peer under the phase tag of that moment, and counts as sent; one of a function without a key is not sent. -/
def Sys2Proof.Statements.FlagWrites : Prop := ∀ (req : Nat) (r : RemReq) (s : State), s.rreqs.find? (fun r => r.id == req && r.held) = some r →
  ((∃ t p, s.team? r.team = some t ∧ t.pub = some p ∧ p.phase ≤ r.phase) → exec (.rfencefFlagWrite req) s = .next s) ∧
  (∀ t alt link, s.team? r.team = some t → (∀ p, t.pub = some p → r.phase < p.phase) → r.msg.dst ≠ s.devId → s.route r.msg.dst = some (alt, link) →
    let tag := t.phasen % 2 == 1
    (r.msg.key ≠ 0 → ∃ s', exec (.rfencefFlagWrite req) s = .next s' ∧ s'.mem = s.mem ∧
      s'.rreqs = s.rreqs.filter (fun x => x.id ≠ req) ++ [{ r with held := false, msg := { r.msg with tag := tag } }] ∧
      s'.team? r.team = some { t with sent := quietAdd t.sent r.msg.dst tag fun q => { q with sent := q.sent + 1 } } ∧
      s'.netOut = s.netOut ++ [(link, 0, { r.msg with tag := tag, alt := alt, hop := 0 })]) ∧
    (r.msg.key = 0 → ∃ s', exec (.rfencefFlagWrite req) s = .next s' ∧ s'.mem = s.mem ∧ s'.netOut = s.netOut ∧
      s'.rreqs = s.rreqs.filter fun x => x.id ≠ req))

/-- One more entry in a die's log, which keeps the last 1,024; the count, of 8 bytes, counts all (R301). -/
def Sys2Proof.Statements.logs (s s' : State) (die src kind unit detail : Nat) : Prop := s'.dies = s.dies.map fun d =>
  if d.id = die then
    { d with
      log := (d.log ++ [(⟨d.clock, src, kind, unit % 256, detail % 2 ^ 32⟩ : LogEntry)]).drop (d.log.length + 1 - 1024)
      count := (d.count + 1) % 2 ^ 64 }
  else d

/-- LINK_FAILURE and LINK_RETRAIN (R250, R301, R304): no alternate names the link any longer, every other one stays, and the die logs it, with some
link lane in DETAIL (log 110); where no request was on its way over it, nothing else changes. A retrain never changes memory. Where the spec
leaves a choice: log 55. -/
def Sys2Proof.Statements.Links : Prop := ∀ (link : Nat) (retrain : Bool) (s : State), storeWf s.routes = true →
  let i : Instr := if retrain then .linkRetrain link else .linkFailure link
  ∃ s' lane, exec i s = .next s' ∧ lane < 8 ∧ logs s s' (link % 32 / 8) 7 (if retrain then 1 else 3) (link % 32) lane ∧ (retrain = true → s'.mem = s.mem) ∧
    (∀ d, alternates (look s'.routes d).toNat = (alternates (look s.routes d).toNat).filter fun x => x.2.2 ≠ link % 32) ∧
    ((∀ q ∈ s.rreqs, q.held = false → q.msg.dst ≠ s.devId → ∀ x, s.route q.msg.dst = some x → x.2 ≠ link % 32) →
      s' = { s with routes := s'.routes, dies := s'.dies, freeCtr := s'.freeCtr })

/-- The fabric. -/
def Obligations.Fabric : Prop := Statements.FabricServes ∧ Statements.FabricAnswers ∧ Statements.FabricResends ∧ Statements.FabricForwards ∧
  Statements.FlagWrites ∧ Statements.Links

/-! ### Errors and service -/

namespace Sys2Proof.Statements

/-- The same for an entry about a line of memory. -/
def logsLine (s s' : State) (src kind line : Nat) : Prop :=
  logs s s' (s.chanOf line / 16 % 4) src kind (s.chanOf line % 16) (line / 1024)

/-- A team of a durable launch has gone back to its latest durable checkpoint, and waits for a core (R6). -/
def restarted (s' : State) (t : Team) : Prop := ∃ t', s'.team? t.id = some t' ∧ t'.saved = true ∧ t'.phasen = t.durPhase ∧ t'.pb = [] ∧
  t'.drain = [] ∧ t'.gen = t.gen + 1

/-- Every group with a fragment has taken MCHK: TRAPPC is where its oldest fragment stands, and no handler of it runs on (R164, R166, R171). -/
def checked (t t' : Team) : Prop := ∀ (k : Nat) (g : Group), t.live.groups[k]? = some g → ∃ g' : Group, t'.live.groups[k]? = some g' ∧ g'.v = g.v ∧
  g'.s = g.s ∧ g'.p = g.p ∧ g'.frags = g.frags ∧ (g.frags ≠ [] → g'.handler = none ∧ g'.trap.code = 14 ∧
    ∃ f ∈ g.frags, g'.trap.pc = f.pc ∧ ∀ x ∈ g.frags, f.age ≤ x.age)

/-- A launch has failed, and none of its running teams is left. -/
def failed (s' : State) (id code : Nat) : Prop :=
  (∃ l, s'.launch? id = some l ∧ l.status = .failed code) ∧ ∀ t ∈ s'.teams, t.launch = id → t.running = false

end Sys2Proof.Statements

/-- SRAM_ECC_ERROR (R6, R164, R166, R171, R298): a corrected word is logged; one that the checkpoint does without is a machine check, and asks for a
rollback; another faults the launch with MCHK, or restarts a durable team. -/
def Sys2Proof.Statements.SramErrors : Prop := ∀ (loc : SramLoc) (t : Team) (s : State), s.team? (sramTeam loc) = some t → t.saved = false →
  (∃ s', exec (.sramEccError loc true) s = .next s' ∧ s' = { s with dies := s'.dies } ∧ logs s s' (t.core / 36) 1 0 t.core 0) ∧
  (t.intact loc = true → ∃ s' t', exec (.sramEccError loc false) s = .next s' ∧ logs s s' (t.core / 36) 1 3 t.core 0 ∧
    s' = { s with dies := s'.dies, teams := s'.teams } ∧ s'.team? t.id = some t' ∧ t'.rb = true ∧ t'.live.scr = t.live.scr ∧ checked t t') ∧
  (t.intact loc = false → s.durable t.launch = false → ∃ s', exec (.sramEccError loc false) s = .next s' ∧ logs s s' (t.core / 36) 1 3 t.core 0 ∧
    faults s s' t 14) ∧
  (t.intact loc = false → s.durable t.launch = true → (∀ l, s.launch? t.launch = some l → l.status.ended = false) →
    ∃ s', exec (.sramEccError loc false) s = .next s' ∧ logs s s' (t.core / 36) 1 3 t.core 0 ∧ restarted s' t ∧
      ∀ k, s.core? t.core = some k → ∃ t', s'.team? t.id = some t' ∧ t'.avoid = some k.phys)

/-- CACHE_ECC_ERROR, DRAM_ECC_ERROR and CXL_POISON (R5, R299, R301): a corrected error is logged; a clean line is dropped and read again, a dirty
one, a DRAM line and a CXL line are poisoned. The loss of a dirty line is the failure of a cache slice: the durable launches with memory there
restart (DEDUCED, log 119). -/
def Sys2Proof.Statements.LineErrors : Prop := ∀ (line : Nat) (s : State),
  let dirty := s.cache.any fun c => c.1 == line && c.2
  (∃ s', exec (.cacheEccError line true) s = .next s' ∧ s' = { s with dies := s'.dies } ∧ logsLine s s' 4 0 line) ∧
  (∃ s', exec (.dramEccError line true) s = .next s' ∧ s' = { s with dies := s'.dies } ∧ logsLine s s' 5 0 line) ∧
  (dirty = false ∨ (∀ l ∈ s.launches, s.onChannel (· == line) l = false) →
    ∃ s', exec (.cacheEccError line false) s = .next s' ∧ s' = { s with dies := s'.dies, cache := s'.cache, poison := s'.poison } ∧ logsLine s s' 4 3 line ∧
    s'.cache = s.cache.filter (fun c => c.1 ≠ line) ∧ (∀ l, l ≠ line → s'.isPoisoned l = s.isPoisoned l) ∧
    s'.isPoisoned line = (dirty || s.isPoisoned line)) ∧
  (∀ t l, (s.teams.map (·.id)).Nodup → dirty = true → s.team? t.id = some t → t.saved = false → s.launch? t.launch = some l → l.durable = true → l.status.ended = false →
    l.hit = false → s.onChannel (· == line) l = true → ∃ s', exec (.cacheEccError line false) s = .next s' ∧ restarted s' t) ∧
  (∃ s', exec (.dramEccError line false) s = .next s' ∧ s' = { s with dies := s'.dies, poison := s'.poison } ∧
    logsLine s s' 5 3 line ∧ s'.isPoisoned line = true ∧ ∀ l, l ≠ line → s'.isPoisoned l = s.isPoisoned l) ∧
  (let port := (Config.cxlPort line).val
   ∃ s', exec (.cxlPoison line) s = .next s' ∧ s' = { s with dies := s'.dies, poison := s'.poison } ∧
    logs s s' (port / 2) 9 3 port (line / 1024) ∧ s'.isPoisoned line = true ∧ ∀ l, l ≠ line → s'.isPoisoned l = s.isPoisoned l)

/-- VERTICAL_BUS_PARITY_FAIL and CHANNEL_LOSS (R5, R300, R302): each failed retry is logged; after three a spare lane takes over, and with none left,
or one that fails too, the channel is retired: its lines read as poisoned, until they are written again, and no other line does. That is all
where no team is saved, and no launch has memory, its record or a durable checkpoint on the channel; a team of a durable launch with memory there
alone goes back to its latest durable checkpoint.
Where the spec leaves a choice: log 78, 81, 82. -/
def Sys2Proof.Statements.ChannelErrors : Prop := ∀ (die chan : Nat) (s : State), die < 4 → chan < 16 → (s.chan die chan).retired = false →
  (∀ c ∈ s.chans, c.die = die → c.chan = chan → c.ranges = []) →
  let on := fun (l : Nat) => (s.regionOf (64 * l)).isNone && s.chanOf l == 16 * die + chan
  let copied := fun (l : Launch) => l.copyChans.contains (16 * die + chan) = true ∨
    ∃ t ∈ s.teams, t.launch = l.id ∧ t.durChans.contains (16 * die + chan) = true
  let quiet := (∀ t ∈ s.teams, t.saved = false ∧ t.durChans.contains (16 * die + chan) = false) ∧
    ∀ l ∈ s.launches, s.onChannel on l = false ∧ l.copyChans.contains (16 * die + chan) = false
  let lost := fun (s' : State) => (s'.chan die chan).retired = true ∧ s'.mem = s.mem ∧ s'.teams = s.teams ∧
    (∀ l, on l = true → s'.isPoisoned l = true ∧ ∀ c ∈ s'.cache, c.1 ≠ l) ∧ ∀ l, on l = false → s'.isPoisoned l = s.isPoisoned l
  (∀ lane n spare, n < 3 → ∃ s', exec (.verticalBusParityFail die chan lane n spare) s = .next s' ∧ s' = { s with dies := s'.dies } ∧
    s'.dies.map (fun d => (d.id, d.count)) = s.dies.map fun d => (d.id, if d.id = die ∧ 0 < n then (d.count + n) % 2 ^ 64 else d.count)) ∧
  (∀ lane n, 3 ≤ n → 0 < (s.chan die chan).spare → ∃ s', exec (.verticalBusParityFail die chan lane n false) s = .next s' ∧
    s' = { s with dies := s'.dies, chans := s'.chans } ∧ s'.chan die chan = { s.chan die chan with spare := (s.chan die chan).spare - 1 }) ∧
  (∀ lane n spare, quiet → 3 ≤ n → (s.chan die chan).spare = 0 ∨ spare = true →
    ∃ s', exec (.verticalBusParityFail die chan lane n spare) s = .next s' ∧ lost s') ∧
  (quiet → ∃ s', exec (.channelLoss die chan) s = .next s' ∧ lost s' ∧ logs s s' die 5 4 chan 0) ∧
  (∀ t l, (s.teams.map (·.id)).Nodup → s.team? t.id = some t → t.saved = false → s.launch? t.launch = some l → l.durable = true →
    l.status.ended = false → l.hit = false → s.onChannel on l = true → (∀ k ∈ s.launches, k.id = l.id → ¬ copied k) → ∃ s', exec (.channelLoss die chan) s = .next s' ∧ restarted s' t)

/-- NOC_CRC_FAIL (R267): a payload kills the contexts of the packet's function, whose launches report FAULTED with MCHK; a header those of every
function of the partitions that own the core, with DEVICE-FAILED; a packet whose CRCs hold changes nothing. Where the spec leaves a choice:
log 85. -/
def Sys2Proof.Statements.NocErrors : Prop := ∀ (vf core : Nat) (s : State), (s.launches.map (·.id)).Nodup →
  (exec (.nocCrcFail false false vf core) s = .next s) ∧
  (∃ s', exec (.nocCrcFail false true vf core) s = .next s' ∧ logs s s' (core / 36) 2 3 core 0 ∧
    ∀ l f, s.launch? l.id = some l → l.status.ended = false → s.func? l.vf = some f → l ∈ s.launches →
      (f.vf = vf → failed s' l.id 1 ∧ ∃ k, s'.launch? l.id = some k ∧ k.fcode = 14) ∧
      (f.vf ≠ vf → ∃ k, s'.launch? l.id = some k ∧ k.uncounted = l.uncounted)) ∧
  (∀ pay, ∃ s', exec (.nocCrcFail true pay vf core) s = .next s' ∧ logs s s' (core / 36) 3 3 core 0 ∧
    ∀ l f, s.launch? l.id = some l → l.status.ended = false → s.func? l.vf = some f → l ∈ s.launches →
      (f.part ∈ s.ownersOf core → failed s' l.id 6) ∧ (f.part ∉ s.ownersOf core → ∃ k, s'.launch? l.id = some k ∧ k.uncounted = l.uncounted))

/-- CORE_LOSS (R5, R178, R302, R303): what stands on the core is lost, and its launches report CORE-LOST unless they are durable, or DEVICE-FAILED where
they have lost a unit before; the teams of durable ones restart; a spare core of the die takes the number, and without one the partition that
holds the die's cores alone is short of a core; where no partition held the lost core none gives one up. Where the spec leaves a choice: log 68,
86. -/
def Sys2Proof.Statements.CoreErrors : Prop := ∀ (core : Nat) (k : Core) (s : State), s.core? core = some k →
  (k.alive = false → exec (.coreLoss core) s = .next s) ∧
  (k.alive = true → ∃ s', exec (.coreLoss core) s = .next s' ∧
    (∀ t ∈ s.teams, t.core = core → t.saved = false → s.durable t.launch = false → s'.team? t.id = none ∧
      ∀ l, s.launch? t.launch = some l → l.status.ended = false → failed s' l.id (if l.hit then 6 else 2)) ∧
    (∀ t l, (s.teams.map (·.id)).Nodup → s.team? t.id = some t → t.core = core → t.saved = false → s.launch? t.launch = some l →
      l.durable = true → l.status.ended = false → if l.hit then failed s' l.id 6 else restarted s' t) ∧
    (∀ d p rest, s.dies.find? (fun d => d.id == core / 36) = some d → d.spares = p :: rest →
      s'.core? core = some { k with phys := p, alive := true, elb := 262144, late := [] } ∧
      ∃ d', s'.dies.find? (fun d => d.id == core / 36) = some d' ∧ d'.spares = rest ∧ d'.count = (d.count + 1) % 2 ^ 64) ∧
    (∀ d p, s.dies.find? (fun d => d.id == core / 36) = some d → d.spares = [] → s.part? p.id = some p → p.rank < 64 → p.cores.getLsbD core = true →
      core < 144 → s.parts = [p] →
        s'.deficits = s.deficits ++ [⟨p.id, true, 1⟩] ∧ ∃ p', s'.parts = [p'] ∧ p'.cores = p.cores &&& ~~~(1#192 <<< core)) ∧
    (∀ d, s.dies.find? (fun d => d.id == core / 36) = some d → d.spares = [] → (∀ p ∈ s.parts, p.cores.getLsbD core = false) →
      s'.deficits = s.deficits ∧ s'.parts.map (fun p => (p.id, p.cores)) = s.parts.map fun p => (p.id, p.cores)))

/-- DIE_FAILURE (R2, R5, R295, R303): the launches with a team, the saved state of one, or memory on the die report DEVICE-FAILED, and so do those
whose record, or durable checkpoint, has no other copy left; its cores work no more and leave every partition; a die fails once. Where the spec
leaves a choice: log 84, 107. -/
def Sys2Proof.Statements.DieErrors : Prop := ∀ (die : Nat) (d : Die) (s : State), s.dies.find? (fun d => d.id == die) = some d → die < 4 →
  let gone := fun (x : Nat) => x = die ∨ ∀ y ∈ s.dies, y.id = x → y.failed = true
  let on := fun (i : Nat) => (s.regionOf (64 * i)).isNone && s.chanOf i / 16 == die
  (s.dies.all (fun x => x.id != die || x.failed) = true → exec (.dieFailure die) s = .next s) ∧
  (d.failed = false → ∃ s', exec (.dieFailure die) s = .next s' ∧
    (∀ t ∈ s.teams, (t.saved = false ∧ t.core / 36 = die) ∨ t.savedOn on = true → s'.team? t.id = none ∧
      ∀ l, s.launch? t.launch = some l → l.status.ended = false → failed s' l.id 6) ∧
    (∀ l, s.launch? l.id = some l → l ∈ s.launches → l.status.ended = false →
      (∀ x ∈ l.copies, gone x) ∨ (l.durable = true ∧ ∃ t ∈ s.teams, t.launch = l.id ∧ ∀ x ∈ t.durDies, gone x) ∨ s.onChannel on l = true →
        failed s' l.id 6) ∧
    (∀ p ∈ s'.parts, ∀ c, c < 36 → p.cores.getLsbD (36 * die + c) = false) ∧
    (∀ k ∈ s'.cores, k.id / 36 = die → k.alive = false) ∧ ∀ x ∈ s'.dies, x.id = die → x.failed = true ∧ x.spares = [])

/-- The errors of chapter 18. -/
def Obligations.Errors : Prop := Statements.SramErrors ∧ Statements.LineErrors ∧ Statements.ChannelErrors ∧ Statements.NocErrors ∧
  Statements.CoreErrors ∧ Statements.DieErrors

/-- PLANNED_CORE_RETIREMENT and PLANNED_CHANNEL_RETIREMENT (R177, R302): the teams of the core are asked to leave; once none stands on it,
another core takes its number. A channel's contents move to the ranges named, so that no byte and no poison changes; they must hold the
channel's 4 GiB, each byte of them counted once. Where the spec leaves a choice: log 88. -/
def Sys2Proof.Statements.Retirements : Prop :=
  (∀ (core : Nat) (k : Core) (s : State), s.core? core = some k → k.alive = true →
    (∀ t ∈ s.teams, t.core = core → t.saved = false → t.ending = .no →
      ∃ s', exec (.plannedCoreRetirement core) s = .next s' ∧ s'.mem = s.mem ∧ { t with rb := true, leave := true } ∈ s'.teams ∧
        ∃ k', s'.core? core = some k' ∧ k'.alive = false) ∧
    ((∀ t ∈ s.teams, t.core = core → t.saved = true) → ∀ d p rest, s.dies.find? (fun d => d.id == core / 36) = some d → d.spares = p :: rest →
      ∃ s', exec (.plannedCoreRetirement core) s = .next s' ∧ s'.mem = s.mem ∧ s'.teams = s.teams ∧
        s'.core? core = some { k with phys := p, alive := true })) ∧
  (∀ (die chan : Nat) (ranges : List (Nat × Nat)) (s : State), die < 4 → chan < 16 → (s.chan die chan).retired = false →
    ((ranges.map (·.2)).sum < 2 ^ 32 → exec (.plannedChannelRetirement die chan ranges) s = .next s) ∧
    (∀ a n m, ranges = [(a, n), (a, m)] → max n m < 2 ^ 32 → exec (.plannedChannelRetirement die chan ranges) s = .next s) ∧
    (ranges.Pairwise (fun x y => y.1 + y.2 ≤ x.1 ∨ x.1 + x.2 ≤ y.1) → 2 ^ 32 ≤ (ranges.map (·.2)).sum →
      ∃ s', exec (.plannedChannelRetirement die chan ranges) s = .next s' ∧ (s'.chan die chan).retired = true ∧ (s'.chan die chan).ranges = ranges ∧
        s'.mem = s.mem ∧ s'.teams = s.teams ∧ logs s s' die 5 4 chan 0 ∧ s'.poison = s.poison ∧
        ((∀ c ∈ s.chans, c.lost = false) → ∀ l, s'.isPoisoned l = s.isPoisoned l)))

/-- IMAGE_WRITE and IMAGE_ACTIVATION (R305): the standby slot holds an image whose signature verifies and whose version is not below the anti-rollback
counter; activation exchanges the images at the engine's idle point, and waits while a locked or running function's report lists the old one,
unless it is forced, which puts those functions into ERROR. Where the spec leaves a choice: log 89. -/
def Sys2Proof.Statements.Images : Prop := ∀ (e : Nat) (s : State), e < 438 →
  (∀ v ok, ∃ s', exec (.imageWrite e v ok) s = .next s' ∧ s' = { s with images := s'.images } ∧
    s'.image e = { s.image e with standby := if ok = true ∧ (s.image e).floor ≤ v then some v else none } ∧ ∀ j, j ≠ e → s'.image j = s.image j) ∧
  (∀ forced, (s.image e).standby = none → exec (.imageActivation e forced) s = .next s) ∧
  (∀ v, (s.image e).standby = some v → (∃ f ∈ s.funcs, f.ifst = .locked ∨ f.ifst = .run) → exec (.imageActivation e false) s = .next s) ∧
  (∀ v forced, (s.image e).standby = some v → (forced = true ∨ ∀ f ∈ s.funcs, f.ifst ≠ .locked ∧ f.ifst ≠ .run) →
    ∃ s', exec (.imageActivation e forced) s = .next s' ∧ (∀ j, j ≠ e → s'.image j = s.image j) ∧
      (s'.idle e = true → s'.image e = { s.image e with active := v, standby := some (s.image e).active }) ∧
      (s'.idle e = false → s'.images = s.images) ∧
      ∀ f ∈ s'.funcs, f.ifst ≠ .locked ∧ f.ifst ≠ .run)

/-- THERMAL_LIMIT and VERTICAL_LANE_RECALIBRATION (R304, R306): a die's heat is known to the issue slots; traffic over a spare lane changes nothing. -/
def Sys2Proof.Statements.Upkeep : Prop :=
  (∀ (die : Nat) (above : Bool) (s : State), ∃ s', exec (.thermalLimit die above) s = .next s' ∧ s' = { s with dies := s'.dies } ∧
    s'.dies = s.dies.map fun d => if d.id = die then { d with hot := above } else d) ∧
  ∀ (die chan lane : Nat) (s : State), exec (.verticalLaneRecalibration die chan lane) s = .next s

/-- POWER_ON (R3, R157, R170, R214, R248, R251, R255, R286, R291, R294): the values of reset; what is kept outside the reset domain (the model's
choice, log 74) stays: the device's id, the images, the seal sequences of the key slots, and which cores and channels work. -/
def Sys2Proof.Statements.PowersOn : Prop := ∀ s : State, ∃ s', exec .powerOn s = .next s' ∧ s'.launches = [] ∧ s'.teams = [] ∧ s'.funcs = [] ∧
  s'.parts = [] ∧ s'.replay = [] ∧ s'.rreqs = [] ∧ s'.routes = [] ∧ s'.mem = State.reset.mem ∧ s'.devId = s.devId ∧ s'.images = s.images ∧
  s'.chans = s.chans ∧ (∀ k ∈ s'.keySlots, k.v = false ∧ k.type = 0) ∧ s'.keySlots.map (fun k => (k.slot, k.seq)) = s.keySlots.map (fun k => (k.slot, k.seq)) ∧
  (∀ k ∈ s'.cores, k.clk = 0 ∧ k.elb = 262144) ∧ s'.cores.map (fun k => (k.id, k.phys, k.alive)) = s.cores.map (fun k => (k.id, k.phys, k.alive)) ∧
  ∀ d ∈ s'.dies, d.log = [] ∧ d.count = 0

/-- Retirement, updates and power. -/
def Obligations.Service : Prop := Statements.Retirements ∧ Statements.Images ∧ Statements.Upkeep ∧ Statements.PowersOn
end

