-- ==== Sys2Proof/Laws/Store.lean ====
section
/-!
SUPPORT. Sparse tables: reading after writing (of any table), the canonical form, and the byte-order helpers.
-/
namespace Sys2Proof.Machine

/-! ### Reading after writing -/

theorem look_without_same {w : Nat} (k : Nat) (m : Store w) : look (without k m) k = 0 := by
  induction m with
  | nil => rfl
  | cons c r ih =>
    obtain ⟨a, x⟩ := c
    unfold without
    split
    · exact ih
    · next h => simp [look, h, ih]

theorem look_without_other {w : Nat} (k j : Nat) (m : Store w) (h : j ≠ k) : look (without k m) j = look m j := by
  induction m with
  | nil => rfl
  | cons c r ih =>
    obtain ⟨a, x⟩ := c
    unfold without
    split
    · next e => subst e; simp [look, Ne.symm h, ih]
    · simp [look, ih]

theorem look_ins_other {w : Nat} (k j : Nat) (v : BitVec w) (m : Store w) (h : j ≠ k) : look (ins k v m) j = look m j := by
  induction m with
  | nil => simp [ins, look, Ne.symm h]
  | cons c r ih =>
    obtain ⟨a, x⟩ := c
    unfold ins
    split
    · simp [look, Ne.symm h]
    · simp [look, ih]

theorem look_ins_same {w : Nat} (k : Nat) (v : BitVec w) (m : Store w) (h : look m k = 0 ∧ ∀ c ∈ m, c.1 ≠ k) : look (ins k v m) k = v := by
  induction m with
  | nil => simp [ins, look]
  | cons c r ih =>
    obtain ⟨a, x⟩ := c
    have ha : a ≠ k := h.2 (a, x) List.mem_cons_self
    unfold ins
    split
    · simp [look]
    · have := h.1
      simp [look, ha] at this ⊢
      exact ih ⟨this, fun c hc => h.2 c (List.mem_cons_of_mem _ hc)⟩

theorem mem_without {w : Nat} {k : Nat} {m : Store w} {c : Nat × BitVec w} (h : c ∈ without k m) : c ∈ m ∧ c.1 ≠ k := by
  induction m with
  | nil => cases h
  | cons d r ih =>
    obtain ⟨a, x⟩ := d
    unfold without at h
    split at h
    · exact ⟨List.mem_cons_of_mem _ (ih h).1, (ih h).2⟩
    · next e =>
      rcases List.mem_cons.mp h with rfl | h
      · exact ⟨List.mem_cons_self, e⟩
      · exact ⟨List.mem_cons_of_mem _ (ih h).1, (ih h).2⟩

/-- A key reads what was written. -/
@[simp] theorem look_put_same {w : Nat} (m : Store w) (k : Nat) (v : BitVec w) : look (put m k v) k = v := by
  unfold put
  split
  · next h => rw [h]; exact look_without_same k m
  · exact look_ins_same k v _ ⟨look_without_same k m, fun c hc => (mem_without hc).2⟩

/-- Every other key reads as before. -/
theorem look_put_other {w : Nat} (m : Store w) (k j : Nat) (v : BitVec w) (h : j ≠ k) : look (put m k v) j = look m j := by
  unfold put
  split
  · exact look_without_other k j m h
  · rw [look_ins_other k j v _ h, look_without_other k j m h]

theorem look_put {w : Nat} (m : Store w) (k j : Nat) (v : BitVec w) : look (put m k v) j = if j = k then v else look m j := by
  split
  · next h => rw [h]; exact look_put_same m k v
  · next h => exact look_put_other m k j v h

theorem putAll_cons {w : Nat} (m : Store w) (c : Nat × BitVec w) (r : List (Nat × BitVec w)) :
    putAll m (c :: r) = putAll (put m c.1 c.2) r := rfl

theorem look_putAll_other {w : Nat} (l : List (Nat × BitVec w)) (j : Nat) :
    ∀ m : Store w, (∀ c ∈ l, c.1 ≠ j) → look (putAll m l) j = look m j := by
  induction l with
  | nil => intro m _; rfl
  | cons c r ih =>
    intro m hj
    rw [putAll_cons, ih _ fun d hd => hj d (List.mem_cons_of_mem _ hd)]
    exact look_put_other _ _ _ _ fun e => hj c List.mem_cons_self e.symm

/-! ### The canonical form -/

/-- Every key of a table is above `k`. -/
def Above {w : Nat} (k : Nat) (m : Store w) : Prop := ∀ c ∈ m, k < c.1

theorem storeWf_cons {w : Nat} (a : Nat) (x : BitVec w) (m : Store w) :
    storeWf ((a, x) :: m) = true ↔ x ≠ 0 ∧ Above a m ∧ storeWf m = true := by
  induction m generalizing a x with
  | nil => simp [storeWf, Above]
  | cons c r ih =>
    obtain ⟨b, y⟩ := c
    constructor
    · intro h
      simp only [storeWf, Bool.and_eq_true, bne_iff_ne, ne_eq, decide_eq_true_eq] at h
      obtain ⟨⟨hx, hab⟩, hr⟩ := h
      refine ⟨hx, ?_, hr⟩
      intro c hc
      rcases List.mem_cons.mp hc with rfl | hc
      · exact hab
      · exact Nat.lt_trans hab (((ih b y).mp hr).2.1 c hc)
    · rintro ⟨hx, ha, hr⟩
      simp only [storeWf, Bool.and_eq_true, bne_iff_ne, ne_eq, decide_eq_true_eq]
      exact ⟨⟨hx, ha (b, y) List.mem_cons_self⟩, hr⟩

theorem storeWf_without {w : Nat} (k : Nat) (m : Store w) (h : storeWf m = true) : storeWf (without k m) = true := by
  induction m with
  | nil => rfl
  | cons c r ih =>
    obtain ⟨a, x⟩ := c
    obtain ⟨hx, ha, hr⟩ := (storeWf_cons a x r).mp h
    unfold without
    split
    · exact ih hr
    · exact (storeWf_cons _ _ _).mpr ⟨hx, fun c hc => ha c (mem_without hc).1, ih hr⟩

theorem mem_ins {w : Nat} {k : Nat} {v : BitVec w} {m : Store w} {c : Nat × BitVec w} (h : c ∈ ins k v m) : c = (k, v) ∨ c ∈ m := by
  induction m with
  | nil => simpa [ins] using h
  | cons d r ih =>
    obtain ⟨a, x⟩ := d
    unfold ins at h
    split at h
    · rcases List.mem_cons.mp h with rfl | h
      · exact .inl rfl
      · exact .inr h
    · rcases List.mem_cons.mp h with rfl | h
      · exact .inr List.mem_cons_self
      · exact (ih h).imp id (List.mem_cons_of_mem _)

theorem storeWf_ins {w : Nat} (k : Nat) (v : BitVec w) (m : Store w) (hv : v ≠ 0) (hk : ∀ c ∈ m, c.1 ≠ k) (h : storeWf m = true) :
    storeWf (ins k v m) = true := by
  induction m with
  | nil => simpa [ins, storeWf] using hv
  | cons c r ih =>
    obtain ⟨a, x⟩ := c
    obtain ⟨hx, ha, hr⟩ := (storeWf_cons a x r).mp h
    have hak : a ≠ k := hk (a, x) List.mem_cons_self
    unfold ins
    split
    · next hlt =>
      refine (storeWf_cons _ _ _).mpr ⟨hv, fun c hc => ?_, h⟩
      rcases List.mem_cons.mp hc with rfl | hc
      · exact hlt
      · exact Nat.lt_trans hlt (ha c hc)
    · next hlt =>
      refine (storeWf_cons _ _ _).mpr ⟨hx, fun c hc => ?_, ih (fun c hc => hk c (List.mem_cons_of_mem _ hc)) hr⟩
      rcases mem_ins hc with rfl | hc
      · simp only; omega
      · exact ha c hc

/-- Writing a key keeps the canonical form. -/
theorem storeWf_put {w : Nat} (m : Store w) (k : Nat) (v : BitVec w) (h : storeWf m = true) : storeWf (put m k v) = true := by
  unfold put
  split
  · exact storeWf_without k m h
  · next hv => exact storeWf_ins k v _ hv (fun c hc => (mem_without hc).2) (storeWf_without k m h)

/-- Writing several keys keeps it. -/
theorem storeWf_putAll {w : Nat} (l : List (Nat × BitVec w)) : ∀ m : Store w, storeWf m = true → storeWf (putAll m l) = true := by
  induction l with
  | nil => intro m h; exact h
  | cons c r ih => intro m h; exact ih _ (storeWf_put m c.1 c.2 h)

theorem storeWf_filter {w : Nat} (p : Nat × BitVec w → Bool) (m : Store w) (h : storeWf m = true) : storeWf (m.filter p) = true := by
  induction m with
  | nil => rfl
  | cons c r ih =>
    obtain ⟨a, x⟩ := c
    obtain ⟨hx, ha, hr⟩ := (storeWf_cons a x r).mp h
    rw [List.filter_cons]
    split
    · exact (storeWf_cons _ _ _).mpr ⟨hx, fun c hc => ha c (List.mem_filter.mp hc).1, ih hr⟩
    · exact ih hr

theorem look_above {w : Nat} {k : Nat} {m : Store w} (h : Above k m) : look m k = 0 := by
  induction m with
  | nil => rfl
  | cons c r ih =>
    obtain ⟨a, x⟩ := c
    have : k < a := h (a, x) List.mem_cons_self
    have e : a ≠ k := by omega
    simpa [look, e] using ih fun c hc => h c (List.mem_cons_of_mem _ hc)

/-- Two tables in canonical form that read alike are the same. -/
theorem store_ext {w : Nat} : ∀ m n : Store w, storeWf m = true → storeWf n = true → (∀ k, look m k = look n k) → m = n := by
  intro m
  induction m with
  | nil =>
    intro n _ hn h
    cases n with
    | nil => rfl
    | cons c r =>
      obtain ⟨a, x⟩ := c
      have := h a
      simp [look] at this
      exact absurd this.symm ((storeWf_cons a x r).mp hn).1
  | cons c r ih =>
    obtain ⟨a, x⟩ := c
    intro n hm hn h
    obtain ⟨hx, ha, hr⟩ := (storeWf_cons a x r).mp hm
    cases n with
    | nil =>
      have := h a
      simp [look] at this
      exact absurd this hx
    | cons d q =>
      obtain ⟨b, y⟩ := d
      obtain ⟨hy, hb, hq⟩ := (storeWf_cons b y q).mp hn
      have h1 := h a
      have h2 := h b
      have hab : a = b := by
        rcases Nat.lt_trichotomy a b with hlt | he | hgt
        · have e : b ≠ a := by omega
          have : look q a = 0 := look_above fun c hc => Nat.lt_trans hlt (hb c hc)
          simp [look, e, this] at h1
          exact absurd h1 hx
        · exact he
        · have e : a ≠ b := by omega
          have : look r b = 0 := look_above fun c hc => Nat.lt_trans hgt (ha c hc)
          simp [look, e, this] at h2
          exact absurd h2.symm hy
      subst hab
      have hxy : x = y := by simpa [look] using h1
      subst hxy
      congr 1
      refine ih q hr hq fun k => ?_
      by_cases hk : k ≤ a
      · rw [look_above fun c hc => Nat.lt_of_le_of_lt hk (ha c hc), look_above fun c hc => Nat.lt_of_le_of_lt hk (hb c hc)]
      · have h3 := h k
        have hk2 : a ≠ k := by omega
        simpa [look, hk2] using h3

/-! ### Bytes -/

@[simp] theorem leBytes_length (n x : Nat) : (leBytes n x).length = n := by
  induction n generalizing x with
  | zero => rfl
  | succ n ih => simp [leBytes, ih]

/-- Little-endian bytes give back the number they were made from (R8). -/
theorem leNat_leBytes (n x : Nat) : leNat (leBytes n x) = x % 256 ^ n := by
  induction n generalizing x with
  | zero => simp [leBytes, leNat, Nat.mod_one]
  | succ n ih =>
    have e : (BitVec.ofNat 8 x).toNat = x % 256 := BitVec.toNat_ofNat x 8
    rw [leBytes, leNat, ih, e, Nat.pow_succ, Nat.mul_comm (256 ^ n) 256, Nat.mod_mul]

theorem cells_key {a : Nat} {bs : List Byte} {c : Nat × Byte} (h : c ∈ cells a bs) : a ≤ c.1 ∧ c.1 < a + bs.length := by
  simp only [cells, List.mem_map] at h
  obtain ⟨p, hp, rfl⟩ := h
  have := List.snd_lt_of_mem_zipIdx hp
  simp at this ⊢
  omega

theorem storeWf_writeBytes (m : Store 8) (a : Nat) (bs : List Byte) (h : storeWf m = true) : storeWf (writeBytes m a bs) = true :=
  storeWf_putAll _ _ h

/-- Bytes outside a write read as before. -/
theorem look_writeBytes_other (m : Store 8) (a : Nat) (bs : List Byte) (j : Nat) (hj : j < a ∨ a + bs.length ≤ j) :
    look (writeBytes m a bs) j = look m j :=
  look_putAll_other _ _ _ fun c hc => by have := cells_key hc; omega

theorem cells_cons (a : Nat) (b : Byte) (bs : List Byte) : cells a (b :: bs) = (a, b) :: cells (a + 1) bs := by
  simp only [cells, List.zipIdx_cons, List.map_cons, Nat.add_zero, List.cons.injEq, true_and, Nat.zero_add]
  rw [List.zipIdx_succ, List.map_map]
  congr 1
  funext p
  simp [Nat.add_comm, Nat.add_left_comm]

/-- Each byte of a write reads as written. -/
theorem look_writeBytes_at (bs : List Byte) : ∀ (m : Store 8) (a i : Nat) (hi : i < bs.length), look (writeBytes m a bs) (a + i) = bs[i] := by
  induction bs with
  | nil => intro m a i hi; simp at hi
  | cons b bs ih =>
    intro m a i hi
    have e : writeBytes m a (b :: bs) = writeBytes (put m a b) (a + 1) bs := by simp [writeBytes, cells_cons, putAll]
    rw [e]
    cases i with
    | zero =>
      rw [look_writeBytes_other _ _ _ _ (by omega)]
      simp
    | succ i =>
      have := ih (put m a b) (a + 1) i (by simpa using hi)
      rw [show a + (i + 1) = a + 1 + i by omega]
      simpa using this

/-- Reading back what was written. -/
theorem readBytes_writeBytes (m : Store 8) (a : Nat) (bs : List Byte) : readBytes (writeBytes m a bs) a bs.length = bs := by
  apply List.ext_getElem
  · simp [readBytes]
  · intro i h1 h2
    simp [readBytes]
    exact look_writeBytes_at bs m a i h2

end Sys2Proof.Machine
end

