-- ==== Sys2Proof/Laws/Issue.lean ====
section
/-!
SUPPORT. Issue (R99): what it comes to, given what the instruction's body answers; the working copies and their writing back; and what
writing a register does (R45, R46, R140).
-/
namespace Sys2Proof.Machine

/-! ### Issue -/

/-- A body whose effect the Phase Buffer and the Undo Log have room for takes effect at once. -/
theorem issue_ok {i : Instr} {s : State} {c d : Ctx} {early : Ctx → Option Trap} {body : Ctx → Res} (h : Issues i s c)
    (he : early c = none) (hb : body (c.advance i) = .ok d) (hl : d.fitsLines = true) (hu : d.fitsUndo = true) :
    issue i early body s = .next d.commit := by
  simp [issue, h.turn, h.free, h.paid, h.legal, h.clear, he, Ctx.settle, hb, hl, hu]

/-- Where the instruction is no load or store, a fragment that traps stands as it was. -/
theorem Ctx.faulted_eq {c : Ctx} {i : Instr} (h1 : instrClass i ≠ some .ld) (h2 : instrClass i ≠ some .st) : c.faulted i = c := by
  unfold Ctx.faulted
  split
  · contradiction
  · contradiction
  · rfl

/-- A body that traps takes the trap in the state before the instruction; a load or store that does is to be issued again. -/
theorem issue_trap {i : Instr} {s : State} {c : Ctx} {tr : Trap} {early : Ctx → Option Trap} {body : Ctx → Res} (h : Issues i s c)
    (he : early c = none) (hb : body (c.advance i) = .trap tr) : issue i early body s = .next ((c.faulted i).takeTrap tr) := by
  simp [issue, h.turn, h.free, h.paid, h.legal, h.clear, he, Ctx.settle, hb]

theorem issue_wait {i : Instr} {s : State} {c : Ctx} {early : Ctx → Option Trap} {body : Ctx → Res} (h : Issues i s c)
    (he : early c = none) (hb : body (c.advance i) = .wait) : issue i early body s = .next s := by
  simp [issue, h.turn, h.free, h.paid, h.legal, h.clear, he, Ctx.settle, hb]

theorem issue_early {i : Instr} {s : State} {c : Ctx} {tr : Trap} {early : Ctx → Option Trap} {body : Ctx → Res}
    (ht : s.cur.bind s.ctx = some c) (hf : c.held = false) (hp : c.t.undoAfter = false) (hk : c.check i = none)
    (he : early c = some tr) : issue i early body s = .next (c.takeTrap tr) := by
  simp [issue, ht, hf, hp, hk, he]

/-- A check that fails traps, whatever the body is (R99, steps 2 to 4). -/
theorem issue_check {i : Instr} {s : State} {c : Ctx} {tr : Trap} {early : Ctx → Option Trap} {body : Ctx → Res}
    (ht : s.cur.bind s.ctx = some c) (hf : c.held = false) (hp : c.t.undoAfter = false) (hk : c.check i = some tr) :
    issue i early body s = .next (c.takeTrap tr) := by
  simp [issue, ht, hf, hp, hk]

/-- An instruction of an issuing fragment never stops the machine. -/
theorem issue_goes {i : Instr} {s : State} {early : Ctx → Option Trap} {body : Ctx → Res} (h : (s.cur.bind s.ctx).isSome) :
    ∃ t, issue i early body s = .next t := by
  obtain ⟨c, hc⟩ := Option.isSome_iff_exists.mp h
  simp only [issue, hc]
  repeat' split
  all_goals exact ⟨_, rfl⟩

/-! ### Writing registers -/

@[simp] theorem Ctx.note_s (c : Ctx) (k : UndoKey) : (c.note k).s = c.s := rfl
@[simp] theorem Ctx.note_ref (c : Ctx) (k : UndoKey) : (c.note k).ref = c.ref := rfl
@[simp] theorem Ctx.note_g (c : Ctx) (k : UndoKey) : (c.note k).g = c.g := rfl
@[simp] theorem Ctx.note_f (c : Ctx) (k : UndoKey) : (c.note k).f = c.f := rfl
@[simp] theorem Ctx.note_f0 (c : Ctx) (k : UndoKey) : (c.note k).f0 = c.f0 := rfl
@[simp] theorem Ctx.note_act (c : Ctx) (k : UndoKey) : (c.note k).act = c.act := rfl
@[simp] theorem Ctx.noteReg_s (c : Ctx) (n : Nat) : (c.noteReg n).s = c.s := by unfold Ctx.noteReg; split <;> rfl
@[simp] theorem Ctx.noteReg_ref (c : Ctx) (n : Nat) : (c.noteReg n).ref = c.ref := by unfold Ctx.noteReg; split <;> rfl
@[simp] theorem Ctx.noteReg_g (c : Ctx) (n : Nat) : (c.noteReg n).g = c.g := by unfold Ctx.noteReg; split <;> rfl
@[simp] theorem Ctx.noteReg_f (c : Ctx) (n : Nat) : (c.noteReg n).f = c.f := by unfold Ctx.noteReg; split <;> rfl
@[simp] theorem Ctx.noteReg_f0 (c : Ctx) (n : Nat) : (c.noteReg n).f0 = c.f0 := by unfold Ctx.noteReg; split <;> rfl
@[simp] theorem Ctx.noteReg_act (c : Ctx) (n : Nat) : (c.noteReg n).act = c.act := by unfold Ctx.noteReg; split <;> rfl

@[simp] theorem Ctx.note_bare (c : Ctx) (k : UndoKey) : (c.note k).t.bare = c.t.bare := rfl
@[simp] theorem Ctx.noteReg_bare (c : Ctx) (n : Nat) : (c.noteReg n).t.bare = c.t.bare := by unfold Ctx.noteReg; split <;> rfl

@[simp] theorem Group.setId_bare (g : Group) (id l : Nat) (x : Word) : (g.setId id l x).bare = g.bare := by
  unfold Group.setId; split <;> rfl

@[simp] theorem Group.setId_win (g : Group) (id l : Nat) (x : Word) : (g.setId id l x).win = g.win := by
  unfold Group.setId; split <;> rfl

/-- What writing one register does to the register file: the register named, in its lane where it is a v register. -/
theorem Group.getId_setId (g : Group) {a b l m : Nat} (x : Word) (ha : 1 ≤ a) (hb : 1 ≤ b) (hl : l < 32) (hm : m < 32) :
    (g.setId a l x).getId b m = if a = b ∧ (b < 32 ∨ m = l) then x else g.getId b m := by
  unfold Group.setId Group.getId
  by_cases h1 : a < 32 <;> by_cases h2 : b < 32 <;> simp only [h1, h2, if_true, if_false, look_put]
  · by_cases h : a = b
    · simp [h]
    · have : b - 1 ≠ a - 1 := by omega
      simp [h, this]
  · have : a ≠ b := by omega
    simp [this]
  · have : a ≠ b := by omega
    simp [this]
  · by_cases h : a = b ∧ m = l
    · obtain ⟨rfl, rfl⟩ := h; simp
    · have e : 32 * (b - 32) + m ≠ 32 * (a - 32) + l := by omega
      have e2 : ¬ (a = b ∧ (False ∨ m = l)) := by simpa using h
      simp only [e, e2, if_false]

theorem Group.regId_pos {g : Group} {r : Reg} {i a : Nat} (h : g.regId r i = some a) : 1 ≤ a := by
  cases r <;> simp [Group.regId, vName] at h <;> omega

theorem Group.regId_add (g : Group) (r : Reg) (i : Nat) : g.regId r i = (g.regId r 0).map (· + i) := by
  cases r <;> simp [Group.regId, vName] <;> omega

/-- Everything that writing a run of registers can do: what it leaves alone, but for the registers of the run and the Undo Log. -/
structure Ctx.Writes (c d : Ctx) : Prop where
  s : d.s = c.s
  ref : d.ref = c.ref
  f : d.f = c.f
  f0 : d.f0 = c.f0
  act : d.act = c.act
  t : d.t.bare = c.t.bare
  g : d.g.bare = c.g.bare

theorem Ctx.Writes.refl (c : Ctx) : c.Writes c := ⟨rfl, rfl, rfl, rfl, rfl, rfl, rfl⟩

theorem Ctx.Writes.trans {c d e : Ctx} (h : c.Writes d) (k : d.Writes e) : c.Writes e :=
  ⟨k.s.trans h.s, k.ref.trans h.ref, k.f.trans h.f, k.f0.trans h.f0, k.act.trans h.act, k.t.trans h.t, k.g.trans h.g⟩

theorem Ctx.Writes.win {c d : Ctx} (h : c.Writes d) : d.g.win = c.g.win := by
  have := congrArg Group.win h.g
  simpa [Group.bare] using this

theorem Ctx.Writes.regId {c d : Ctx} (h : c.Writes d) (r : Reg) (i : Nat) : d.g.regId r i = c.g.regId r i := by
  cases r <;> simp [Group.regId, h.win]

theorem Ctx.wr1_writes (c : Ctx) (d : Reg) (i l : Nat) (x : Word) : c.Writes (c.wr1 d i l x) := by
  unfold Ctx.wr1
  split
  · exact .refl c
  · constructor <;> simp

theorem Ctx.wr1_getId (c : Ctx) (d : Reg) (i : Nat) {l b m : Nat} (x : Word) (hb : 1 ≤ b) (hl : l < 32) (hm : m < 32) :
    (c.wr1 d i l x).g.getId b m = if c.g.regId d i = some b ∧ (b < 32 ∨ m = l) then x else c.g.getId b m := by
  unfold Ctx.wr1
  split
  · next h => simp [h]
  · next a h => simp [h, Group.getId_setId c.g x (Group.regId_pos h) hb hl hm]

theorem Ctx.wr_succ (c : Ctx) (d : Reg) (n l x : Nat) :
    c.wr d (n + 1) l x = (c.wr d n l x).wr1 d n l (BitVec.ofNat 32 (x / 2 ^ (32 * n))) := by
  simp [Ctx.wr, List.range_succ]

theorem Ctx.wr_writes (c : Ctx) (d : Reg) (n l x : Nat) : c.Writes (c.wr d n l x) := by
  induction n with
  | zero => exact .refl c
  | succ n ih => rw [Ctx.wr_succ]; exact ih.trans (Ctx.wr1_writes _ _ _ _ _)

/-- Writing a run of `n` registers in a lane: register `i` of the run takes bits 32 i to 32 i + 31 (R46). -/
theorem Ctx.wr_getId (c : Ctx) (d : Reg) (n x : Nat) {l b m : Nat} (hb : 1 ≤ b) (hl : l < 32) (hm : m < 32) :
    (c.wr d n l x).g.getId b m = match c.g.regId d 0 with
      | none => c.g.getId b m
      | some a => if a ≤ b ∧ b < a + n ∧ (b < 32 ∨ m = l) then BitVec.ofNat 32 (x / 2 ^ (32 * (b - a))) else c.g.getId b m := by
  induction n with
  | zero =>
    cases c.g.regId d 0 with
    | none => rfl
    | some a =>
      have : ¬ (a ≤ b ∧ b < a + 0 ∧ (b < 32 ∨ m = l)) := by omega
      simp only [this, if_false]; rfl
  | succ n ih =>
    rw [Ctx.wr_succ, Ctx.wr1_getId _ _ _ _ hb hl hm, ih, (Ctx.wr_writes c d n l x).regId, Group.regId_add]
    cases h : c.g.regId d 0 with
    | none => simp
    | some a =>
      simp only [Option.map_some, Option.some.injEq]
      by_cases e : a + n = b ∧ (b < 32 ∨ m = l)
      · have e2 : a ≤ b ∧ b < a + (n + 1) ∧ (b < 32 ∨ m = l) := ⟨by omega, by omega, e.2⟩
        have e3 : b - a = n := by omega
        simp only [e, e2, e3]
        simp
      · simp only [e, if_false]
        by_cases e1 : a ≤ b ∧ b < a + n ∧ (b < 32 ∨ m = l)
        · have e2 : a ≤ b ∧ b < a + (n + 1) ∧ (b < 32 ∨ m = l) := ⟨e1.1, by omega, e1.2.2⟩
          simp only [e1, e2, and_self, if_true]
        · have e2 : ¬ (a ≤ b ∧ b < a + (n + 1) ∧ (b < 32 ∨ m = l)) := by
            rintro ⟨q1, q2, q3⟩
            by_cases q : b = a + n
            · exact e ⟨q.symm, q3⟩
            · exact e1 ⟨q1, by omega, q3⟩
          simp only [e1, e2, if_false]

/-! ### Results in the lanes of an instruction -/

theorem lanesOf_lt {m : LaneMask} {l : Nat} (h : l ∈ lanesOf m) : l < 32 := by
  have := (List.mem_filter.mp h).1
  simpa using this

theorem lanesOf_nodup (m : LaneMask) : (lanesOf m).Nodup := List.Pairwise.sublist List.filter_sublist List.nodup_range

/-- Any fold of steps that each only write registers only writes registers. -/
theorem Ctx.each_writes {α : Type} (l : List α) (f : Ctx → α → Ctx) (h : ∀ c a, Ctx.Writes c (f c a)) (c : Ctx) :
    c.Writes (c.each l f) := by
  induction l generalizing c with
  | nil => exact .refl c
  | cons a r ih => exact (h c a).trans (ih (f c a))

theorem Ctx.lanes_s (c : Ctx) (k : Fin 31) : c.lanes (.s k) = c.act.take 1 := rfl
theorem Ctx.lanes_v (c : Ctx) (k : Fin 96) : c.lanes (.v k) = c.act := rfl

theorem Ctx.mem_lanes {c : Ctx} {d : Reg} {l : Nat} (h : l ∈ c.lanes d) : l ∈ c.act := by
  unfold Ctx.lanes at h
  split at h
  · exact List.mem_of_mem_take h
  · exact h

/-- A v run written in some lanes, all different: each lane holds its own value, the others what they held. -/
theorem Ctx.each_wr_v (k : Fin 96) (n : Nat) (f : Nat → Nat) (ls : List Nat) : ∀ (c : Ctx) {b m : Nat},
    1 ≤ b → m < 32 → (∀ l ∈ ls, l < 32) → ls.Nodup →
    (c.each ls fun c l => c.wr (.v k) n l (f l)).g.getId b m =
      if c.g.first k ≤ b ∧ b < c.g.first k + n ∧ m ∈ ls then BitVec.ofNat 32 (f m / 2 ^ (32 * (b - c.g.first k))) else c.g.getId b m := by
  induction ls with
  | nil => intro c b m _ _ _ _; simp [Ctx.each]
  | cons l r ih =>
    intro c b m hb hm hl hn
    have hl0 : l < 32 := hl l List.mem_cons_self
    obtain ⟨hn1, hn2⟩ := List.nodup_cons.mp hn
    have hw : (c.wr (.v k) n l (f l)).g.first k = c.g.first k := by simp [Group.first, (Ctx.wr_writes c (.v k) n l (f l)).win]
    have h1 := ih (c.wr (.v k) n l (f l)) hb hm (fun x hx => hl x (List.mem_cons_of_mem _ hx)) hn2
    have e : (c.each (l :: r) fun c l => c.wr (.v k) n l (f l)) = ((c.wr (.v k) n l (f l)).each r fun c l => c.wr (.v k) n l (f l)) := rfl
    rw [e, h1, hw, Ctx.wr_getId c (.v k) n (f l) hb hl0 hm]
    have hr : c.g.regId (.v k) 0 = some (c.g.first k) := rfl
    simp only [hr]
    by_cases q : c.g.first k ≤ b ∧ b < c.g.first k + n
    · have hb32 : ¬ b < 32 := by have := q.1; simp [Group.first, vName] at this; omega
      by_cases hmr : m ∈ r
      · simp [q, hmr]
      · by_cases hml : m = l
        · subst hml; simp [q, hmr]
        · simp [q, hmr, hml, hb32]
    · have q1 : ∀ P, ¬ (c.g.first k ≤ b ∧ b < c.g.first k + n ∧ P) := fun P h => q ⟨h.1, h.2.1⟩
      simp [q1]

/-- The lanes of a context are lanes. -/
def Ctx.lanesOk (c : Ctx) : Prop := (∀ l ∈ c.act, l < 32) ∧ c.act.Nodup

/-- A write to z is discarded (R45). -/
theorem Ctx.wr_z (c : Ctx) (n l x : Nat) : c.wr .z n l x = c := by
  induction n with
  | zero => rfl
  | succ n ih => rw [Ctx.wr_succ, ih]; rfl

theorem Ctx.result_writes (c : Ctx) (d : Reg) (n : Nat) (f : Nat → Nat) : c.Writes (c.result d n f) :=
  Ctx.each_writes _ _ (fun c a => Ctx.wr_writes c d n a (f a)) c

/-- A result writes what `written` says (an s run lies within s0 to s30). -/
theorem Ctx.result_getId (c : Ctx) (d : Reg) (n : Nat) (f : Nat → Nat) {b m : Nat} (hc : c.lanesOk) (hb : 1 ≤ b) (hm : m < 32)
    (hs : ∀ k, d = .s k → k.val + n ≤ 31) : (c.result d n f).g.getId b m = written c d n f b m := by
  cases d with
  | z =>
    have : ∀ (ls : List Nat) (c : Ctx), (c.each ls fun c l => c.wr .z n l (f l)).g.getId b m = c.g.getId b m := by
      intro ls
      induction ls with
      | nil => intro c; rfl
      | cons l r ih =>
        intro c
        have e : c.wr .z n l (f l) = c := Ctx.wr_z c n l (f l)
        rw [show (c.each (l :: r) fun c l => c.wr .z n l (f l)) = ((c.wr .z n l (f l)).each r fun c l => c.wr .z n l (f l)) from rfl, e]
        exact ih c
    exact this _ c
  | v k => exact Ctx.each_wr_v k n f c.act c hb hm hc.1 hc.2
  | s k =>
    have hk := hs k rfl
    unfold Ctx.result
    rw [Ctx.lanes_s]
    cases ha : c.act with
    | nil => simp [Ctx.each, written, ha]
    | cons l r =>
      have hl : l < 32 := hc.1 l (by simp [ha])
      have e : (c.each (List.take 1 (l :: r)) fun c l => c.wr (.s k) n l (f l)) = c.wr (.s k) n l (f l) := rfl
      have hr : c.g.regId (.s k) 0 = some (1 + k.val) := rfl
      rw [e, Ctx.wr_getId c (.s k) n (f l) hb hl hm, hr]
      have hlow : c.low = l := by simp [Ctx.low, ha]
      by_cases q : k.val + 1 ≤ b ∧ b < k.val + 1 + n
      · have q2 : 1 + k.val ≤ b ∧ b < 1 + k.val + n ∧ (b < 32 ∨ m = l) := ⟨by omega, by omega, .inl (by omega)⟩
        simp [written, q, q2, ha, hlow, Nat.add_comm]
      · have q2 : ¬ (1 + k.val ≤ b ∧ b < 1 + k.val + n ∧ (b < 32 ∨ m = l)) := by omega
        have q3 : ¬ (k.val + 1 ≤ b ∧ b < k.val + 1 + n ∧ c.act ≠ []) := by omega
        simp only [written, q2, q3, if_false]

end Sys2Proof.Machine
end

