-- ==== Sys2Proof/Laws/Count.lean ====
section
/-!
SUPPORT. Counting floating-point events (R212, R214) touches the counters of launches and the records posted to functions, and nothing
else; results with events.
-/
namespace Sys2Proof.Machine

theorem State.Counted.refl (s : State) : s.Counted s := ⟨rfl, rfl, rfl⟩

theorem State.Counted.trans {s t u : State} (h : s.Counted t) (k : t.Counted u) : s.Counted u := by
  refine ⟨?_, k.launches.trans h.launches, k.funcs.trans h.funcs⟩
  have e := h.rest
  rw [k.rest, e]

theorem map_modBy {α β : Type} (p : α → Bool) (f : α → α) (g : α → β) (h : ∀ x, g (f x) = g x) (l : List α) :
    (modBy p f l).map g = l.map g := by
  simp only [modBy, List.map_map]
  apply List.map_congr_left
  intro x _
  simp only [Function.comp]
  split
  · exact h x
  · rfl

theorem Func.put_unposted (b : Bool) (m : HostMsg) (f : Func) : (f.put b m).unposted = f.unposted := by
  unfold Func.put
  split
  · split <;> rfl
  · rfl

/-- Posting a record touches only what a function posts. -/
theorem State.post_counted (s : State) (vf : Nat) (b : List Byte) : s.Counted (s.post vf b) := by
  unfold State.post
  split
  · exact .refl s
  · refine ⟨rfl, rfl, map_modBy _ _ _ (fun x => ?_) _⟩
    split
    · rfl
    · exact Func.put_unposted _ _ _

theorem State.countOne_counted (s : State) (l i g n : Nat) : s.Counted (s.countOne l i g n) := by
  unfold State.countOne
  split
  · exact .refl s
  · next k _ =>
    have hm : ∀ (f : Launch → Launch), (∀ x, (f x).uncounted = x.uncounted) → s.Counted (s.modLaunch l f) := fun f h =>
      ⟨rfl, map_modBy _ _ _ h _, rfl⟩
    have hp : ∀ (s : State) (a b c d e f g h : Nat), s.Counted (s.postEvent a b c d e f g h) := fun s a b c d e f g h =>
      (State.post_counted _ _ _).trans ⟨rfl, rfl, map_modBy _ (fun f : Func => { f with token := f.token + 1 }) Func.unposted (fun _ => rfl) (s.post a _).funcs⟩
    have key : ∀ (b : Bool) (f : Launch → Launch) (a c d e i g h o : Nat), (∀ x, (f x).uncounted = x.uncounted) →
        s.Counted (if b = true then (s.modLaunch l f).postEvent a c d e i g h o else s.modLaunch l f) := by
      intro b f a c d e i g h o hf
      cases b
      · exact hm f hf
      · exact (hm f hf).trans (hp _ _ _ _ _ _ _ _ _)
    exact key _ _ _ _ _ _ _ _ _ _ fun _ => rfl

theorem State.countEv_counted (s : State) (l i g fmt : Nat) (evs : List Nat) : s.Counted (s.countEv l i g fmt evs) := by
  unfold State.countEv
  induction evs generalizing s with
  | nil => exact .refl s
  | cons e r ih => exact (State.countOne_counted s l i g _).trans (ih _)

/-- A launch keeps its metadata while events are counted. -/
theorem State.Counted.md {s t : State} (h : s.Counted t) (id : Nat) : (t.launch? id).map Launch.uncounted = (s.launch? id).map Launch.uncounted := by
  have key : ∀ l : List Launch, (findBy (fun x => x.id == id) l).map Launch.uncounted
      = findBy (fun x : Launch => x.id == id) (l.map Launch.uncounted) := by
    intro l
    induction l with
    | nil => rfl
    | cons x r ih =>
      by_cases e : x.id = id
      · simp [findBy, e, Launch.uncounted]
      · have : (Launch.uncounted x).id ≠ id := e
        simp only [findBy, List.map_cons, List.find?_cons] at ih ⊢
        rw [show (x.id == id) = false by simpa using e, show ((Launch.uncounted x).id == id) = false by simpa using this]
        exact ih
  unfold State.launch?
  rw [key, key, h.launches]

/-- Everything that writing registers and counting events can do. -/
structure Ctx.Counts (c d : Ctx) : Prop where
  s : c.s.Counted d.s
  ref : d.ref = c.ref
  f : d.f = c.f
  f0 : d.f0 = c.f0
  act : d.act = c.act
  t : d.t.bare = c.t.bare
  g : d.g.bare = c.g.bare

theorem Ctx.Writes.counts {c d : Ctx} (h : c.Writes d) : c.Counts d :=
  ⟨h.s ▸ .refl _, h.ref, h.f, h.f0, h.act, h.t, h.g⟩

theorem Ctx.Counts.trans {c d e : Ctx} (h : c.Counts d) (k : d.Counts e) : c.Counts e :=
  ⟨h.s.trans k.s, k.ref.trans h.ref, k.f.trans h.f, k.f0.trans h.f0, k.act.trans h.act, k.t.trans h.t, k.g.trans h.g⟩

theorem Ctx.events_counts (c : Ctx) (fmt : Nat) (evs : List Nat) : c.Counts (c.events fmt evs) :=
  ⟨State.countEv_counted _ _ _ _ _ _, rfl, rfl, rfl, rfl, rfl, rfl⟩

@[simp] theorem Ctx.events_g (c : Ctx) (fmt : Nat) (evs : List Nat) : (c.events fmt evs).g = c.g := rfl
@[simp] theorem Ctx.events_t (c : Ctx) (fmt : Nat) (evs : List Nat) : (c.events fmt evs).t = c.t := rfl
@[simp] theorem Ctx.events_act (c : Ctx) (fmt : Nat) (evs : List Nat) : (c.events fmt evs).act = c.act := rfl
@[simp] theorem Ctx.events_ref (c : Ctx) (fmt : Nat) (evs : List Nat) : (c.events fmt evs).ref = c.ref := rfl
@[simp] theorem Ctx.events_f (c : Ctx) (fmt : Nat) (evs : List Nat) : (c.events fmt evs).f = c.f := rfl

/-- Counting changes neither the group nor the team. -/
theorem Ctx.eventsAll_keep (l : List (Nat × List Nat)) : ∀ c : Ctx,
    (l.foldl (fun c e => c.events e.1 e.2) c).g = c.g ∧ (l.foldl (fun c e => c.events e.1 e.2) c).t = c.t ∧
      c.Counts (l.foldl (fun c e => c.events e.1 e.2) c) := by
  induction l with
  | nil => intro c; exact ⟨rfl, rfl, (Ctx.Writes.refl c).counts⟩
  | cons e r ih =>
    intro c
    obtain ⟨h1, h2, h3⟩ := ih (c.events e.1 e.2)
    exact ⟨h1, h2, (Ctx.events_counts c _ _).trans h3⟩

theorem Ctx.fresult_counts (c : Ctx) (d : Reg) (n : Nat) (f : Nat → Nat × List (Nat × List Nat)) : c.Counts (c.fresult d n f) := by
  unfold Ctx.fresult
  generalize c.lanes d = ls
  induction ls generalizing c with
  | nil => exact (Ctx.Writes.refl c).counts
  | cons l r ih =>
    exact ((Ctx.wr_writes c d n l (f l).1).counts.trans (Ctx.eventsAll_keep _ _).2.2).trans (ih _)

theorem Ctx.wr_congr {c e : Ctx} (hg : c.g = e.g) (d : Reg) (n l x : Nat) : (c.wr d n l x).g = (e.wr d n l x).g := by
  induction n with
  | zero => exact hg
  | succ n ih =>
    rw [Ctx.wr_succ, Ctx.wr_succ]
    unfold Ctx.wr1
    rw [ih]
    split <;> simp_all

/-- The registers after a result with events are those after the same result without. -/
theorem Ctx.fresult_g (c : Ctx) (d : Reg) (n : Nat) (f : Nat → Nat × List (Nat × List Nat)) :
    (c.fresult d n f).g = (c.result d n fun l => (f l).1).g := by
  unfold Ctx.fresult Ctx.result
  generalize c.lanes d = ls
  have key : ∀ (ls : List Nat) (c e : Ctx), c.g = e.g →
      (c.each ls fun c l => (f l).2.foldl (fun c e => c.events e.1 e.2) (c.wr d n l (f l).1)).g
        = (e.each ls fun c l => c.wr d n l (f l).1).g := by
    intro ls
    induction ls with
    | nil => intro c e h; exact h
    | cons l r ih =>
      intro c e h
      refine ih _ _ ?_
      rw [(Ctx.eventsAll_keep _ _).1]
      exact Ctx.wr_congr h d n l _
  exact key ls c c rfl

end Sys2Proof.Machine
end

