-- ==== Sys2Proof/Laws/Room.lean ====
section
/-!
SUPPORT. Room in the Phase Buffer and the Undo Log (R129, R138, R140): what an instruction that only writes registers, predicates and the
group's own state needs, and that it then takes effect at once.
-/
namespace Sys2Proof.Machine

theorem Ctx.Local.refl (c : Ctx) : c.Local c := ⟨.refl _, rfl, rfl⟩
theorem Ctx.Local.trans {c d e : Ctx} (h : c.Local d) (k : d.Local e) : c.Local e :=
  ⟨h.s.trans k.s, k.ref.trans h.ref, k.t.trans h.t⟩
theorem Ctx.Counts.local {c d : Ctx} (h : c.Counts d) : c.Local d := ⟨h.s, h.ref, h.t⟩

theorem Ctx.Local.launchMd {c d : Ctx} (h : c.Local d) : (d.launch.bind (·.md)) = (c.launch.bind (·.md)) := by
  have e : d.t.launch = c.t.launch := by simpa [Team.bare] using congrArg Team.launch h.t
  unfold Ctx.launch State.launchOf
  rw [e]
  have := h.s.md c.t.launch
  generalize d.s.launch? c.t.launch = x at *
  generalize c.s.launch? c.t.launch = y at *
  cases x <;> cases y <;> simp_all [Launch.uncounted]

theorem Ctx.Local.meta {c d : Ctx} (h : c.Local d) (f : Meta → Nat) : d.meta f = c.meta f := by
  unfold Ctx.meta; rw [h.launchMd]

theorem Ctx.Local.fitsLines {c d : Ctx} (h : c.Local d) : d.fitsLines = c.fitsLines := by
  have e1 : d.t.pb = c.t.pb := by simpa [Team.bare] using congrArg Team.pb h.t
  have e2 : d.t.rsts = c.t.rsts := by simpa [Team.bare] using congrArg Team.rsts h.t
  have e3 : d.t.live = c.t.live := by simpa [Team.bare] using congrArg Team.live h.t
  unfold Ctx.fitsLines Team.lines; rw [e1, e2, e3]

theorem Ctx.Local.fits {c d : Ctx} {n : Nat} (h : c.Local d) (hr : c.room n) (hd : d.logged ≤ c.logged + n) :
    d.fitsLines = true ∧ d.fitsUndo = true := by
  refine ⟨h.fitsLines.trans hr.1, ?_⟩
  have := hr.2
  simp only [Ctx.fitsUndo, decide_eq_true_eq, h.meta]
  exact Nat.le_trans hd this

/-! ### The cost of records -/

theorem undoCost_le (k : UndoKey) : undoCost k ≤ 264 := by cases k <;> simp [undoCost]

theorem addNew_mem {α : Type} [BEq α] [LawfulBEq α] (x : α) (l : List α) : x ∈ addNew x l := by
  unfold addNew; split
  · next h => simpa using h
  · simp

theorem mem_addNew {α : Type} [BEq α] [LawfulBEq α] {x y : α} {l : List α} (h : y ∈ l) : y ∈ addNew x l := by
  unfold addNew; split
  · exact h
  · simp [h]

theorem Ctx.note_logged (c : Ctx) (k : UndoKey) : (c.note k).logged ≤ c.logged + undoCost k := by
  unfold Ctx.note Ctx.logged addNew
  split <;> simp

theorem Ctx.note_known {c : Ctx} {k : UndoKey} (h : k ∈ c.t.undo) : c.note k = c := by
  simp [Ctx.note, addNew, h]

/-- The record of a register by name. -/
def Ctx.regKey (c : Ctx) (id : Nat) : UndoKey := if id < 32 then .sreg c.ref.group (id - 1) else .vreg c.ref.group (id - 32)

theorem Ctx.noteReg_eq (c : Ctx) (id : Nat) : c.noteReg id = c.note (c.regKey id) := by
  unfold Ctx.noteReg Ctx.regKey; split <;> rfl

theorem Ctx.noteReg_logged (c : Ctx) (id : Nat) : (c.noteReg id).logged ≤ c.logged + 136 := by
  rw [Ctx.noteReg_eq]
  have := c.note_logged (c.regKey id)
  have : undoCost (c.regKey id) ≤ 136 := by unfold Ctx.regKey; split <;> simp [undoCost]
  omega

/-- The registers of a run have their records. -/
def Ctx.known (c : Ctx) (d : Reg) (n : Nat) : Prop := ∀ i, i < n → ∀ a, c.g.regId d i = some a → c.regKey a ∈ c.t.undo

theorem Ctx.wr1_logged (c : Ctx) (d : Reg) (i l : Nat) (x : Word) : (c.wr1 d i l x).logged ≤ c.logged + 136 := by
  unfold Ctx.wr1
  split
  · omega
  · exact c.noteReg_logged _

theorem Ctx.wr_logged (c : Ctx) (d : Reg) (n l x : Nat) : (c.wr d n l x).logged ≤ c.logged + 136 * n := by
  induction n with
  | zero => exact Nat.le_refl _
  | succ n ih =>
    rw [Ctx.wr_succ]
    have := Ctx.wr1_logged (c.wr d n l x) d n l (BitVec.ofNat 32 (x / 2 ^ (32 * n)))
    omega

theorem Ctx.wr1_undo_mono {c : Ctx} {d : Reg} {i l : Nat} {x : Word} {k : UndoKey} (h : k ∈ c.t.undo) : k ∈ (c.wr1 d i l x).t.undo := by
  unfold Ctx.wr1
  split
  · exact h
  · rw [Ctx.noteReg_eq]; exact mem_addNew h

theorem Ctx.wr_known (c : Ctx) (d : Reg) (n l x : Nat) : (c.wr d n l x).known d n := by
  induction n with
  | zero => intro i hi; omega
  | succ n ih =>
    intro i hi a ha
    have hw := Ctx.wr_writes c d (n + 1) l x
    rw [Ctx.wr_succ] at *
    have hk : ((c.wr d n l x).wr1 d n l (BitVec.ofNat 32 (x / 2 ^ (32 * n)))).regKey a = (c.wr d n l x).regKey a := by
      simp [Ctx.regKey, (Ctx.wr1_writes _ _ _ _ _).ref]
    rw [hk]
    have ha' : (c.wr d n l x).g.regId d i = some a := by rw [← (Ctx.wr1_writes _ d n l _).regId]; exact ha
    by_cases hin : i < n
    · exact Ctx.wr1_undo_mono (ih i hin a ha')
    · have : i = n := by omega
      subst this
      unfold Ctx.wr1
      simp only [ha']
      rw [Ctx.noteReg_eq]
      exact addNew_mem _ _

theorem Ctx.wr_same_undo {c : Ctx} {d : Reg} {n : Nat} (h : c.known d n) (l x : Nat) : (c.wr d n l x).t.undo = c.t.undo := by
  induction n with
  | zero => rfl
  | succ n ih =>
    have ih := ih fun i hi => h i (by omega)
    rw [Ctx.wr_succ]
    unfold Ctx.wr1
    split
    · exact ih
    · next a ha =>
      rw [(Ctx.wr_writes c d n l x).regId] at ha
      have hk := h n (by omega) a ha
      have e : (c.wr d n l x).regKey a = c.regKey a := by simp [Ctx.regKey, (Ctx.wr_writes _ _ _ _ _).ref]
      rw [Ctx.noteReg_eq, e]
      rw [← ih] at hk
      simp [Ctx.note_known hk, ih]

/-- One run written in any lanes takes one record for each register. -/
theorem Ctx.each_wr_logged (d : Reg) (n : Nat) (f : Nat → Nat) (ls : List Nat) (c : Ctx) :
    (c.each ls fun c l => c.wr d n l (f l)).logged ≤ c.logged + 136 * n := by
  have key : ∀ (ls : List Nat) (c : Ctx), c.known d n → (c.each ls fun c l => c.wr d n l (f l)).t.undo = c.t.undo := by
    intro ls
    induction ls with
    | nil => intro c _; rfl
    | cons l r ih =>
      intro c h
      have hk : (c.wr d n l (f l)).known d n := Ctx.wr_known c d n l (f l)
      exact (ih _ hk).trans (Ctx.wr_same_undo h l (f l))
  cases ls with
  | nil => simp [Ctx.each]
  | cons l r =>
    have e : (c.each (l :: r) fun c l => c.wr d n l (f l)) = ((c.wr d n l (f l)).each r fun c l => c.wr d n l (f l)) := rfl
    rw [e, Ctx.logged, key r _ (Ctx.wr_known c d n l (f l))]
    exact Ctx.wr_logged c d n l (f l)

theorem Ctx.result_logged (c : Ctx) (d : Reg) (n : Nat) (f : Nat → Nat) : (c.result d n f).logged ≤ c.logged + 136 * n :=
  Ctx.each_wr_logged d n f _ c

theorem Ctx.wr_congr_t {c e : Ctx} (hg : c.g = e.g) (ht : c.t.undo = e.t.undo) (hr : c.ref = e.ref) (d : Reg) (n l x : Nat) :
    (c.wr d n l x).t.undo = (e.wr d n l x).t.undo := by
  induction n with
  | zero => exact ht
  | succ n ih =>
    rw [Ctx.wr_succ, Ctx.wr_succ]
    unfold Ctx.wr1
    rw [Ctx.wr_congr hg d n l x]
    split
    · exact ih
    · rw [Ctx.noteReg_eq, Ctx.noteReg_eq]
      have e1 : (c.wr d n l x).ref = (e.wr d n l x).ref := by rw [(Ctx.wr_writes _ _ _ _ _).ref, (Ctx.wr_writes _ _ _ _ _).ref, hr]
      simp [Ctx.note, Ctx.regKey, e1, ih]

/-- A result with events takes the records of the result. -/
theorem Ctx.fresult_logged (c : Ctx) (d : Reg) (n : Nat) (f : Nat → Nat × List (Nat × List Nat)) :
    (c.fresult d n f).logged ≤ c.logged + 136 * n := by
  have key : ∀ (ls : List Nat) (c e : Ctx), c.g = e.g → c.t.undo = e.t.undo → c.ref = e.ref →
      (c.each ls fun c l => (f l).2.foldl (fun c e => c.events e.1 e.2) (c.wr d n l (f l).1)).t.undo
        = (e.each ls fun c l => c.wr d n l (f l).1).t.undo := by
    intro ls
    induction ls with
    | nil => intro c e _ h _; exact h
    | cons l r ih =>
      intro c e hg ht hr
      have k := Ctx.eventsAll_keep (f l).2 (c.wr d n l (f l).1)
      refine ih _ _ ?_ ?_ ?_
      · rw [k.1]; exact Ctx.wr_congr hg d n l _
      · rw [k.2.1]; exact Ctx.wr_congr_t hg ht hr d n l _
      · rw [k.2.2.ref, (Ctx.wr_writes _ _ _ _ _).ref, (Ctx.wr_writes _ _ _ _ _).ref, hr]
  have e : (c.fresult d n f).t.undo = (c.result d n fun l => (f l).1).t.undo := key _ c c rfl rfl rfl
  rw [Ctx.logged, e]
  exact Ctx.result_logged c d n _

/-! ### Reading through the latch, advancing, predicates -/

@[simp] theorem Ctx.advance_s (c : Ctx) (i : Instr) : (c.advance i).s = c.s := rfl
@[simp] theorem Ctx.advance_t (c : Ctx) (i : Instr) : (c.advance i).t = c.t := rfl
@[simp] theorem Ctx.advance_g (c : Ctx) (i : Instr) : (c.advance i).g = c.g := rfl
@[simp] theorem Ctx.advance_ref (c : Ctx) (i : Instr) : (c.advance i).ref = c.ref := rfl
@[simp] theorem Ctx.advance_act (c : Ctx) (i : Instr) : (c.advance i).act = c.act := rfl
@[simp] theorem Ctx.advance_f0 (c : Ctx) (i : Instr) : (c.advance i).f0 = c.f0 := rfl

theorem Ctx.advance_local (c : Ctx) (i : Instr) : c.Local (c.advance i) := ⟨.refl _, rfl, rfl⟩
@[simp] theorem Ctx.advance_logged (c : Ctx) (i : Instr) : (c.advance i).logged = c.logged := rfl

/-- Reading through the latch changes the latch alone. -/
theorem Ctx.readA_fst (c : Ctx) (r : Bool) (a : Reg) (n : Nat) : ∃ k, (c.readA r a n).1 = { c with g := { c.g with latch := k } } := by
  unfold Ctx.readA
  split
  · exact ⟨none, rfl⟩
  · split
    · exact ⟨c.g.latch, rfl⟩
    · dsimp only
      split
      · split
        · exact ⟨c.g.latch, rfl⟩
        · exact ⟨_, rfl⟩
      · exact ⟨_, rfl⟩

theorem Ctx.readA_local (c : Ctx) (r : Bool) (a : Reg) (n : Nat) : c.Local (c.readA r a n).1 := by
  obtain ⟨k, h⟩ := c.readA_fst r a n
  rw [h]; exact ⟨.refl _, rfl, rfl⟩

theorem Ctx.setPred_local (c : Ctx) (p : Nat) (f : Nat → Bool) : c.Local (c.setPred p f) := by
  unfold Ctx.setPred; split
  · exact .refl c
  · exact ⟨.refl _, rfl, rfl⟩

theorem Ctx.setPred_logged (c : Ctx) (p : Nat) (f : Nat → Bool) : (c.setPred p f).logged ≤ c.logged + 12 := by
  unfold Ctx.setPred; split
  · omega
  · exact c.note_logged (.pred c.ref.group p)

/-- A body that only writes its group's own state and needs at most the room there is takes effect at once. -/
theorem plain_ok {i : Instr} {s : State} {c : Ctx} {n : Nat} {body : Ctx → Ctx} (h : Issues i s c) (hr : c.room n)
    (hl : c.Local (body (c.advance i))) (hn : (body (c.advance i)).logged ≤ c.logged + n) :
    plain i body s = .next (body (c.advance i)).commit := by
  obtain ⟨h1, h2⟩ := hl.fits hr hn
  exact issue_ok h rfl rfl h1 h2

end Sys2Proof.Machine
end

