-- ==== Sys2Proof/Laws/Alu.lean ====
section
/-!
SUPPORT. What the bodies of class 00 and class 01 come to: one lemma for each shared body, and the arithmetic of wrapping (R199).
-/
namespace Sys2Proof.Machine

/-! ### Wrapping -/

theorem asInt_emod (s : Bool) (n x : Nat) : asInt s n x % (2 ^ n : Nat) = (x : Int) % (2 ^ n : Nat) := by
  unfold asInt toSigned
  have h2 : ((2 : Int) ^ n) = ((2 ^ n : Nat) : Int) := by push_cast; rfl
  split
  · split
    · rw [← Int.natCast_emod, ← Int.natCast_emod, Nat.mod_mod]
    · rw [h2, Int.sub_emod_right]
      rw [← Int.natCast_emod, ← Int.natCast_emod, Nat.mod_mod]
  · rw [← Int.natCast_emod, ← Int.natCast_emod, Nat.mod_mod]

theorem wrapTo_nat (n x : Nat) : wrapTo n (x : Int) = x % 2 ^ n := by
  unfold wrapTo; rw [← Int.natCast_emod, Int.toNat_natCast]

theorem wrapTo_congr {n : Nat} {x y : Int} (h : x % (2 ^ n : Nat) = y % (2 ^ n : Nat)) : wrapTo n x = wrapTo n y := by
  unfold wrapTo; rw [h]

theorem wrapTo_asInt (s : Bool) (n x : Nat) : wrapTo n (asInt s n x) = x % 2 ^ n := by
  rw [← wrapTo_nat]; exact wrapTo_congr (asInt_emod s n x)

theorem wrapTo_mod (n : Nat) (x : Int) : wrapTo n x % 2 ^ n = wrapTo n x := by
  apply Nat.mod_eq_of_lt
  unfold wrapTo
  have h0 : ((2 ^ n : Nat) : Int) ≠ 0 := by exact_mod_cast Nat.ne_of_gt (Nat.two_pow_pos n)
  have h1 := Int.emod_nonneg x h0
  have h2 := Int.emod_lt_of_pos x (by exact_mod_cast Nat.two_pow_pos n : (0 : Int) < (2 ^ n : Nat))
  omega

theorem wrapTo_add (s u : Bool) (n x y : Nat) : wrapTo n (asInt s n x + asInt u n y) = (x + y) % 2 ^ n := by
  rw [← wrapTo_nat]
  refine wrapTo_congr ?_
  rw [Int.add_emod, asInt_emod, asInt_emod, ← Int.add_emod]; push_cast; rfl

theorem wrapTo_mul (s u : Bool) (n x y : Nat) : wrapTo n (asInt s n x * asInt u n y) = (x * y) % 2 ^ n := by
  rw [← wrapTo_nat]
  refine wrapTo_congr ?_
  rw [Int.mul_emod, asInt_emod, asInt_emod, ← Int.mul_emod]; push_cast; rfl

/-! ### The integer rows of R199, computed on patterns and on integers -/

theorem wrapTo_sub (s u : Bool) (n x y : Nat) : wrapTo n (asInt s n x - asInt u n y) = subNat n x y := by
  have e : subNat n x y = wrapTo n ((x + (2 ^ n - y % 2 ^ n) : Nat) : Int) := by rw [wrapTo_nat]; rfl
  rw [e]
  refine wrapTo_congr ?_
  rw [Int.sub_emod, asInt_emod, asInt_emod, ← Int.sub_emod]
  have hy := Nat.mod_lt y (Nat.two_pow_pos n)
  have : ((x + (2 ^ n - y % 2 ^ n) : Nat) : Int) = (x : Int) - y + (2 ^ n : Nat) * (1 + (y / 2 ^ n : Nat)) := by
    have h1 := Nat.div_add_mod y (2 ^ n)
    have h2 : ((2 ^ n : Nat) : Int) * (1 + (y / 2 ^ n : Nat)) = (2 ^ n : Nat) + ((2 ^ n * (y / 2 ^ n) : Nat) : Int) := by
      rw [Int.mul_add, Int.mul_one]; push_cast; rfl
    rw [h2]; omega
  rw [this, Int.add_mul_emod_self_left]

theorem wrapTo_fma (s : Bool) (n x y z : Nat) : wrapTo n (asInt s n x * asInt s n y + asInt s n z) = (x * y + z) % 2 ^ n := by
  rw [← wrapTo_nat]
  refine wrapTo_congr ?_
  rw [Int.add_emod, Int.mul_emod, asInt_emod, asInt_emod, asInt_emod, ← Int.mul_emod, ← Int.add_emod]; push_cast; rfl

theorem wrapTo_shl (s : Bool) (n x k : Nat) : wrapTo n (asInt s n x * (2 ^ k : Nat)) = (x * 2 ^ k) % 2 ^ n := by
  rw [← wrapTo_nat]
  refine wrapTo_congr ?_
  rw [Int.mul_emod, asInt_emod, ← Int.mul_emod]; push_cast; rfl

theorem pick_min (s : Bool) (n x y : Nat) : intPick false s n x y % 2 ^ n = wrapTo n (min (asInt s n x) (asInt s n y)) := by
  unfold intPick
  by_cases h : asInt s n x < asInt s n y
  · rw [Int.min_eq_left (by omega), wrapTo_asInt]; simp [h]
  · rw [Int.min_eq_right (by omega), wrapTo_asInt]; simp [h]

theorem pick_max (s : Bool) (n x y : Nat) : intPick true s n x y % 2 ^ n = wrapTo n (max (asInt s n x) (asInt s n y)) := by
  unfold intPick
  by_cases h : asInt s n x < asInt s n y
  · rw [Int.max_eq_right (by omega), wrapTo_asInt]; simp [h]
  · rw [Int.max_eq_left (by omega), wrapTo_asInt]; simp [h]

theorem div_row (s : Bool) (n x y : Nat) : intDiv s n x y % 2 ^ n = wrapTo n (if asInt s n y = 0 then -1 else (asInt s n x).tdiv (asInt s n y)) := by
  unfold intDiv
  dsimp only
  split
  · have h2 := Nat.two_pow_pos n
    have : ((2 ^ n - 1 : Nat) : Int) % (2 ^ n : Nat) = (-1) % (2 ^ n : Nat) := by
      have e : ((2 ^ n - 1 : Nat) : Int) = -1 + (2 ^ n : Nat) * 1 := by omega
      rw [e, Int.add_mul_emod_self_left]
    rw [← wrapTo_congr this, wrapTo_nat]
  · rw [wrapTo_mod]

theorem rem_row (s : Bool) (n x y : Nat) : intRem s n x y % 2 ^ n = wrapTo n (if asInt s n y = 0 then asInt s n x else (asInt s n x).tmod (asInt s n y)) := by
  unfold intRem
  dsimp only
  split
  · rw [wrapTo_asInt, Nat.mod_mod]
  · rw [wrapTo_mod]

theorem shr_row (s : Bool) (n x k : Nat) (hx : x < 2 ^ n) : shrNat s n x k % 2 ^ n = wrapTo n (asInt s n x / (2 ^ k : Nat)) := by
  unfold shrNat asInt
  cases s with
  | true => simp only [if_true]; rw [wrapTo_mod]
  | false =>
    simp only [Bool.false_eq_true, if_false]
    rw [Nat.mod_eq_of_lt hx, ← Int.natCast_ediv, wrapTo_nat]

theorem rot_row (n x k : Nat) (hx : x < 2 ^ n) : rotNat n x k % 2 ^ n = wrapTo n ((x * 2 ^ (k % n) + x / 2 ^ (n - k % n) : Nat) : Int) := by
  rw [wrapTo_nat]
  unfold rotNat
  rw [Nat.mod_eq_of_lt hx, Nat.mod_add_mod]

/-! ### Values of operands -/

theorem Group.rd_lt (g : Group) (r : Reg) (n l : Nat) : g.rd r n l < 2 ^ (32 * n) := by
  induction n with
  | zero => simp [Group.rd]
  | succ n ih =>
    have h := (g.reg r n l).isLt
    have e : 2 ^ (32 * (n + 1)) = 2 ^ (32 * n) * 2 ^ 32 := by rw [Nat.mul_add, Nat.pow_add]
    unfold Group.rd
    rw [e]
    calc g.rd r n l + 2 ^ (32 * n) * (g.reg r n l).toNat < 2 ^ (32 * n) + 2 ^ (32 * n) * (g.reg r n l).toNat := by omega
      _ = 2 ^ (32 * n) * ((g.reg r n l).toNat + 1) := by rw [Nat.mul_add, Nat.mul_one, Nat.add_comm]
      _ ≤ 2 ^ (32 * n) * 2 ^ 32 := Nat.mul_le_mul_left _ h

/-- The value read through the latch does not see the program counter. -/
theorem Ctx.readA_advance (c : Ctx) (i : Instr) (r : Bool) (a : Reg) (n : Nat) :
    ((c.advance i).readA r a n).2 = (c.readA r a n).2 ∧ ((c.advance i).readA r a n).1 = (c.readA r a n).1.advance i := by
  unfold Ctx.readA
  cases r with
  | false => exact ⟨rfl, rfl⟩
  | true =>
    by_cases ha : c.act = []
    · have ha' : (c.advance i).act = [] := ha
      simp only [ha, ha', if_true, Bool.not_true, Bool.false_eq_true, if_false, and_self]
    · have ha' : ¬ (c.advance i).act = [] := ha
      simp only [ha, ha', Bool.not_true, Bool.false_eq_true, if_false]
      have e : (c.advance i).latched a n = c.latched a n := rfl
      cases hl : c.g.latch with
      | none =>
        have hl' : (c.advance i).g.latch = none := hl
        rw [hl', e]; exact ⟨rfl, rfl⟩
      | some k =>
        have hl' : (c.advance i).g.latch = some k := hl
        rw [hl', e]
        dsimp only
        split <;> exact ⟨rfl, rfl⟩

/-- Operand a, whichever way it is read, fits its run. -/
theorem Ctx.readA_lt (c : Ctx) (r : Bool) (a : Reg) (n l : Nat) : (c.readA r a n).2 l < 2 ^ (32 * n) := by
  have key : ∀ (n : Nat) (f : Nat → Word), (List.range n).foldl (fun x i => x + 2 ^ (32 * i) * (f i).toNat) 0 < 2 ^ (32 * n) := by
    intro n f
    induction n with
    | zero => simp
    | succ n ih =>
      rw [List.range_succ, List.foldl_append]
      have h := (f n).isLt
      have e : 2 ^ (32 * (n + 1)) = 2 ^ (32 * n) * 2 ^ 32 := by rw [Nat.mul_add, Nat.pow_add]
      simp only [List.foldl_cons, List.foldl_nil]
      rw [e]
      generalize (List.range n).foldl (fun x i => x + 2 ^ (32 * i) * (f i).toNat) 0 = y at *
      calc y + 2 ^ (32 * n) * (f n).toNat < 2 ^ (32 * n) + 2 ^ (32 * n) * (f n).toNat := by omega
        _ = 2 ^ (32 * n) * ((f n).toNat + 1) := by rw [Nat.mul_add, Nat.mul_one, Nat.add_comm]
        _ ≤ 2 ^ (32 * n) * 2 ^ 32 := Nat.mul_le_mul_left _ h
  unfold Ctx.readA
  split
  · exact Group.rd_lt _ _ _ _
  · split
    · exact Nat.two_pow_pos _
    · dsimp only
      split
      · split
        · exact key n _
        · exact Group.rd_lt _ _ _ _
      · exact Group.rd_lt _ _ _ _

/-! ### The shared bodies -/

/-! ### Runs of a well-formed instruction -/

theorem lowest_none {x y : Option Nat} (h : lowest x y = none) : x = none ∧ y = none := by
  cases x <;> cases y <;> simp_all [lowest]

theorem lowestOf_none {l : List (Option Nat)} (h : lowestOf l = none) : ∀ x ∈ l, x = none := by
  induction l with
  | nil => simp
  | cons a r ih =>
    obtain ⟨h1, h2⟩ := lowest_none h
    intro x hx
    rcases List.mem_cons.mp hx with rfl | hx
    · exact h1
    · exact ih h2 x hx

theorem runReason_s {n : Nat} {k : Fin 31} (h : runReason n (.s k) = none) : k.val + n ≤ 31 := by
  simp [runReason, bad] at h; omega

theorem sFits {n : Nat} {d : Reg} (h : runReason n d = none) : ∀ k, d = .s k → k.val + n ≤ 31 := by
  rintro k rfl; exact runReason_s h

theorem tyBits_int {t : Ty} (h : t.isInt = true) : tyBits t = 32 * t.regs := by cases t <;> simp_all [Ty.isInt, tyBits, Ty.regs]

/-- A fragment's working copies come with lanes that are lanes. -/
theorem State.ctx_lanesOk {s : State} {r : FragRef} {c : Ctx} (h : s.ctx r = some c) : c.lanesOk := by
  unfold State.ctx at h
  split at h
  · cases h
  · split at h
    · cases h
    · split at h
      · cases h
      · cases h; exact ⟨fun l hl => lanesOf_lt hl, lanesOf_nodup _⟩

theorem Issues.lanesOk {i : Instr} {s : State} {c : Ctx} (h : Issues i s c) : c.lanesOk := by
  have := h.turn
  cases hc : s.cur with
  | none => simp [hc] at this
  | some r => simp [hc] at this; exact State.ctx_lanesOk this

/-- A well-formed instruction issues. -/
theorem Issues.wf {i : Instr} {s : State} {c : Ctx} (h : Issues i s c) : i.reason = none := by
  have := h.legal
  unfold Ctx.check at this
  split at this
  · cases this
  · next hr =>
    cases hi : i.reason with
    | none => rfl
    | some r => exfalso; rw [hi] at hr; revert hr; unfold lowestOf bad; cases (c.f.guard.isSome && !windowOk i) <;> simp [lowest]

/-- What a result read through the latch makes of the registers. -/
theorem written_congr {c e : Ctx} (hg : ∀ b m, e.g.getId b m = c.g.getId b m) (hw : e.g.win = c.g.win) (ha : e.act = c.act) (d : Reg) (n : Nat)
    (f : Nat → Nat) (b m : Nat) : written e d n f b m = written c d n f b m := by
  cases d with
  | z => exact hg b m
  | s k => simp only [written, hg, Ctx.low]; rw [ha]
  | v k =>
    have hf : e.g.first k = c.g.first k := by simp [Group.first, hw]
    unfold written
    dsimp only
    rw [hf, ha, hg]

/-- Counting in a list of lanes, after other lanes. -/
theorem Ctx.fresult_s (c : Ctx) (d : Reg) (n : Nat) (f : Nat → Nat × List (Nat × List Nat)) :
    (c.fresult d n f).s = c.counted (c.lanes d) fun l => (f l).2 := by
  have ev : ∀ (l : List (Nat × List Nat)) (c : Ctx), (l.foldl (fun c e => c.events e.1 e.2) c).s
      = l.foldl (fun s p => s.countEv c.t.launch c.t.idx c.ref.group p.1 p.2) c.s ∧
        (l.foldl (fun c e => c.events e.1 e.2) c).t = c.t ∧ (l.foldl (fun c e => c.events e.1 e.2) c).ref = c.ref := by
    intro l
    induction l with
    | nil => intro c; exact ⟨rfl, rfl, rfl⟩
    | cons p r ih => intro c; exact ih (c.events p.1 p.2)
  unfold Ctx.fresult Ctx.counted
  generalize c.lanes d = ls
  induction ls generalizing c with
  | nil => rfl
  | cons l r ih =>
    have hw := Ctx.wr_writes c d n l (f l).1
    have hl : (c.wr d n l (f l).1).t.launch = c.t.launch := by simpa [Team.bare] using congrArg Team.launch hw.t
    have hi : (c.wr d n l (f l).1).t.idx = c.t.idx := by simpa [Team.bare] using congrArg Team.idx hw.t
    obtain ⟨e1, e2, e3⟩ := ev (f l).2 (c.wr d n l (f l).1)
    rw [List.flatMap_cons, List.foldl_append]
    refine (ih _).trans ?_
    rw [e1, e2, e3, hl, hi, hw.ref, hw.s]

/-- Lanes without events leave the device alone. -/
theorem Ctx.counted_quiet (c : Ctx) (ls : List Nat) (ev : Nat → List (Nat × List Nat)) (h : ∀ l, ∀ p ∈ ev l, p.2 = []) :
    c.counted ls ev = c.s := by
  unfold Ctx.counted
  have key : ∀ (l : List (Nat × List Nat)) (s : State), (∀ p ∈ l, p.2 = []) →
      l.foldl (fun s p => s.countEv c.t.launch c.t.idx c.ref.group p.1 p.2) s = s := by
    intro l
    induction l with
    | nil => intro s _; rfl
    | cons p r ih =>
      intro s hp
      rw [List.foldl_cons, hp p List.mem_cons_self]
      exact ih _ fun q hq => hp q (List.mem_cons_of_mem _ hq)
  refine key _ _ fun p hp => ?_
  obtain ⟨l, _, hl⟩ := List.mem_flatMap.mp hp
  exact h l p hl

/-- A body that writes a run in the lanes of the destination, with events, from a context whose latch alone differs: everything it does. -/
theorem run_wrote {i : Instr} {s : State} {c : Ctx} {body : Ctx → Ctx} {k : Option Latch} {d : Reg} {n : Nat}
    {f : Nat → Nat × List (Nat × List Nat)} (h : Issues i s c) (hr : c.room (136 * n)) (hs : ∀ q, d = .s q → q.val + n ≤ 31)
    (hb : body (c.advance i) = (({ c with g := { c.g with latch := k } } : Ctx).advance i).fresult d n f) :
    ∃ e : Ctx, plain i body s = .next e.commit ∧
      Wrote i c e (c.counted (c.lanes d) fun l => (f l).2) k (written c d n fun l => (f l).1) := by
  have hk : c.Local (({ c with g := { c.g with latch := k } } : Ctx).advance i) := ⟨.refl _, rfl, rfl⟩
  have hc := Ctx.fresult_counts (({ c with g := { c.g with latch := k } } : Ctx).advance i) d n f
  refine ⟨(({ c with g := { c.g with latch := k } } : Ctx).advance i).fresult d n f, ?_, ?_⟩
  · rw [plain_ok h hr (n := 136 * n) (body := body), hb]
    · rw [hb]; exact hk.trans hc.local
    · rw [hb]; exact Ctx.fresult_logged _ _ _ _
  · constructor
    · exact Ctx.fresult_s _ _ _ _
    · exact hc.ref
    · exact hc.t
    · exact hc.f
    · have := congrArg Group.latch hc.g
      simpa [Group.bare] using this
    · intro b m hb hm
      rw [Ctx.fresult_g]
      refine (Ctx.result_getId _ d n _ ?_ hb hm hs).trans (written_congr (fun _ _ => rfl) rfl rfl _ _ _ _ _)
      exact h.lanesOk
    · have := congrArg Group.still hc.g
      simpa [Group.bare, Group.still] using this

/-- The same without events. -/
theorem run_wrote_quiet {i : Instr} {s : State} {c : Ctx} {body : Ctx → Ctx} {k : Option Latch} {d : Reg} {n : Nat} {f : Nat → Nat}
    (h : Issues i s c) (hr : c.room (136 * n)) (hs : ∀ q, d = .s q → q.val + n ≤ 31)
    (hb : body (c.advance i) = (({ c with g := { c.g with latch := k } } : Ctx).advance i).result d n f) :
    ∃ e : Ctx, plain i body s = .next e.commit ∧ Wrote i c e c.s k (written c d n f) := by
  obtain ⟨e, h1, h2⟩ := run_wrote (f := fun l => (f l, [])) h hr hs hb
  rw [Ctx.counted_quiet _ _ _ (by simp)] at h2
  exact ⟨e, h1, h2⟩

/-- A row that reads a through the latch and writes a run with events: everything it does. -/
theorem fresult_spec {i : Instr} {s : State} {c : Ctx} {body : Ctx → Ctx} {r : Bool} {a d : Reg} {na n : Nat}
    {f : (Nat → Nat) → Nat → Nat × List (Nat × List Nat)} (h : Issues i s c) (hr : c.room (136 * n))
    (hs : ∀ k, d = .s k → k.val + n ≤ 31)
    (hb : body (c.advance i) = ((c.advance i).readA r a na).1.fresult d n (f ((c.advance i).readA r a na).2)) :
    ∃ e : Ctx, plain i body s = .next e.commit ∧
      Wrote i c e (c.counted (c.lanes d) fun l => (f (c.readA r a na).2 l).2) (c.readA r a na).1.g.latch
        (written c d n fun l => (f (c.readA r a na).2 l).1) := by
  obtain ⟨h1, h2⟩ := c.readA_advance i r a na
  obtain ⟨k, hk⟩ := c.readA_fst r a na
  have hl : (c.readA r a na).1.g.latch = k := by rw [hk]
  rw [hl]
  refine run_wrote h hr hs ?_
  rw [hb, h1, h2, hk]

/-- The same without events. -/
theorem result_spec {i : Instr} {s : State} {c : Ctx} {body : Ctx → Ctx} {r : Bool} {a d : Reg} {na n : Nat}
    {f : (Nat → Nat) → Nat → Nat} (h : Issues i s c) (hr : c.room (136 * n)) (hs : ∀ k, d = .s k → k.val + n ≤ 31)
    (hb : body (c.advance i) = ((c.advance i).readA r a na).1.result d n (f ((c.advance i).readA r a na).2)) :
    ∃ e : Ctx, plain i body s = .next e.commit ∧
      Wrote i c e c.s (c.readA r a na).1.g.latch (written c d n (f (c.readA r a na).2)) := by
  obtain ⟨e, h1, h2⟩ := fresult_spec (f := fun rd l => (f rd l, [])) h hr hs hb
  rw [Ctx.counted_quiet _ _ _ (by simp)] at h2
  exact ⟨e, h1, h2⟩

end Sys2Proof.Machine
end

