-- ==== Sys2Proof/Laws/PerInstr.lean ====
section
/-!
SUPPORT. The words of each instruction, one lemma per constructor: every word has 32 bits, and the class of the first word alone tells how
many there are (R73); an event has none.
-/
namespace Sys2Proof.Laws.Words

/-- Words that a program can hold: 32 bits each, as many as the first one's class says. -/
def Fit (l : List Nat) : Prop := (∀ w ∈ l, w < 4294967296) ∧ (∀ w ∈ l.head?, l.length = wordCount w)

def Statement (i : Instr) : Prop := Fit (encode i)

theorem fit_nil : Fit [] := by simp [Fit]

theorem reg_lt (r : Reg) : r.toNat < 128 := by cases r <;> simp only [Reg.toNat] <;> omega
theorem bit_lt (b : Bool) : bit b < 2 := by cases b <;> decide
theorem ty_lt (t : Ty) : t.toNat < 8 := by cases t <;> decide
theorem numTy_lt (t : NumTy) : t.toNat < 14 := by cases t <;> decide
theorem rm_lt (m : Rm) : m.toNat < 8 := by cases m <;> decide
theorem cond_lt (c : Cond) : c.toNat < 8 := by cases c <;> decide
theorem condI_lt (c : CondI) : c.toNat < 8 := by cases c <;> decide
theorem braMode_lt (m : BraMode) : m.toNat < 4 := by cases m <;> decide
theorem shflMode_lt (m : ShflMode) : m.toNat < 8 := by cases m <;> decide
theorem redOp_lt (p : RedOp) : p.toNat < 8 := by cases p <;> decide
theorem voteMode_lt (m : VoteMode) : m.toNat < 8 := by cases m <;> decide
theorem trnSize_lt (m : TrnSize) : m.toNat < 8 := by cases m <;> decide
theorem dotMode_lt (m : DotMode) : m.toNat < 8 := by cases m <;> decide
theorem runW_lt (w : RunW) : w.toNat < 4 := by cases w <;> decide
theorem elSz_lt (z : ElSz) : z.toNat < 4 := by cases z <;> decide
theorem sem_lt (s : Sem) : s.toNat < 8 := by cases s <;> decide
theorem scope_lt (s : Scope) : s.toNat < 8 := by cases s <;> decide
theorem atomOp_lt (p : AtomOp) : p.toNat < 16 := by cases p <;> decide
theorem role_lt (r : Role) : r.toNat < 4 := by cases r <;> decide
theorem pmovMode_lt (m : PmovMode) : m.toNat < 4 := by cases m <;> decide
theorem blockFmt_lt (f : BlockFmt) : f.toNat < 256 := by cases f <;> decide
theorem wideW_lt (b : Bool) : wideW b < 4 := by cases b <;> decide
theorem wideSz_lt (b : Bool) : wideSz b < 4 := by cases b <;> decide

/-- A one-word instruction of a class below 11. -/
theorem fit_one {w : Nat} (h : w < 3221225472) : Fit [w] := by
  refine ⟨fun x hx => ?_, fun x hx => ?_⟩
  · simp only [List.mem_singleton] at hx; omega
  · simp only [List.head?, Option.mem_def, Option.some.injEq] at hx
    subst hx
    have h3 : ¬ bits w 30 2 = 3 := by unfold bits; omega
    rw [wordCount, if_neg h3]; rfl

theorem fit_00 {op ty d a b r : Nat} (h1 : op < 32) (h2 : ty < 8) (h3 : d < 128) (h4 : a < 128) (h5 : b < 128) (h6 : r < 2) :
    Fit (enc00 op ty d a b r) := fit_one (by omega)

theorem fit_01 {op d a imm : Nat} (h1 : op < 32) (h2 : d < 128) (h3 : a < 128) (h4 : imm < 2048) : Fit (enc01 op d a imm) :=
  fit_one (by omega)

theorem fit_10 {op d a w sz sc x : Nat} (h1 : op < 32) (h2 : d < 128) (h3 : a < 128) (h4 : w < 4) (h5 : sz < 4) (h6 : sc < 8)
    (h7 : x < 16) : Fit (enc10 op d a w sz sc x) := fit_one (by omega)

/-- A class 11 instruction has two words. -/
theorem fit_11 {op d a b f e : Nat} (h1 : op < 64) (h2 : d < 128) (h3 : a < 128) (h4 : b < 128) (h5 : f < 8) (h6 : e < 4294967296) :
    Fit (enc11 op d a b f e) := by
  refine ⟨fun x hx => ?_, fun x hx => ?_⟩
  · simp only [enc11, List.mem_cons, List.not_mem_nil, or_false] at hx; omega
  · simp only [enc11, List.head?, Option.mem_def, Option.some.injEq] at hx
    subst hx
    have h3 : bits (3221225472 + op * 16777216 + d * 131072 + a * 1024 + b * 8 + f) 30 2 = 3 := by unfold bits; omega
    rw [wordCount, if_pos h3]; rfl

/-! ### The shared forms -/

theorem fit_alu3 (o : Alu3) {op : Nat} (h : op < 32) : Fit (o.enc op) := by
  have := ty_lt o.ty
  have := reg_lt o.d
  have := reg_lt o.a
  have := reg_lt o.b
  have := bit_lt o.r
  exact fit_00 (by omega) (by omega) (by omega) (by omega) (by omega) (by omega)

theorem fit_alu2 (o : Alu2) {fn : Nat} (h : fn < 128) : Fit (o.enc fn) := by
  have := ty_lt o.ty
  have := reg_lt o.d
  have := reg_lt o.a
  have := bit_lt o.r
  exact fit_00 (by omega) (by omega) (by omega) (by omega) (by omega) (by omega)

theorem fit_selOps (o : SelOps) {op : Nat} (h : op < 32) : Fit (o.enc op) := by
  have := reg_lt o.d
  have := reg_lt o.a
  have := reg_lt o.b
  have := o.p.isLt
  have := bit_lt o.r
  exact fit_00 (by omega) (by omega) (by omega) (by omega) (by omega) (by omega)

theorem fit_immOps (o : ImmOps) {op : Nat} (h : op < 32) : Fit (o.enc op) := by
  have := reg_lt o.d
  have := reg_lt o.a
  have := o.imm.isLt
  exact fit_01 (by omega) (by omega) (by omega) (by omega)

theorem fit_shImmOps (o : ShImmOps) {op : Nat} (h : op < 32) : Fit (o.enc op) := by
  have := reg_lt o.d
  have := reg_lt o.a
  have := o.amt.isLt
  exact fit_01 (by omega) (by omega) (by omega) (by omega)

theorem fit_memOps (o : MemOps) {op : Nat} (h : op < 32) : Fit (o.enc op) := by
  have := reg_lt o.d
  have := reg_lt o.a
  have := runW_lt o.w
  have := elSz_lt o.sz
  have := sem_lt o.sc
  have := o.x.isLt
  exact fit_10 (by omega) (by omega) (by omega) (by omega) (by omega) (by omega) (by omega)

theorem fit_atomOps (o : AtomOps) {op : Nat} (h : op < 32) : Fit (o.enc op) := by
  have := reg_lt o.d
  have := reg_lt o.a
  have := scope_lt o.sc
  have := atomOp_lt o.op
  have := wideW_lt o.wide
  have := wideSz_lt o.wide
  exact fit_10 (by omega) (by omega) (by omega) (by omega) (by omega) (by omega) (by omega)

theorem fit_remOps (o : RemOps) {op : Nat} (h : op < 64) : Fit (o.enc op) := by
  have := reg_lt o.d
  have := reg_lt o.a
  have := reg_lt o.b
  have := runW_lt o.w
  have := elSz_lt o.sz
  have := sem_lt o.sc
  exact fit_11 (by omega) (by omega) (by omega) (by omega) (by omega) (by omega)

theorem fit_casOps (o : CasOps) {op : Nat} (h : op < 64) : Fit (o.enc op) := by
  have := reg_lt o.d
  have := reg_lt o.a
  have := scope_lt o.sc
  have := wideSz_lt o.wide
  exact fit_11 (by omega) (by omega) (by omega) (by omega) (by omega) (by omega)

theorem fit_accOps (o : AccOps) {op : Nat} (h : op < 64) : Fit (o.enc op) := by
  have := reg_lt o.a
  have := reg_lt o.b
  have := o.tile.isLt
  exact fit_11 (by omega) (by omega) (by omega) (by omega) (by omega) (by omega)

theorem fit_bfOps (o : BfOps) {op : Nat} (h : op < 64) : Fit (o.enc op) := by
  have := reg_lt o.d
  have := reg_lt o.a
  have := rm_lt o.rm
  have := blockFmt_lt o.fmt
  have := bit_lt o.two
  exact fit_11 (by omega) (by omega) (by omega) (by omega) (by omega) (by omega)

theorem fit_18 {op d : Nat} (v : BitVec 18) (h1 : op < 32) (h2 : d < 128) : Fit (enc18 op d v) := by
  have := v.isLt
  exact fit_01 (by omega) (by omega) (by omega) (by omega)

theorem waitc_lt (o : WaitcOps) : o.toNat < 16777216 := by
  have := o.rm.isLt
  have := o.es.isLt
  have := o.co.isLt
  have := o.ga.isLt
  have := o.mx.isLt
  have := o.cp.isLt
  have := o.st.isLt
  have := o.ld.isLt
  simp only [WaitcOps.toNat]
  omega

/-! ### One lemma per constructor -/

theorem add (o : Alu3) : Statement (.add o) := fit_alu3 o (by decide)
theorem sub (o : Alu3) : Statement (.sub o) := fit_alu3 o (by decide)
theorem mul (o : Alu3) : Statement (.mul o) := fit_alu3 o (by decide)
theorem mulh (o : Alu3) : Statement (.mulh o) := fit_alu3 o (by decide)
theorem fma (o : Alu3) : Statement (.fma o) := fit_alu3 o (by decide)
theorem min (o : Alu3) : Statement (.min o) := fit_alu3 o (by decide)
theorem max (o : Alu3) : Statement (.max o) := fit_alu3 o (by decide)
theorem and (o : Alu3) : Statement (.and o) := fit_alu3 o (by decide)
theorem or (o : Alu3) : Statement (.or o) := fit_alu3 o (by decide)
theorem xor (o : Alu3) : Statement (.xor o) := fit_alu3 o (by decide)
theorem andn (o : Alu3) : Statement (.andn o) := fit_alu3 o (by decide)
theorem shl (o : Alu3) : Statement (.shl o) := fit_alu3 o (by decide)
theorem shr (o : Alu3) : Statement (.shr o) := fit_alu3 o (by decide)
theorem rot (o : Alu3) : Statement (.rot o) := fit_alu3 o (by decide)
theorem cmp (o : CmpOps) : Statement (.cmp o) := by
  have := ty_lt o.ty
  have := cond_lt o.c
  have := reg_lt o.a
  have := reg_lt o.b
  have := o.p.isLt
  have := bit_lt o.r
  exact fit_00 (by omega) (by omega) (by omega) (by omega) (by omega) (by omega)
theorem sel (o : SelOps) : Statement (.sel o) := fit_selOps o (by decide)
theorem cvt (o : CvtOps) : Statement (.cvt o) := by
  have := numTy_lt o.dt
  have := reg_lt o.d
  have := reg_lt o.a
  have := numTy_lt o.st
  have := rm_lt o.rm
  exact fit_00 (by omega) (by omega) (by omega) (by omega) (by omega) (by omega)
theorem div (o : Alu3) : Statement (.div o) := fit_alu3 o (by decide)
theorem rem (o : Alu3) : Statement (.rem o) := fit_alu3 o (by decide)
theorem abs (o : Alu2) : Statement (.abs o) := fit_alu2 o (by decide)
theorem neg (o : Alu2) : Statement (.neg o) := fit_alu2 o (by decide)
theorem not (o : Alu2) : Statement (.not o) := fit_alu2 o (by decide)
theorem popc (o : Alu2) : Statement (.popc o) := fit_alu2 o (by decide)
theorem clz (o : Alu2) : Statement (.clz o) := fit_alu2 o (by decide)
theorem brev (o : Alu2) : Statement (.brev o) := fit_alu2 o (by decide)
theorem sqrt (o : Alu2) : Statement (.sqrt o) := fit_alu2 o (by decide)
theorem rcp (o : Alu2) : Statement (.rcp o) := fit_alu2 o (by decide)
theorem rsq (o : Alu2) : Statement (.rsq o) := fit_alu2 o (by decide)
theorem ex2 (o : Alu2) : Statement (.ex2 o) := fit_alu2 o (by decide)
theorem lg2 (o : Alu2) : Statement (.lg2 o) := fit_alu2 o (by decide)
theorem sin (o : Alu2) : Statement (.sin o) := fit_alu2 o (by decide)
theorem cos (o : Alu2) : Statement (.cos o) := fit_alu2 o (by decide)
theorem tanh (o : Alu2) : Statement (.tanh o) := fit_alu2 o (by decide)
theorem rndiRn (o : Alu2) : Statement (.rndiRn o) := fit_alu2 o (by decide)
theorem rndiRz (o : Alu2) : Statement (.rndiRz o) := fit_alu2 o (by decide)
theorem rndiRd (o : Alu2) : Statement (.rndiRd o) := fit_alu2 o (by decide)
theorem rndiRu (o : Alu2) : Statement (.rndiRu o) := fit_alu2 o (by decide)
theorem fclass (o : Alu2) : Statement (.fclass o) := fit_alu2 o (by decide)
theorem bfe (o : Alu3) : Statement (.bfe o) := fit_alu3 o (by decide)
theorem bfi (o : Alu3) : Statement (.bfi o) := fit_alu3 o (by decide)
theorem lea (o : LeaOps) : Statement (.lea o) := by
  have := reg_lt o.d
  have := reg_lt o.a
  have := reg_lt o.b
  have := o.sh.isLt
  have := bit_lt o.r
  exact fit_00 (by omega) (by omega) (by omega) (by omega) (by omega) (by omega)
theorem mov (o : MovOps) : Statement (.mov o) := by
  have := runW_lt o.w
  have := reg_lt o.d
  have := reg_lt o.a
  have := bit_lt o.r
  exact fit_00 (by omega) (by omega) (by omega) (by omega) (by omega) (by omega)
theorem shfl (o : ShflOps) : Statement (.shfl o) := by
  have := shflMode_lt o.m
  have := reg_lt o.d
  have := reg_lt o.a
  have := reg_lt o.b
  have := bit_lt o.r
  exact fit_00 (by omega) (by omega) (by omega) (by omega) (by omega) (by omega)
theorem reduce (o : ReduceOps) : Statement (.reduce o) := by
  have := ty_lt o.ty
  have := reg_lt o.d
  have := reg_lt o.a
  have := redOp_lt o.op
  have := bit_lt o.r
  exact fit_00 (by omega) (by omega) (by omega) (by omega) (by omega) (by omega)
theorem scan (o : ScanOps) : Statement (.scan o) := by
  have := ty_lt o.ty
  have := reg_lt o.d
  have := reg_lt o.a
  have := redOp_lt o.op
  have := bit_lt o.excl
  have := bit_lt o.r
  exact fit_00 (by omega) (by omega) (by omega) (by omega) (by omega) (by omega)
theorem vote (o : VoteOps) : Statement (.vote o) := by
  have := voteMode_lt o.m
  have := reg_lt o.d
  have := o.p.isLt
  exact fit_00 (by omega) (by omega) (by omega) (by omega) (by omega) (by omega)
theorem compress (o : SelOps) : Statement (.compress o) := fit_selOps o (by decide)
theorem expand (o : SelOps) : Statement (.expand o) := fit_selOps o (by decide)
theorem trn8 (o : Trn8Ops) : Statement (.trn8 o) := by
  have := trnSize_lt o.m
  have := reg_lt o.d
  have := reg_lt o.a
  have := bit_lt o.r
  exact fit_00 (by omega) (by omega) (by omega) (by omega) (by omega) (by omega)
theorem dot4 (o : Dot4Ops) : Statement (.dot4 o) := by
  have := dotMode_lt o.m
  have := reg_lt o.d
  have := reg_lt o.a
  have := reg_lt o.b
  have := bit_lt o.r
  exact fit_00 (by omega) (by omega) (by omega) (by omega) (by omega) (by omega)
theorem addi (o : ImmOps) : Statement (.addi o) := fit_immOps o (by decide)
theorem andi (o : ImmOps) : Statement (.andi o) := fit_immOps o (by decide)
theorem ori (o : ImmOps) : Statement (.ori o) := fit_immOps o (by decide)
theorem xori (o : ImmOps) : Statement (.xori o) := fit_immOps o (by decide)
theorem shli (o : ShImmOps) : Statement (.shli o) := fit_shImmOps o (by decide)
theorem shri (o : ShImmOps) : Statement (.shri o) := fit_shImmOps o (by decide)
theorem sari (o : ShImmOps) : Statement (.sari o) := fit_shImmOps o (by decide)
theorem cmpi (o : CmpiOps) : Statement (.cmpi o) := by
  have := condI_lt o.c
  have := reg_lt o.a
  have := o.imm.isLt
  have := o.p.isLt
  exact fit_01 (by omega) (by omega) (by omega) (by omega)
theorem movi (d : Reg) (imm : BitVec 18) : Statement (.movi d imm) := by
  have := reg_lt d
  exact fit_18 imm (by omega) (by omega)
theorem bra (o : BraOps) : Statement (.bra o) := by
  have := braMode_lt o.m
  have := o.p.isLt
  exact fit_18 o.off (by omega) (by omega)
theorem call (d : Reg) (off : BitVec 18) : Statement (.call d off) := by
  have := reg_lt d
  exact fit_18 off (by omega) (by omega)
theorem regang : Statement .regang := fit_01 (by decide) (by decide) (by decide) (by decide)
theorem guard (o : GuardOps) : Statement (.guard o) := by
  have := o.cnt.isLt
  have := o.p.isLt
  have := bit_lt o.neg
  exact fit_01 (by omega) (by omega) (by omega) (by omega)
theorem winb (base : BitVec 4) : Statement (.winb base) := by
  have := base.isLt
  exact fit_01 (by omega) (by omega) (by omega) (by omega)
theorem exit : Statement .exit := fit_01 (by decide) (by decide) (by decide) (by decide)
theorem trap (imm : BitVec 11) : Statement (.trap imm) := by
  have := imm.isLt
  exact fit_01 (by omega) (by omega) (by omega) (by omega)
theorem nop : Statement .nop := fit_01 (by decide) (by decide) (by decide) (by decide)
theorem get (d : Reg) (n : BitVec 11) : Statement (.get d n) := by
  have := reg_lt d
  have := n.isLt
  exact fit_01 (by omega) (by omega) (by omega) (by omega)
theorem put (a : Reg) (n : BitVec 11) : Statement (.put a n) := by
  have := reg_lt a
  have := n.isLt
  exact fit_01 (by omega) (by omega) (by omega) (by omega)
theorem plop (o : PlopOps) : Statement (.plop o) := by
  have := o.tt.isLt
  have := o.pd.isLt
  have := o.pa.isLt
  have := o.pb.isLt
  exact fit_01 (by omega) (by omega) (by omega) (by omega)
theorem pmov (o : PmovOps) : Statement (.pmov o) := by
  have := reg_lt o.d
  have := reg_lt o.a
  have := pmovMode_lt o.m
  have := o.p.isLt
  exact fit_01 (by omega) (by omega) (by omega) (by omega)
theorem rqxfer (o : RqxferOps) : Statement (.rqxfer o) := by
  have := role_lt o.src
  have := role_lt o.dst
  have := o.cnt.isLt
  exact fit_01 (by omega) (by omega) (by omega) (by omega)
theorem waitc (o : WaitcOps) : Statement (.waitc o) := by
  have := waitc_lt o
  exact fit_01 (by omega) (by omega) (by omega) (by omega)
theorem ret (a : Reg) : Statement (.ret a) := by
  have := reg_lt a
  exact fit_01 (by omega) (by omega) (by omega) (by omega)
theorem brx (a : Reg) (imm : BitVec 11) : Statement (.brx a imm) := by
  have := reg_lt a
  have := imm.isLt
  exact fit_01 (by omega) (by omega) (by omega) (by omega)
theorem rft : Statement .rft := fit_01 (by decide) (by decide) (by decide) (by decide)
theorem ld (o : MemOps) : Statement (.ld o) := fit_memOps o (by decide)
theorem st (o : MemOps) : Statement (.st o) := fit_memOps o (by decide)
theorem lds (o : MemOps) : Statement (.lds o) := fit_memOps o (by decide)
theorem sts (o : MemOps) : Statement (.sts o) := fit_memOps o (by decide)
theorem ldp (o : MemOps) : Statement (.ldp o) := fit_memOps o (by decide)
theorem stp (o : MemOps) : Statement (.stp o) := fit_memOps o (by decide)
theorem atom (o : AtomOps) : Statement (.atom o) := fit_atomOps o (by decide)
theorem red (o : AtomOps) : Statement (.red o) := fit_atomOps o (by decide)
theorem atoms (o : AtomOps) : Statement (.atoms o) := fit_atomOps o (by decide)
theorem pref (a : Reg) : Statement (.pref a) := by
  have := reg_lt a
  exact fit_10 (by omega) (by omega) (by omega) (by omega) (by omega) (by omega) (by omega)
theorem cctlLine (a : Reg) : Statement (.cctlLine a) := by
  have := reg_lt a
  exact fit_10 (by omega) (by omega) (by omega) (by omega) (by omega) (by omega) (by omega)
theorem cctlAll : Statement .cctlAll := fit_10 (by decide) (by decide) (by decide) (by decide) (by decide) (by decide) (by decide)
theorem fenceFull (sc : Scope) : Statement (.fenceFull sc) := by
  have := scope_lt sc
  exact fit_10 (by omega) (by omega) (by omega) (by omega) (by omega) (by omega) (by omega)
theorem fenceAcq (sc : Scope) : Statement (.fenceAcq sc) := by
  have := scope_lt sc
  exact fit_10 (by omega) (by omega) (by omega) (by omega) (by omega) (by omega) (by omega)
theorem fenceRel (sc : Scope) : Statement (.fenceRel sc) := by
  have := scope_lt sc
  exact fit_10 (by omega) (by omega) (by omega) (by omega) (by omega) (by omega) (by omega)
theorem phasePub (sc : Scope) : Statement (.phasePub sc) := by
  have := scope_lt sc
  exact fit_10 (by omega) (by omega) (by omega) (by omega) (by omega) (by omega) (by omega)
theorem phaseRef (sc : Scope) : Statement (.phaseRef sc) := by
  have := scope_lt sc
  exact fit_10 (by omega) (by omega) (by omega) (by omega) (by omega) (by omega) (by omega)
theorem phaseBoth (sc : Scope) : Statement (.phaseBoth sc) := by
  have := scope_lt sc
  exact fit_10 (by omega) (by omega) (by omega) (by omega) (by omega) (by omega) (by omega)
theorem phasePubDur (sc : Scope) : Statement (.phasePubDur sc) := by
  have := scope_lt sc
  exact fit_10 (by omega) (by omega) (by omega) (by omega) (by omega) (by omega) (by omega)
theorem barinit (d : Reg) (a : Reg) : Statement (.barinit d a) := by
  have := reg_lt d
  have := reg_lt a
  exact fit_10 (by omega) (by omega) (by omega) (by omega) (by omega) (by omega) (by omega)
theorem bararr (a : Reg) : Statement (.bararr a) := by
  have := reg_lt a
  exact fit_10 (by omega) (by omega) (by omega) (by omega) (by omega) (by omega) (by omega)
theorem barexp (d : Reg) (a : Reg) : Statement (.barexp d a) := by
  have := reg_lt d
  have := reg_lt a
  exact fit_10 (by omega) (by omega) (by omega) (by omega) (by omega) (by omega) (by omega)
theorem barwait (d : Reg) (a : Reg) : Statement (.barwait d a) := by
  have := reg_lt d
  have := reg_lt a
  exact fit_10 (by omega) (by omega) (by omega) (by omega) (by omega) (by omega) (by omega)
theorem bartest (d : Reg) (a : Reg) : Statement (.bartest d a) := by
  have := reg_lt d
  have := reg_lt a
  exact fit_10 (by omega) (by omega) (by omega) (by omega) (by omega) (by omega) (by omega)
theorem barbrk (a : Reg) : Statement (.barbrk a) := by
  have := reg_lt a
  exact fit_10 (by omega) (by omega) (by omega) (by omega) (by omega) (by omega) (by omega)
theorem armw (d : Reg) (a : Reg) : Statement (.armw d a) := by
  have := reg_lt d
  have := reg_lt a
  exact fit_10 (by omega) (by omega) (by omega) (by omega) (by omega) (by omega) (by omega)
theorem cpyp (d : Reg) : Statement (.cpyp d) := by
  have := reg_lt d
  exact fit_10 (by omega) (by omega) (by omega) (by omega) (by omega) (by omega) (by omega)
theorem claim (o : ClaimOps) : Statement (.claim o) := by
  have := reg_lt o.a
  have := runW_lt o.w
  have := elSz_lt o.sz
  have := o.loop.isLt
  exact fit_10 (by omega) (by omega) (by omega) (by omega) (by omega) (by omega) (by omega)
theorem wave (p : Fin 8) (loop : Fin 8) : Statement (.wave p loop) := by
  have := p.isLt
  have := loop.isLt
  exact fit_10 (by omega) (by omega) (by omega) (by omega) (by omega) (by omega) (by omega)
theorem rloop (a : Reg) (free : Bool) (loop : Fin 8) : Statement (.rloop a free loop) := by
  have := reg_lt a
  have := loop.isLt
  have := bit_lt free
  exact fit_10 (by omega) (by omega) (by omega) (by omega) (by omega) (by omega) (by omega)
theorem rlitem (d : Reg) (loop : Fin 8) : Statement (.rlitem d loop) := by
  have := reg_lt d
  have := loop.isLt
  exact fit_10 (by omega) (by omega) (by omega) (by omega) (by omega) (by omega) (by omega)
theorem rldone (loop : Fin 8) : Statement (.rldone loop) := by
  have := loop.isLt
  exact fit_10 (by omega) (by omega) (by omega) (by omega) (by omega) (by omega) (by omega)
theorem movl (d : Reg) (lit : Word) : Statement (.movl d lit) := by
  have := reg_lt d
  have := lit.isLt
  exact fit_11 (by omega) (by omega) (by omega) (by omega) (by omega) (by omega)
theorem lde (o : LdeOps) : Statement (.lde o) := by
  have := reg_lt o.d
  have := reg_lt o.a
  have := reg_lt o.b
  have := sem_lt o.sc
  have := runW_lt o.w
  have := elSz_lt o.sz
  have := o.mask.isLt
  have := o.sp.isLt
  exact fit_11 (by omega) (by omega) (by omega) (by omega) (by omega) (by omega)
theorem atome (o : AtomeOps) : Statement (.atome o) := by
  have := reg_lt o.d
  have := reg_lt o.a
  have := reg_lt o.b
  have := atomOp_lt o.op
  have := o.mask.isLt
  have := o.sp.isLt
  have := wideW_lt o.wide
  have := wideSz_lt o.wide
  exact fit_11 (by omega) (by omega) (by omega) (by omega) (by omega) (by omega)
theorem rld (o : RemOps) : Statement (.rld o) := fit_remOps o (by decide)
theorem rst (o : RemOps) : Statement (.rst o) := fit_remOps o (by decide)
theorem ratom (o : RatomOps) : Statement (.ratom o) := by
  have := reg_lt o.d
  have := reg_lt o.a
  have := reg_lt o.b
  have := atomOp_lt o.op
  have := scope_lt o.sc
  have := wideW_lt o.wide
  have := wideSz_lt o.wide
  exact fit_11 (by omega) (by omega) (by omega) (by omega) (by omega) (by omega)
theorem rflush (b : Reg) : Statement (.rflush b) := by
  have := reg_lt b
  exact fit_11 (by omega) (by omega) (by omega) (by omega) (by omega) (by omega)
theorem rfencef (d : Reg) (a : Reg) (b : Reg) : Statement (.rfencef d a b) := by
  have := reg_lt d
  have := reg_lt a
  have := reg_lt b
  exact fit_11 (by omega) (by omega) (by omega) (by omega) (by omega) (by omega)
theorem cas (o : CasOps) : Statement (.cas o) := fit_casOps o (by decide)
theorem cass (o : CasOps) : Statement (.cass o) := fit_casOps o (by decide)
theorem mma (o : MmaOps) : Statement (.mma o) := by
  have := reg_lt o.a
  have := reg_lt o.b
  have := reg_lt o.nreg
  have := reg_lt o.fmt
  have := o.tile.isLt
  have := bit_lt o.zf
  have := bit_lt o.t
  have := bit_lt o.r
  have := bit_lt o.sat
  exact fit_11 (by omega) (by omega) (by omega) (by omega) (by omega) (by omega)
theorem accld (o : AccOps) : Statement (.accld o) := fit_accOps o (by decide)
theorem accst (o : AccOps) : Statement (.accst o) := fit_accOps o (by decide)
theorem accz (tile : Fin 16) : Statement (.accz tile) := by
  have := tile.isLt
  exact fit_11 (by omega) (by omega) (by omega) (by omega) (by omega) (by omega)
theorem bfpack (o : BfOps) : Statement (.bfpack o) := fit_bfOps o (by decide)
theorem bfunpk (o : BfOps) : Statement (.bfunpk o) := fit_bfOps o (by decide)
theorem gath (d : Reg) : Statement (.gath d) := by
  have := reg_lt d
  exact fit_11 (by omega) (by omega) (by omega) (by omega) (by omega) (by omega)
theorem coll (d : Reg) : Statement (.coll d) := by
  have := reg_lt d
  exact fit_11 (by omega) (by omega) (by omega) (by omega) (by omega) (by omega)
theorem rshard (d : Reg) : Statement (.rshard d) := by
  have := reg_lt d
  exact fit_11 (by omega) (by omega) (by omega) (by omega) (by omega) (by omega)
theorem sealo (d : Reg) (a : Reg) : Statement (.sealo d a) := by
  have := reg_lt d
  have := reg_lt a
  exact fit_11 (by omega) (by omega) (by omega) (by omega) (by omega) (by omega)
theorem seala (a : Reg) : Statement (.seala a) := by
  have := reg_lt a
  exact fit_11 (by omega) (by omega) (by omega) (by omega) (by omega) (by omega)
theorem sealc (a : Reg) (b : Reg) : Statement (.sealc a b) := by
  have := reg_lt a
  have := reg_lt b
  exact fit_11 (by omega) (by omega) (by omega) (by omega) (by omega) (by omega)
theorem lnch (d : Reg) (a : Reg) (q : BitVec 6) : Statement (.lnch d a q) := by
  have := reg_lt d
  have := reg_lt a
  have := q.isLt
  exact fit_11 (by omega) (by omega) (by omega) (by omega) (by omega) (by omega)
theorem launchRecord (vf : Nat) (q : Nat) (bytes : List Byte) (wire : List Byte) : Statement (.launchRecord vf q bytes wire) := fit_nil
theorem deviceMemoryWrite (vf : Nat) (va : VAddr) (data : List Byte) (wire : List Byte) : Statement (.deviceMemoryWrite vf va data wire) := fit_nil
theorem deviceMemoryReadRequest (vf : Nat) (va : VAddr) (len : Nat) (wire : List Byte) : Statement (.deviceMemoryReadRequest vf va len wire) := fit_nil
theorem hostMemoryReadReply (vf : Nat) (pa : Nat) (data : List Byte) (wire : List Byte) : Statement (.hostMemoryReadReply vf pa data wire) := fit_nil
theorem trapReply (vf : Nat) (token : Nat) (kill : Bool) (wire : List Byte) : Statement (.trapReply vf token kill wire) := fit_nil
theorem killRequest (vf : Nat) (q : Nat) (seq : Nat) (wire : List Byte) : Statement (.killRequest vf q seq wire) := fit_nil
theorem completionCredit (vf : Nat) (n : Nat) : Statement (.completionCredit vf n) := fit_nil
theorem lockInterface (vf : Nat) : Statement (.lockInterface vf) := fit_nil
theorem getDeviceInterfaceReport (vf : Nat) : Statement (.getDeviceInterfaceReport vf) := fit_nil
theorem startInterface (vf : Nat) : Statement (.startInterface vf) := fit_nil
theorem stopInterface (vf : Nat) : Statement (.stopInterface vf) := fit_nil
theorem functionLevelReset (vf : Nat) : Statement (.functionLevelReset vf) := fit_nil
theorem spdmKeyExchange (vf : Nat) (derived : List (Nat × Nat)) : Statement (.spdmKeyExchange vf derived) := fit_nil
theorem qcfgWrite (vf : Nat) (q : Nat) (value : Word) : Statement (.qcfgWrite vf q value) := fit_nil
theorem partitionDescriptorWrite (bytes : List Byte) : Statement (.partitionDescriptorWrite bytes) := fit_nil
theorem routeTableLoad (dest : Nat) (entry : DWord) : Statement (.routeTableLoad dest entry) := fit_nil
theorem mgmtRegisterWrite (reg : MgmtReg) (value : Nat) : Statement (.mgmtRegisterWrite reg value) := fit_nil
theorem teamPlacement (launch : Nat) (cores : List Nat) : Statement (.teamPlacement launch cores) := fit_nil
theorem groupEnd (team : Nat) (group : Nat) : Statement (.groupEnd team group) := fit_nil
theorem teamEnd (team : Nat) : Statement (.teamEnd team) := fit_nil
theorem teamRetire (launch : Nat) : Statement (.teamRetire launch) := fit_nil
theorem escfaultTaken : Statement .escfaultTaken := fit_nil
theorem remoteTrapTaken : Statement .remoteTrapTaken := fit_nil
theorem sliceEnd (part : Nat) : Statement (.sliceEnd part) := fit_nil
theorem throttleReport (part : Nat) (q : QueueReading) : Statement (.throttleReport part q) := fit_nil
theorem contextSwitch (team : Nat) : Statement (.contextSwitch team) := fit_nil
theorem rollback (team : Nat) : Statement (.rollback team) := fit_nil
theorem teamSave (team : Nat) : Statement (.teamSave team) := fit_nil
theorem parktoExpiry (launch : Nat) : Statement (.parktoExpiry launch) := fit_nil
theorem publishComplete (team : Nat) (lines : List Nat) : Statement (.publishComplete team lines) := fit_nil
theorem quietReport (peer : Nat) (team : Nat) (tag : Bool) (count : Nat) : Statement (.quietReport peer team tag count) := fit_nil
theorem quietReportSend (src : Nat) (team : Nat) (tag : Bool) : Statement (.quietReportSend src team tag) := fit_nil
theorem barwaitWake (team : Nat) (group : Nat) (slice : Nat) : Statement (.barwaitWake team group slice) := fit_nil
theorem loadComplete (team : Nat) (group : Nat) (op : Nat) : Statement (.loadComplete team group op) := fit_nil
theorem escortLanding (team : Nat) (group : Nat) (esc : Nat) : Statement (.escortLanding team group esc) := fit_nil
theorem copyEntryTake (core : Nat) : Statement (.copyEntryTake core) := fit_nil
theorem copyEntryComplete (cmd : Nat) : Statement (.copyEntryComplete cmd) := fit_nil
theorem reflectiveStoreLanding (team : Nat) (group : Nat) (op : Nat) (target : Nat) : Statement (.reflectiveStoreLanding team group op target) := fit_nil
theorem mxOperationComplete (core : Nat) : Statement (.mxOperationComplete core) := fit_nil
theorem remoteRequestReceipt (m : Msg) : Statement (.remoteRequestReceipt m) := fit_nil
theorem remoteReply (r : Reply) : Statement (.remoteReply r) := fit_nil
theorem remoteResendTimeout (req : Nat) : Statement (.remoteResendTimeout req) := fit_nil
theorem fabricForward (p : Packet) : Statement (.fabricForward p) := fit_nil
theorem rfencefFlagWrite (req : Nat) : Statement (.rfencefFlagWrite req) := fit_nil
theorem linkFailure (link : Nat) : Statement (.linkFailure link) := fit_nil
theorem linkRetrain (link : Nat) : Statement (.linkRetrain link) := fit_nil
theorem collExecute (found : CollMatch) : Statement (.collExecute found) := fit_nil
theorem collComplete (cmd : Nat) (parts : List PullReply) (fail : Nat) : Statement (.collComplete cmd parts fail) := fit_nil
theorem gathComplete (cmd : Nat) (rows : Nat) : Statement (.gathComplete cmd rows) := fit_nil
theorem rshardStart (cmd : Nat) : Statement (.rshardStart cmd) := fit_nil
theorem rshardChunkComplete (cmd : Nat) (piece : Nat) (chunk : Nat) (data : PullReply) (fail : Nat) : Statement (.rshardChunkComplete cmd piece chunk data fail) := fit_nil
theorem rshardStop (cmd : Nat) : Statement (.rshardStop cmd) := fit_nil
theorem sealaAbsorb (team : Nat) (group : Nat) : Statement (.sealaAbsorb team group) := fit_nil
theorem sealcRecord (team : Nat) (group : Nat) : Statement (.sealcRecord team group) := fit_nil
theorem lnchComplete (team : Nat) (group : Nat) (slice : Nat) : Statement (.lnchComplete team group slice) := fit_nil
theorem sramEccError (loc : SramLoc) (correctable : Bool) : Statement (.sramEccError loc correctable) := fit_nil
theorem cacheEccError (line : Nat) (correctable : Bool) : Statement (.cacheEccError line correctable) := fit_nil
theorem dramEccError (line : Nat) (correctable : Bool) : Statement (.dramEccError line correctable) := fit_nil
theorem verticalBusParityFail (die : Nat) (chan : Nat) (lane : Nat) (retries : Nat) (spareFails : Bool) : Statement (.verticalBusParityFail die chan lane retries spareFails) := fit_nil
theorem nocCrcFail (header : Bool) (payload : Bool) (vf : Nat) (core : Nat) : Statement (.nocCrcFail header payload vf core) := fit_nil
theorem cxlPoison (line : Nat) : Statement (.cxlPoison line) := fit_nil
theorem coreLoss (core : Nat) : Statement (.coreLoss core) := fit_nil
theorem plannedCoreRetirement (core : Nat) : Statement (.plannedCoreRetirement core) := fit_nil
theorem plannedChannelRetirement (die : Nat) (chan : Nat) (ranges : List (Nat × Nat)) : Statement (.plannedChannelRetirement die chan ranges) := fit_nil
theorem channelLoss (die : Nat) (chan : Nat) : Statement (.channelLoss die chan) := fit_nil
theorem dieFailure (die : Nat) : Statement (.dieFailure die) := fit_nil
theorem verticalLaneRecalibration (die : Nat) (chan : Nat) (lane : Nat) : Statement (.verticalLaneRecalibration die chan lane) := fit_nil
theorem imageWrite (engine : Nat) (version : Nat) (sigOk : Bool) : Statement (.imageWrite engine version sigOk) := fit_nil
theorem imageActivation (engine : Nat) (forced : Bool) : Statement (.imageActivation engine forced) := fit_nil
theorem thermalLimit (die : Nat) (above : Bool) : Statement (.thermalLimit die above) := fit_nil
theorem powerOn : Statement .powerOn := fit_nil
theorem timeSliceStart (part : Nat) : Statement (.timeSliceStart part) := fit_nil

end Sys2Proof.Laws.Words
end

