-- ==== Sys2Proof/Laws/State.lean ====
section
/-!
SUPPORT. What each update of the device leaves alone, field by field; what it makes of the record that it changes; and that every operation on
memory keeps the canonical form.
-/
namespace Sys2Proof.Machine

/-! ### modTeam changes `teams` alone -/

@[simp] theorem State.modTeam_devId (s : State) (id : Nat) (f : Team → Team) : (s.modTeam id f).devId = s.devId := rfl
@[simp] theorem State.modTeam_mem (s : State) (id : Nat) (f : Team → Team) : (s.modTeam id f).mem = s.mem := rfl
@[simp] theorem State.modTeam_hist (s : State) (id : Nat) (f : Team → Team) : (s.modTeam id f).hist = s.hist := rfl
@[simp] theorem State.modTeam_ver (s : State) (id : Nat) (f : Team → Team) : (s.modTeam id f).ver = s.ver := rfl
@[simp] theorem State.modTeam_poison (s : State) (id : Nat) (f : Team → Team) : (s.modTeam id f).poison = s.poison := rfl
@[simp] theorem State.modTeam_cache (s : State) (id : Nat) (f : Team → Team) : (s.modTeam id f).cache = s.cache := rfl
@[simp] theorem State.modTeam_regions (s : State) (id : Nat) (f : Team → Team) : (s.modTeam id f).regions = s.regions := rfl
@[simp] theorem State.modTeam_hostWait (s : State) (id : Nat) (f : Team → Team) : (s.modTeam id f).hostWait = s.hostWait := rfl
@[simp] theorem State.modTeam_parts (s : State) (id : Nat) (f : Team → Team) : (s.modTeam id f).parts = s.parts := rfl
@[simp] theorem State.modTeam_funcs (s : State) (id : Nat) (f : Team → Team) : (s.modTeam id f).funcs = s.funcs := rfl
@[simp] theorem State.modTeam_launches (s : State) (id : Nat) (f : Team → Team) : (s.modTeam id f).launches = s.launches := rfl
@[simp] theorem State.modTeam_cores (s : State) (id : Nat) (f : Team → Team) : (s.modTeam id f).cores = s.cores := rfl
@[simp] theorem State.modTeam_copies (s : State) (id : Nat) (f : Team → Team) : (s.modTeam id f).copies = s.copies := rfl
@[simp] theorem State.modTeam_gaths (s : State) (id : Nat) (f : Team → Team) : (s.modTeam id f).gaths = s.gaths := rfl
@[simp] theorem State.modTeam_colls (s : State) (id : Nat) (f : Team → Team) : (s.modTeam id f).colls = s.colls := rfl
@[simp] theorem State.modTeam_rses (s : State) (id : Nat) (f : Team → Team) : (s.modTeam id f).rses = s.rses := rfl
@[simp] theorem State.modTeam_routes (s : State) (id : Nat) (f : Team → Team) : (s.modTeam id f).routes = s.routes := rfl
@[simp] theorem State.modTeam_netOut (s : State) (id : Nat) (f : Team → Team) : (s.modTeam id f).netOut = s.netOut := rfl
@[simp] theorem State.modTeam_netReplies (s : State) (id : Nat) (f : Team → Team) : (s.modTeam id f).netReplies = s.netReplies := rfl
@[simp] theorem State.modTeam_ownReplies (s : State) (id : Nat) (f : Team → Team) : (s.modTeam id f).ownReplies = s.ownReplies := rfl
@[simp] theorem State.modTeam_rreqs (s : State) (id : Nat) (f : Team → Team) : (s.modTeam id f).rreqs = s.rreqs := rfl
@[simp] theorem State.modTeam_ratomSeq (s : State) (id : Nat) (f : Team → Team) : (s.modTeam id f).ratomSeq = s.ratomSeq := rfl
@[simp] theorem State.modTeam_replay (s : State) (id : Nat) (f : Team → Team) : (s.modTeam id f).replay = s.replay := rfl
@[simp] theorem State.modTeam_rxCounts (s : State) (id : Nat) (f : Team → Team) : (s.modTeam id f).rxCounts = s.rxCounts := rfl
@[simp] theorem State.modTeam_quietOut (s : State) (id : Nat) (f : Team → Team) : (s.modTeam id f).quietOut = s.quietOut := rfl
@[simp] theorem State.modTeam_keySlots (s : State) (id : Nat) (f : Team → Team) : (s.modTeam id f).keySlots = s.keySlots := rfl
@[simp] theorem State.modTeam_dies (s : State) (id : Nat) (f : Team → Team) : (s.modTeam id f).dies = s.dies := rfl
@[simp] theorem State.modTeam_chans (s : State) (id : Nat) (f : Team → Team) : (s.modTeam id f).chans = s.chans := rfl
@[simp] theorem State.modTeam_images (s : State) (id : Nat) (f : Team → Team) : (s.modTeam id f).images = s.images := rfl
@[simp] theorem State.modTeam_deficits (s : State) (id : Nat) (f : Team → Team) : (s.modTeam id f).deficits = s.deficits := rfl
@[simp] theorem State.modTeam_plan (s : State) (id : Nat) (f : Team → Team) : (s.modTeam id f).plan = s.plan := rfl
@[simp] theorem State.modTeam_cur (s : State) (id : Nat) (f : Team → Team) : (s.modTeam id f).cur = s.cur := rfl
@[simp] theorem State.modTeam_agenda (s : State) (id : Nat) (f : Team → Team) : (s.modTeam id f).agenda = s.agenda := rfl
@[simp] theorem State.modTeam_freeCtr (s : State) (id : Nat) (f : Team → Team) : (s.modTeam id f).freeCtr = s.freeCtr := rfl
@[simp] theorem State.modTeam_uid (s : State) (id : Nat) (f : Team → Team) : (s.modTeam id f).uid = s.uid := rfl

/-! ### modLaunch changes `launches` alone -/

@[simp] theorem State.modLaunch_devId (s : State) (id : Nat) (f : Launch → Launch) : (s.modLaunch id f).devId = s.devId := rfl
@[simp] theorem State.modLaunch_mem (s : State) (id : Nat) (f : Launch → Launch) : (s.modLaunch id f).mem = s.mem := rfl
@[simp] theorem State.modLaunch_hist (s : State) (id : Nat) (f : Launch → Launch) : (s.modLaunch id f).hist = s.hist := rfl
@[simp] theorem State.modLaunch_ver (s : State) (id : Nat) (f : Launch → Launch) : (s.modLaunch id f).ver = s.ver := rfl
@[simp] theorem State.modLaunch_poison (s : State) (id : Nat) (f : Launch → Launch) : (s.modLaunch id f).poison = s.poison := rfl
@[simp] theorem State.modLaunch_cache (s : State) (id : Nat) (f : Launch → Launch) : (s.modLaunch id f).cache = s.cache := rfl
@[simp] theorem State.modLaunch_regions (s : State) (id : Nat) (f : Launch → Launch) : (s.modLaunch id f).regions = s.regions := rfl
@[simp] theorem State.modLaunch_hostWait (s : State) (id : Nat) (f : Launch → Launch) : (s.modLaunch id f).hostWait = s.hostWait := rfl
@[simp] theorem State.modLaunch_parts (s : State) (id : Nat) (f : Launch → Launch) : (s.modLaunch id f).parts = s.parts := rfl
@[simp] theorem State.modLaunch_funcs (s : State) (id : Nat) (f : Launch → Launch) : (s.modLaunch id f).funcs = s.funcs := rfl
@[simp] theorem State.modLaunch_teams (s : State) (id : Nat) (f : Launch → Launch) : (s.modLaunch id f).teams = s.teams := rfl
@[simp] theorem State.modLaunch_cores (s : State) (id : Nat) (f : Launch → Launch) : (s.modLaunch id f).cores = s.cores := rfl
@[simp] theorem State.modLaunch_copies (s : State) (id : Nat) (f : Launch → Launch) : (s.modLaunch id f).copies = s.copies := rfl
@[simp] theorem State.modLaunch_gaths (s : State) (id : Nat) (f : Launch → Launch) : (s.modLaunch id f).gaths = s.gaths := rfl
@[simp] theorem State.modLaunch_colls (s : State) (id : Nat) (f : Launch → Launch) : (s.modLaunch id f).colls = s.colls := rfl
@[simp] theorem State.modLaunch_rses (s : State) (id : Nat) (f : Launch → Launch) : (s.modLaunch id f).rses = s.rses := rfl
@[simp] theorem State.modLaunch_routes (s : State) (id : Nat) (f : Launch → Launch) : (s.modLaunch id f).routes = s.routes := rfl
@[simp] theorem State.modLaunch_netOut (s : State) (id : Nat) (f : Launch → Launch) : (s.modLaunch id f).netOut = s.netOut := rfl
@[simp] theorem State.modLaunch_netReplies (s : State) (id : Nat) (f : Launch → Launch) : (s.modLaunch id f).netReplies = s.netReplies := rfl
@[simp] theorem State.modLaunch_ownReplies (s : State) (id : Nat) (f : Launch → Launch) : (s.modLaunch id f).ownReplies = s.ownReplies := rfl
@[simp] theorem State.modLaunch_rreqs (s : State) (id : Nat) (f : Launch → Launch) : (s.modLaunch id f).rreqs = s.rreqs := rfl
@[simp] theorem State.modLaunch_ratomSeq (s : State) (id : Nat) (f : Launch → Launch) : (s.modLaunch id f).ratomSeq = s.ratomSeq := rfl
@[simp] theorem State.modLaunch_replay (s : State) (id : Nat) (f : Launch → Launch) : (s.modLaunch id f).replay = s.replay := rfl
@[simp] theorem State.modLaunch_rxCounts (s : State) (id : Nat) (f : Launch → Launch) : (s.modLaunch id f).rxCounts = s.rxCounts := rfl
@[simp] theorem State.modLaunch_quietOut (s : State) (id : Nat) (f : Launch → Launch) : (s.modLaunch id f).quietOut = s.quietOut := rfl
@[simp] theorem State.modLaunch_keySlots (s : State) (id : Nat) (f : Launch → Launch) : (s.modLaunch id f).keySlots = s.keySlots := rfl
@[simp] theorem State.modLaunch_dies (s : State) (id : Nat) (f : Launch → Launch) : (s.modLaunch id f).dies = s.dies := rfl
@[simp] theorem State.modLaunch_chans (s : State) (id : Nat) (f : Launch → Launch) : (s.modLaunch id f).chans = s.chans := rfl
@[simp] theorem State.modLaunch_images (s : State) (id : Nat) (f : Launch → Launch) : (s.modLaunch id f).images = s.images := rfl
@[simp] theorem State.modLaunch_deficits (s : State) (id : Nat) (f : Launch → Launch) : (s.modLaunch id f).deficits = s.deficits := rfl
@[simp] theorem State.modLaunch_plan (s : State) (id : Nat) (f : Launch → Launch) : (s.modLaunch id f).plan = s.plan := rfl
@[simp] theorem State.modLaunch_cur (s : State) (id : Nat) (f : Launch → Launch) : (s.modLaunch id f).cur = s.cur := rfl
@[simp] theorem State.modLaunch_agenda (s : State) (id : Nat) (f : Launch → Launch) : (s.modLaunch id f).agenda = s.agenda := rfl
@[simp] theorem State.modLaunch_freeCtr (s : State) (id : Nat) (f : Launch → Launch) : (s.modLaunch id f).freeCtr = s.freeCtr := rfl
@[simp] theorem State.modLaunch_uid (s : State) (id : Nat) (f : Launch → Launch) : (s.modLaunch id f).uid = s.uid := rfl

/-! ### modFunc changes `funcs` alone -/

@[simp] theorem State.modFunc_devId (s : State) (vf : Nat) (f : Func → Func) : (s.modFunc vf f).devId = s.devId := rfl
@[simp] theorem State.modFunc_mem (s : State) (vf : Nat) (f : Func → Func) : (s.modFunc vf f).mem = s.mem := rfl
@[simp] theorem State.modFunc_hist (s : State) (vf : Nat) (f : Func → Func) : (s.modFunc vf f).hist = s.hist := rfl
@[simp] theorem State.modFunc_ver (s : State) (vf : Nat) (f : Func → Func) : (s.modFunc vf f).ver = s.ver := rfl
@[simp] theorem State.modFunc_poison (s : State) (vf : Nat) (f : Func → Func) : (s.modFunc vf f).poison = s.poison := rfl
@[simp] theorem State.modFunc_cache (s : State) (vf : Nat) (f : Func → Func) : (s.modFunc vf f).cache = s.cache := rfl
@[simp] theorem State.modFunc_regions (s : State) (vf : Nat) (f : Func → Func) : (s.modFunc vf f).regions = s.regions := rfl
@[simp] theorem State.modFunc_hostWait (s : State) (vf : Nat) (f : Func → Func) : (s.modFunc vf f).hostWait = s.hostWait := rfl
@[simp] theorem State.modFunc_parts (s : State) (vf : Nat) (f : Func → Func) : (s.modFunc vf f).parts = s.parts := rfl
@[simp] theorem State.modFunc_launches (s : State) (vf : Nat) (f : Func → Func) : (s.modFunc vf f).launches = s.launches := rfl
@[simp] theorem State.modFunc_teams (s : State) (vf : Nat) (f : Func → Func) : (s.modFunc vf f).teams = s.teams := rfl
@[simp] theorem State.modFunc_cores (s : State) (vf : Nat) (f : Func → Func) : (s.modFunc vf f).cores = s.cores := rfl
@[simp] theorem State.modFunc_copies (s : State) (vf : Nat) (f : Func → Func) : (s.modFunc vf f).copies = s.copies := rfl
@[simp] theorem State.modFunc_gaths (s : State) (vf : Nat) (f : Func → Func) : (s.modFunc vf f).gaths = s.gaths := rfl
@[simp] theorem State.modFunc_colls (s : State) (vf : Nat) (f : Func → Func) : (s.modFunc vf f).colls = s.colls := rfl
@[simp] theorem State.modFunc_rses (s : State) (vf : Nat) (f : Func → Func) : (s.modFunc vf f).rses = s.rses := rfl
@[simp] theorem State.modFunc_routes (s : State) (vf : Nat) (f : Func → Func) : (s.modFunc vf f).routes = s.routes := rfl
@[simp] theorem State.modFunc_netOut (s : State) (vf : Nat) (f : Func → Func) : (s.modFunc vf f).netOut = s.netOut := rfl
@[simp] theorem State.modFunc_netReplies (s : State) (vf : Nat) (f : Func → Func) : (s.modFunc vf f).netReplies = s.netReplies := rfl
@[simp] theorem State.modFunc_ownReplies (s : State) (vf : Nat) (f : Func → Func) : (s.modFunc vf f).ownReplies = s.ownReplies := rfl
@[simp] theorem State.modFunc_rreqs (s : State) (vf : Nat) (f : Func → Func) : (s.modFunc vf f).rreqs = s.rreqs := rfl
@[simp] theorem State.modFunc_ratomSeq (s : State) (vf : Nat) (f : Func → Func) : (s.modFunc vf f).ratomSeq = s.ratomSeq := rfl
@[simp] theorem State.modFunc_replay (s : State) (vf : Nat) (f : Func → Func) : (s.modFunc vf f).replay = s.replay := rfl
@[simp] theorem State.modFunc_rxCounts (s : State) (vf : Nat) (f : Func → Func) : (s.modFunc vf f).rxCounts = s.rxCounts := rfl
@[simp] theorem State.modFunc_quietOut (s : State) (vf : Nat) (f : Func → Func) : (s.modFunc vf f).quietOut = s.quietOut := rfl
@[simp] theorem State.modFunc_keySlots (s : State) (vf : Nat) (f : Func → Func) : (s.modFunc vf f).keySlots = s.keySlots := rfl
@[simp] theorem State.modFunc_dies (s : State) (vf : Nat) (f : Func → Func) : (s.modFunc vf f).dies = s.dies := rfl
@[simp] theorem State.modFunc_chans (s : State) (vf : Nat) (f : Func → Func) : (s.modFunc vf f).chans = s.chans := rfl
@[simp] theorem State.modFunc_images (s : State) (vf : Nat) (f : Func → Func) : (s.modFunc vf f).images = s.images := rfl
@[simp] theorem State.modFunc_deficits (s : State) (vf : Nat) (f : Func → Func) : (s.modFunc vf f).deficits = s.deficits := rfl
@[simp] theorem State.modFunc_plan (s : State) (vf : Nat) (f : Func → Func) : (s.modFunc vf f).plan = s.plan := rfl
@[simp] theorem State.modFunc_cur (s : State) (vf : Nat) (f : Func → Func) : (s.modFunc vf f).cur = s.cur := rfl
@[simp] theorem State.modFunc_agenda (s : State) (vf : Nat) (f : Func → Func) : (s.modFunc vf f).agenda = s.agenda := rfl
@[simp] theorem State.modFunc_freeCtr (s : State) (vf : Nat) (f : Func → Func) : (s.modFunc vf f).freeCtr = s.freeCtr := rfl
@[simp] theorem State.modFunc_uid (s : State) (vf : Nat) (f : Func → Func) : (s.modFunc vf f).uid = s.uid := rfl

/-! ### modPart changes `parts` alone -/

@[simp] theorem State.modPart_devId (s : State) (id : Nat) (f : Part → Part) : (s.modPart id f).devId = s.devId := rfl
@[simp] theorem State.modPart_mem (s : State) (id : Nat) (f : Part → Part) : (s.modPart id f).mem = s.mem := rfl
@[simp] theorem State.modPart_hist (s : State) (id : Nat) (f : Part → Part) : (s.modPart id f).hist = s.hist := rfl
@[simp] theorem State.modPart_ver (s : State) (id : Nat) (f : Part → Part) : (s.modPart id f).ver = s.ver := rfl
@[simp] theorem State.modPart_poison (s : State) (id : Nat) (f : Part → Part) : (s.modPart id f).poison = s.poison := rfl
@[simp] theorem State.modPart_cache (s : State) (id : Nat) (f : Part → Part) : (s.modPart id f).cache = s.cache := rfl
@[simp] theorem State.modPart_regions (s : State) (id : Nat) (f : Part → Part) : (s.modPart id f).regions = s.regions := rfl
@[simp] theorem State.modPart_hostWait (s : State) (id : Nat) (f : Part → Part) : (s.modPart id f).hostWait = s.hostWait := rfl
@[simp] theorem State.modPart_funcs (s : State) (id : Nat) (f : Part → Part) : (s.modPart id f).funcs = s.funcs := rfl
@[simp] theorem State.modPart_launches (s : State) (id : Nat) (f : Part → Part) : (s.modPart id f).launches = s.launches := rfl
@[simp] theorem State.modPart_teams (s : State) (id : Nat) (f : Part → Part) : (s.modPart id f).teams = s.teams := rfl
@[simp] theorem State.modPart_cores (s : State) (id : Nat) (f : Part → Part) : (s.modPart id f).cores = s.cores := rfl
@[simp] theorem State.modPart_copies (s : State) (id : Nat) (f : Part → Part) : (s.modPart id f).copies = s.copies := rfl
@[simp] theorem State.modPart_gaths (s : State) (id : Nat) (f : Part → Part) : (s.modPart id f).gaths = s.gaths := rfl
@[simp] theorem State.modPart_colls (s : State) (id : Nat) (f : Part → Part) : (s.modPart id f).colls = s.colls := rfl
@[simp] theorem State.modPart_rses (s : State) (id : Nat) (f : Part → Part) : (s.modPart id f).rses = s.rses := rfl
@[simp] theorem State.modPart_routes (s : State) (id : Nat) (f : Part → Part) : (s.modPart id f).routes = s.routes := rfl
@[simp] theorem State.modPart_netOut (s : State) (id : Nat) (f : Part → Part) : (s.modPart id f).netOut = s.netOut := rfl
@[simp] theorem State.modPart_netReplies (s : State) (id : Nat) (f : Part → Part) : (s.modPart id f).netReplies = s.netReplies := rfl
@[simp] theorem State.modPart_ownReplies (s : State) (id : Nat) (f : Part → Part) : (s.modPart id f).ownReplies = s.ownReplies := rfl
@[simp] theorem State.modPart_rreqs (s : State) (id : Nat) (f : Part → Part) : (s.modPart id f).rreqs = s.rreqs := rfl
@[simp] theorem State.modPart_ratomSeq (s : State) (id : Nat) (f : Part → Part) : (s.modPart id f).ratomSeq = s.ratomSeq := rfl
@[simp] theorem State.modPart_replay (s : State) (id : Nat) (f : Part → Part) : (s.modPart id f).replay = s.replay := rfl
@[simp] theorem State.modPart_rxCounts (s : State) (id : Nat) (f : Part → Part) : (s.modPart id f).rxCounts = s.rxCounts := rfl
@[simp] theorem State.modPart_quietOut (s : State) (id : Nat) (f : Part → Part) : (s.modPart id f).quietOut = s.quietOut := rfl
@[simp] theorem State.modPart_keySlots (s : State) (id : Nat) (f : Part → Part) : (s.modPart id f).keySlots = s.keySlots := rfl
@[simp] theorem State.modPart_dies (s : State) (id : Nat) (f : Part → Part) : (s.modPart id f).dies = s.dies := rfl
@[simp] theorem State.modPart_chans (s : State) (id : Nat) (f : Part → Part) : (s.modPart id f).chans = s.chans := rfl
@[simp] theorem State.modPart_images (s : State) (id : Nat) (f : Part → Part) : (s.modPart id f).images = s.images := rfl
@[simp] theorem State.modPart_deficits (s : State) (id : Nat) (f : Part → Part) : (s.modPart id f).deficits = s.deficits := rfl
@[simp] theorem State.modPart_plan (s : State) (id : Nat) (f : Part → Part) : (s.modPart id f).plan = s.plan := rfl
@[simp] theorem State.modPart_cur (s : State) (id : Nat) (f : Part → Part) : (s.modPart id f).cur = s.cur := rfl
@[simp] theorem State.modPart_agenda (s : State) (id : Nat) (f : Part → Part) : (s.modPart id f).agenda = s.agenda := rfl
@[simp] theorem State.modPart_freeCtr (s : State) (id : Nat) (f : Part → Part) : (s.modPart id f).freeCtr = s.freeCtr := rfl
@[simp] theorem State.modPart_uid (s : State) (id : Nat) (f : Part → Part) : (s.modPart id f).uid = s.uid := rfl

/-! ### modCore changes `cores` alone -/

@[simp] theorem State.modCore_devId (s : State) (id : Nat) (f : Core → Core) : (s.modCore id f).devId = s.devId := rfl
@[simp] theorem State.modCore_mem (s : State) (id : Nat) (f : Core → Core) : (s.modCore id f).mem = s.mem := rfl
@[simp] theorem State.modCore_hist (s : State) (id : Nat) (f : Core → Core) : (s.modCore id f).hist = s.hist := rfl
@[simp] theorem State.modCore_ver (s : State) (id : Nat) (f : Core → Core) : (s.modCore id f).ver = s.ver := rfl
@[simp] theorem State.modCore_poison (s : State) (id : Nat) (f : Core → Core) : (s.modCore id f).poison = s.poison := rfl
@[simp] theorem State.modCore_cache (s : State) (id : Nat) (f : Core → Core) : (s.modCore id f).cache = s.cache := rfl
@[simp] theorem State.modCore_regions (s : State) (id : Nat) (f : Core → Core) : (s.modCore id f).regions = s.regions := rfl
@[simp] theorem State.modCore_hostWait (s : State) (id : Nat) (f : Core → Core) : (s.modCore id f).hostWait = s.hostWait := rfl
@[simp] theorem State.modCore_parts (s : State) (id : Nat) (f : Core → Core) : (s.modCore id f).parts = s.parts := rfl
@[simp] theorem State.modCore_funcs (s : State) (id : Nat) (f : Core → Core) : (s.modCore id f).funcs = s.funcs := rfl
@[simp] theorem State.modCore_launches (s : State) (id : Nat) (f : Core → Core) : (s.modCore id f).launches = s.launches := rfl
@[simp] theorem State.modCore_teams (s : State) (id : Nat) (f : Core → Core) : (s.modCore id f).teams = s.teams := rfl
@[simp] theorem State.modCore_copies (s : State) (id : Nat) (f : Core → Core) : (s.modCore id f).copies = s.copies := rfl
@[simp] theorem State.modCore_gaths (s : State) (id : Nat) (f : Core → Core) : (s.modCore id f).gaths = s.gaths := rfl
@[simp] theorem State.modCore_colls (s : State) (id : Nat) (f : Core → Core) : (s.modCore id f).colls = s.colls := rfl
@[simp] theorem State.modCore_rses (s : State) (id : Nat) (f : Core → Core) : (s.modCore id f).rses = s.rses := rfl
@[simp] theorem State.modCore_routes (s : State) (id : Nat) (f : Core → Core) : (s.modCore id f).routes = s.routes := rfl
@[simp] theorem State.modCore_netOut (s : State) (id : Nat) (f : Core → Core) : (s.modCore id f).netOut = s.netOut := rfl
@[simp] theorem State.modCore_netReplies (s : State) (id : Nat) (f : Core → Core) : (s.modCore id f).netReplies = s.netReplies := rfl
@[simp] theorem State.modCore_ownReplies (s : State) (id : Nat) (f : Core → Core) : (s.modCore id f).ownReplies = s.ownReplies := rfl
@[simp] theorem State.modCore_rreqs (s : State) (id : Nat) (f : Core → Core) : (s.modCore id f).rreqs = s.rreqs := rfl
@[simp] theorem State.modCore_ratomSeq (s : State) (id : Nat) (f : Core → Core) : (s.modCore id f).ratomSeq = s.ratomSeq := rfl
@[simp] theorem State.modCore_replay (s : State) (id : Nat) (f : Core → Core) : (s.modCore id f).replay = s.replay := rfl
@[simp] theorem State.modCore_rxCounts (s : State) (id : Nat) (f : Core → Core) : (s.modCore id f).rxCounts = s.rxCounts := rfl
@[simp] theorem State.modCore_quietOut (s : State) (id : Nat) (f : Core → Core) : (s.modCore id f).quietOut = s.quietOut := rfl
@[simp] theorem State.modCore_keySlots (s : State) (id : Nat) (f : Core → Core) : (s.modCore id f).keySlots = s.keySlots := rfl
@[simp] theorem State.modCore_dies (s : State) (id : Nat) (f : Core → Core) : (s.modCore id f).dies = s.dies := rfl
@[simp] theorem State.modCore_chans (s : State) (id : Nat) (f : Core → Core) : (s.modCore id f).chans = s.chans := rfl
@[simp] theorem State.modCore_images (s : State) (id : Nat) (f : Core → Core) : (s.modCore id f).images = s.images := rfl
@[simp] theorem State.modCore_deficits (s : State) (id : Nat) (f : Core → Core) : (s.modCore id f).deficits = s.deficits := rfl
@[simp] theorem State.modCore_plan (s : State) (id : Nat) (f : Core → Core) : (s.modCore id f).plan = s.plan := rfl
@[simp] theorem State.modCore_cur (s : State) (id : Nat) (f : Core → Core) : (s.modCore id f).cur = s.cur := rfl
@[simp] theorem State.modCore_agenda (s : State) (id : Nat) (f : Core → Core) : (s.modCore id f).agenda = s.agenda := rfl
@[simp] theorem State.modCore_freeCtr (s : State) (id : Nat) (f : Core → Core) : (s.modCore id f).freeCtr = s.freeCtr := rfl
@[simp] theorem State.modCore_uid (s : State) (id : Nat) (f : Core → Core) : (s.modCore id f).uid = s.uid := rfl

/-! ### modDie changes `dies` alone -/

@[simp] theorem State.modDie_devId (s : State) (id : Nat) (f : Die → Die) : (s.modDie id f).devId = s.devId := rfl
@[simp] theorem State.modDie_mem (s : State) (id : Nat) (f : Die → Die) : (s.modDie id f).mem = s.mem := rfl
@[simp] theorem State.modDie_hist (s : State) (id : Nat) (f : Die → Die) : (s.modDie id f).hist = s.hist := rfl
@[simp] theorem State.modDie_ver (s : State) (id : Nat) (f : Die → Die) : (s.modDie id f).ver = s.ver := rfl
@[simp] theorem State.modDie_poison (s : State) (id : Nat) (f : Die → Die) : (s.modDie id f).poison = s.poison := rfl
@[simp] theorem State.modDie_cache (s : State) (id : Nat) (f : Die → Die) : (s.modDie id f).cache = s.cache := rfl
@[simp] theorem State.modDie_regions (s : State) (id : Nat) (f : Die → Die) : (s.modDie id f).regions = s.regions := rfl
@[simp] theorem State.modDie_hostWait (s : State) (id : Nat) (f : Die → Die) : (s.modDie id f).hostWait = s.hostWait := rfl
@[simp] theorem State.modDie_parts (s : State) (id : Nat) (f : Die → Die) : (s.modDie id f).parts = s.parts := rfl
@[simp] theorem State.modDie_funcs (s : State) (id : Nat) (f : Die → Die) : (s.modDie id f).funcs = s.funcs := rfl
@[simp] theorem State.modDie_launches (s : State) (id : Nat) (f : Die → Die) : (s.modDie id f).launches = s.launches := rfl
@[simp] theorem State.modDie_teams (s : State) (id : Nat) (f : Die → Die) : (s.modDie id f).teams = s.teams := rfl
@[simp] theorem State.modDie_cores (s : State) (id : Nat) (f : Die → Die) : (s.modDie id f).cores = s.cores := rfl
@[simp] theorem State.modDie_copies (s : State) (id : Nat) (f : Die → Die) : (s.modDie id f).copies = s.copies := rfl
@[simp] theorem State.modDie_gaths (s : State) (id : Nat) (f : Die → Die) : (s.modDie id f).gaths = s.gaths := rfl
@[simp] theorem State.modDie_colls (s : State) (id : Nat) (f : Die → Die) : (s.modDie id f).colls = s.colls := rfl
@[simp] theorem State.modDie_rses (s : State) (id : Nat) (f : Die → Die) : (s.modDie id f).rses = s.rses := rfl
@[simp] theorem State.modDie_routes (s : State) (id : Nat) (f : Die → Die) : (s.modDie id f).routes = s.routes := rfl
@[simp] theorem State.modDie_netOut (s : State) (id : Nat) (f : Die → Die) : (s.modDie id f).netOut = s.netOut := rfl
@[simp] theorem State.modDie_netReplies (s : State) (id : Nat) (f : Die → Die) : (s.modDie id f).netReplies = s.netReplies := rfl
@[simp] theorem State.modDie_ownReplies (s : State) (id : Nat) (f : Die → Die) : (s.modDie id f).ownReplies = s.ownReplies := rfl
@[simp] theorem State.modDie_rreqs (s : State) (id : Nat) (f : Die → Die) : (s.modDie id f).rreqs = s.rreqs := rfl
@[simp] theorem State.modDie_ratomSeq (s : State) (id : Nat) (f : Die → Die) : (s.modDie id f).ratomSeq = s.ratomSeq := rfl
@[simp] theorem State.modDie_replay (s : State) (id : Nat) (f : Die → Die) : (s.modDie id f).replay = s.replay := rfl
@[simp] theorem State.modDie_rxCounts (s : State) (id : Nat) (f : Die → Die) : (s.modDie id f).rxCounts = s.rxCounts := rfl
@[simp] theorem State.modDie_quietOut (s : State) (id : Nat) (f : Die → Die) : (s.modDie id f).quietOut = s.quietOut := rfl
@[simp] theorem State.modDie_keySlots (s : State) (id : Nat) (f : Die → Die) : (s.modDie id f).keySlots = s.keySlots := rfl
@[simp] theorem State.modDie_chans (s : State) (id : Nat) (f : Die → Die) : (s.modDie id f).chans = s.chans := rfl
@[simp] theorem State.modDie_images (s : State) (id : Nat) (f : Die → Die) : (s.modDie id f).images = s.images := rfl
@[simp] theorem State.modDie_deficits (s : State) (id : Nat) (f : Die → Die) : (s.modDie id f).deficits = s.deficits := rfl
@[simp] theorem State.modDie_plan (s : State) (id : Nat) (f : Die → Die) : (s.modDie id f).plan = s.plan := rfl
@[simp] theorem State.modDie_cur (s : State) (id : Nat) (f : Die → Die) : (s.modDie id f).cur = s.cur := rfl
@[simp] theorem State.modDie_agenda (s : State) (id : Nat) (f : Die → Die) : (s.modDie id f).agenda = s.agenda := rfl
@[simp] theorem State.modDie_freeCtr (s : State) (id : Nat) (f : Die → Die) : (s.modDie id f).freeCtr = s.freeCtr := rfl
@[simp] theorem State.modDie_uid (s : State) (id : Nat) (f : Die → Die) : (s.modDie id f).uid = s.uid := rfl

/-! ### modRse changes `rses` alone -/

@[simp] theorem State.modRse_devId (s : State) (id : Nat) (f : RseCmd → RseCmd) : (s.modRse id f).devId = s.devId := rfl
@[simp] theorem State.modRse_mem (s : State) (id : Nat) (f : RseCmd → RseCmd) : (s.modRse id f).mem = s.mem := rfl
@[simp] theorem State.modRse_hist (s : State) (id : Nat) (f : RseCmd → RseCmd) : (s.modRse id f).hist = s.hist := rfl
@[simp] theorem State.modRse_ver (s : State) (id : Nat) (f : RseCmd → RseCmd) : (s.modRse id f).ver = s.ver := rfl
@[simp] theorem State.modRse_poison (s : State) (id : Nat) (f : RseCmd → RseCmd) : (s.modRse id f).poison = s.poison := rfl
@[simp] theorem State.modRse_cache (s : State) (id : Nat) (f : RseCmd → RseCmd) : (s.modRse id f).cache = s.cache := rfl
@[simp] theorem State.modRse_regions (s : State) (id : Nat) (f : RseCmd → RseCmd) : (s.modRse id f).regions = s.regions := rfl
@[simp] theorem State.modRse_hostWait (s : State) (id : Nat) (f : RseCmd → RseCmd) : (s.modRse id f).hostWait = s.hostWait := rfl
@[simp] theorem State.modRse_parts (s : State) (id : Nat) (f : RseCmd → RseCmd) : (s.modRse id f).parts = s.parts := rfl
@[simp] theorem State.modRse_funcs (s : State) (id : Nat) (f : RseCmd → RseCmd) : (s.modRse id f).funcs = s.funcs := rfl
@[simp] theorem State.modRse_launches (s : State) (id : Nat) (f : RseCmd → RseCmd) : (s.modRse id f).launches = s.launches := rfl
@[simp] theorem State.modRse_teams (s : State) (id : Nat) (f : RseCmd → RseCmd) : (s.modRse id f).teams = s.teams := rfl
@[simp] theorem State.modRse_cores (s : State) (id : Nat) (f : RseCmd → RseCmd) : (s.modRse id f).cores = s.cores := rfl
@[simp] theorem State.modRse_copies (s : State) (id : Nat) (f : RseCmd → RseCmd) : (s.modRse id f).copies = s.copies := rfl
@[simp] theorem State.modRse_gaths (s : State) (id : Nat) (f : RseCmd → RseCmd) : (s.modRse id f).gaths = s.gaths := rfl
@[simp] theorem State.modRse_colls (s : State) (id : Nat) (f : RseCmd → RseCmd) : (s.modRse id f).colls = s.colls := rfl
@[simp] theorem State.modRse_routes (s : State) (id : Nat) (f : RseCmd → RseCmd) : (s.modRse id f).routes = s.routes := rfl
@[simp] theorem State.modRse_netOut (s : State) (id : Nat) (f : RseCmd → RseCmd) : (s.modRse id f).netOut = s.netOut := rfl
@[simp] theorem State.modRse_netReplies (s : State) (id : Nat) (f : RseCmd → RseCmd) : (s.modRse id f).netReplies = s.netReplies := rfl
@[simp] theorem State.modRse_ownReplies (s : State) (id : Nat) (f : RseCmd → RseCmd) : (s.modRse id f).ownReplies = s.ownReplies := rfl
@[simp] theorem State.modRse_rreqs (s : State) (id : Nat) (f : RseCmd → RseCmd) : (s.modRse id f).rreqs = s.rreqs := rfl
@[simp] theorem State.modRse_ratomSeq (s : State) (id : Nat) (f : RseCmd → RseCmd) : (s.modRse id f).ratomSeq = s.ratomSeq := rfl
@[simp] theorem State.modRse_replay (s : State) (id : Nat) (f : RseCmd → RseCmd) : (s.modRse id f).replay = s.replay := rfl
@[simp] theorem State.modRse_rxCounts (s : State) (id : Nat) (f : RseCmd → RseCmd) : (s.modRse id f).rxCounts = s.rxCounts := rfl
@[simp] theorem State.modRse_quietOut (s : State) (id : Nat) (f : RseCmd → RseCmd) : (s.modRse id f).quietOut = s.quietOut := rfl
@[simp] theorem State.modRse_keySlots (s : State) (id : Nat) (f : RseCmd → RseCmd) : (s.modRse id f).keySlots = s.keySlots := rfl
@[simp] theorem State.modRse_dies (s : State) (id : Nat) (f : RseCmd → RseCmd) : (s.modRse id f).dies = s.dies := rfl
@[simp] theorem State.modRse_chans (s : State) (id : Nat) (f : RseCmd → RseCmd) : (s.modRse id f).chans = s.chans := rfl
@[simp] theorem State.modRse_images (s : State) (id : Nat) (f : RseCmd → RseCmd) : (s.modRse id f).images = s.images := rfl
@[simp] theorem State.modRse_deficits (s : State) (id : Nat) (f : RseCmd → RseCmd) : (s.modRse id f).deficits = s.deficits := rfl
@[simp] theorem State.modRse_plan (s : State) (id : Nat) (f : RseCmd → RseCmd) : (s.modRse id f).plan = s.plan := rfl
@[simp] theorem State.modRse_cur (s : State) (id : Nat) (f : RseCmd → RseCmd) : (s.modRse id f).cur = s.cur := rfl
@[simp] theorem State.modRse_agenda (s : State) (id : Nat) (f : RseCmd → RseCmd) : (s.modRse id f).agenda = s.agenda := rfl
@[simp] theorem State.modRse_freeCtr (s : State) (id : Nat) (f : RseCmd → RseCmd) : (s.modRse id f).freeCtr = s.freeCtr := rfl
@[simp] theorem State.modRse_uid (s : State) (id : Nat) (f : RseCmd → RseCmd) : (s.modRse id f).uid = s.uid := rfl

/-! ### `commit` changes `teams` alone, of the working state -/

@[simp] theorem Ctx.commit_devId (c : Ctx) : c.commit.devId = c.s.devId := rfl
@[simp] theorem Ctx.commit_mem (c : Ctx) : c.commit.mem = c.s.mem := rfl
@[simp] theorem Ctx.commit_hist (c : Ctx) : c.commit.hist = c.s.hist := rfl
@[simp] theorem Ctx.commit_ver (c : Ctx) : c.commit.ver = c.s.ver := rfl
@[simp] theorem Ctx.commit_poison (c : Ctx) : c.commit.poison = c.s.poison := rfl
@[simp] theorem Ctx.commit_cache (c : Ctx) : c.commit.cache = c.s.cache := rfl
@[simp] theorem Ctx.commit_regions (c : Ctx) : c.commit.regions = c.s.regions := rfl
@[simp] theorem Ctx.commit_hostWait (c : Ctx) : c.commit.hostWait = c.s.hostWait := rfl
@[simp] theorem Ctx.commit_parts (c : Ctx) : c.commit.parts = c.s.parts := rfl
@[simp] theorem Ctx.commit_funcs (c : Ctx) : c.commit.funcs = c.s.funcs := rfl
@[simp] theorem Ctx.commit_launches (c : Ctx) : c.commit.launches = c.s.launches := rfl
@[simp] theorem Ctx.commit_cores (c : Ctx) : c.commit.cores = c.s.cores := rfl
@[simp] theorem Ctx.commit_copies (c : Ctx) : c.commit.copies = c.s.copies := rfl
@[simp] theorem Ctx.commit_gaths (c : Ctx) : c.commit.gaths = c.s.gaths := rfl
@[simp] theorem Ctx.commit_colls (c : Ctx) : c.commit.colls = c.s.colls := rfl
@[simp] theorem Ctx.commit_rses (c : Ctx) : c.commit.rses = c.s.rses := rfl
@[simp] theorem Ctx.commit_routes (c : Ctx) : c.commit.routes = c.s.routes := rfl
@[simp] theorem Ctx.commit_netOut (c : Ctx) : c.commit.netOut = c.s.netOut := rfl
@[simp] theorem Ctx.commit_netReplies (c : Ctx) : c.commit.netReplies = c.s.netReplies := rfl
@[simp] theorem Ctx.commit_ownReplies (c : Ctx) : c.commit.ownReplies = c.s.ownReplies := rfl
@[simp] theorem Ctx.commit_rreqs (c : Ctx) : c.commit.rreqs = c.s.rreqs := rfl
@[simp] theorem Ctx.commit_ratomSeq (c : Ctx) : c.commit.ratomSeq = c.s.ratomSeq := rfl
@[simp] theorem Ctx.commit_replay (c : Ctx) : c.commit.replay = c.s.replay := rfl
@[simp] theorem Ctx.commit_rxCounts (c : Ctx) : c.commit.rxCounts = c.s.rxCounts := rfl
@[simp] theorem Ctx.commit_quietOut (c : Ctx) : c.commit.quietOut = c.s.quietOut := rfl
@[simp] theorem Ctx.commit_keySlots (c : Ctx) : c.commit.keySlots = c.s.keySlots := rfl
@[simp] theorem Ctx.commit_dies (c : Ctx) : c.commit.dies = c.s.dies := rfl
@[simp] theorem Ctx.commit_chans (c : Ctx) : c.commit.chans = c.s.chans := rfl
@[simp] theorem Ctx.commit_images (c : Ctx) : c.commit.images = c.s.images := rfl
@[simp] theorem Ctx.commit_deficits (c : Ctx) : c.commit.deficits = c.s.deficits := rfl
@[simp] theorem Ctx.commit_plan (c : Ctx) : c.commit.plan = c.s.plan := rfl
@[simp] theorem Ctx.commit_cur (c : Ctx) : c.commit.cur = c.s.cur := rfl
@[simp] theorem Ctx.commit_agenda (c : Ctx) : c.commit.agenda = c.s.agenda := rfl
@[simp] theorem Ctx.commit_freeCtr (c : Ctx) : c.commit.freeCtr = c.s.freeCtr := rfl
@[simp] theorem Ctx.commit_uid (c : Ctx) : c.commit.uid = c.s.uid := rfl

/-! ### The record that is changed, and the others -/

theorem find_modBy_same {α : Type} (p : α → Bool) (f : α → α) (h : ∀ x, p x = true → p (f x) = true) (l : List α) :
    findBy p (modBy p f l) = (findBy p l).map f := by
  induction l with
  | nil => rfl
  | cons x r ih =>
    simp only [findBy, modBy, List.map_cons] at ih ⊢
    cases hx : p x with
    | true => simp [h x hx, hx]
    | false => simp [hx, ih]

theorem find_modBy_other {α : Type} (p q : α → Bool) (f : α → α) (h : ∀ x, p x = true → q x = false ∧ q (f x) = false) (l : List α) :
    findBy q (modBy p f l) = findBy q l := by
  induction l with
  | nil => rfl
  | cons x r ih =>
    simp only [findBy, modBy, List.map_cons] at ih ⊢
    cases hx : p x with
    | true => simp [h x hx, ih]
    | false => cases hq : q x <;> simp [hq, ih]

theorem State.team_modTeam (s : State) (k : Nat) (f : Team → Team) (h : ∀ x, (f x).id = x.id) : (s.modTeam k f).team? k = (s.team? k).map f :=
  find_modBy_same _ f (fun x hx => by simpa [h] using hx) _

theorem State.team_modTeam_other (s : State) (k j : Nat) (f : Team → Team) (h : ∀ x, (f x).id = x.id) (hj : j ≠ k) : (s.modTeam k f).team? j = s.team? j :=
  find_modBy_other _ _ f (fun x hx => by
    have e : x.id = k := by simpa using hx
    simp [h, e, Ne.symm hj]) _

theorem State.launch_modLaunch (s : State) (k : Nat) (f : Launch → Launch) (h : ∀ x, (f x).id = x.id) : (s.modLaunch k f).launch? k = (s.launch? k).map f :=
  find_modBy_same _ f (fun x hx => by simpa [h] using hx) _

theorem State.launch_modLaunch_other (s : State) (k j : Nat) (f : Launch → Launch) (h : ∀ x, (f x).id = x.id) (hj : j ≠ k) : (s.modLaunch k f).launch? j = s.launch? j :=
  find_modBy_other _ _ f (fun x hx => by
    have e : x.id = k := by simpa using hx
    simp [h, e, Ne.symm hj]) _

theorem State.func_modFunc (s : State) (k : Nat) (f : Func → Func) (h : ∀ x, (f x).vf = x.vf) : (s.modFunc k f).func? k = (s.func? k).map f :=
  find_modBy_same _ f (fun x hx => by simpa [h] using hx) _

theorem State.func_modFunc_other (s : State) (k j : Nat) (f : Func → Func) (h : ∀ x, (f x).vf = x.vf) (hj : j ≠ k) : (s.modFunc k f).func? j = s.func? j :=
  find_modBy_other _ _ f (fun x hx => by
    have e : x.vf = k := by simpa using hx
    simp [h, e, Ne.symm hj]) _

theorem State.part_modPart (s : State) (k : Nat) (f : Part → Part) (h : ∀ x, (f x).id = x.id) : (s.modPart k f).part? k = (s.part? k).map f :=
  find_modBy_same _ f (fun x hx => by simpa [h] using hx) _

theorem State.part_modPart_other (s : State) (k j : Nat) (f : Part → Part) (h : ∀ x, (f x).id = x.id) (hj : j ≠ k) : (s.modPart k f).part? j = s.part? j :=
  find_modBy_other _ _ f (fun x hx => by
    have e : x.id = k := by simpa using hx
    simp [h, e, Ne.symm hj]) _

theorem State.core_modCore (s : State) (k : Nat) (f : Core → Core) (h : ∀ x, (f x).id = x.id) : (s.modCore k f).core? k = (s.core? k).map f :=
  find_modBy_same _ f (fun x hx => by simpa [h] using hx) _

theorem State.core_modCore_other (s : State) (k j : Nat) (f : Core → Core) (h : ∀ x, (f x).id = x.id) (hj : j ≠ k) : (s.modCore k f).core? j = s.core? j :=
  find_modBy_other _ _ f (fun x hx => by
    have e : x.id = k := by simpa using hx
    simp [h, e, Ne.symm hj]) _

/-! ### Memory keeps its canonical form -/

theorem reset_mem_wf : Memory.wf State.reset.mem = true := rfl

/-- A write that takes effect. -/
theorem State.write_wf (s : State) (src : Nat) (ws : List (Nat × Byte)) (h : Memory.wf s.mem = true) : Memory.wf (s.write src ws).mem = true := by
  unfold State.write
  split
  · exact h
  · exact storeWf_putAll ws s.mem h

/-- What the host has answered with. -/
theorem State.learn_wf (s : State) (ws : List (Nat × Byte)) (h : Memory.wf s.mem = true) : Memory.wf (s.learn ws).mem = true :=
  storeWf_putAll ws s.mem h

/-- The load of a program (log 9). -/
theorem State.load_wf (s : State) (w : Nat) (h : Memory.wf s.mem = true) : Memory.wf (s.load w).mem = true :=
  storeWf_writeBytes _ _ _ (storeWf_writeBytes _ _ _ (storeWf_writeBytes _ _ _ h))

end Sys2Proof.Machine
end

