-- ==== Sys2Proof/Tests/Slice0.lean ====
section
/-!
SUPPORT. Tests: what the decoder reads from words written out from the encodings of chapter 3 and from the example words of the reference chapters,
ill-formed terms that the checks refuse, and single instructions on a small state, with results worked out from the rules or taken from
the worked examples of the spec.
-/
open Sys2Proof Sys2Proof.Machine

namespace Sys2Proof.Tests

/-! ### A device on which one fragment issues -/

/-- The device that `State.load` makes of reset, with team 1 (a COPY, a MATRIX and a VECTOR group, lanes 0 and 5 alive) and its group `g` at the
instruction; `h` changes each group, `f` the team. -/
def demo (g : Nat) (h : Group → Group) (f : Team → Team) : State :=
  let s := State.reset.load 0
  { s with
    cur := some ⟨1, g, 0⟩
    teams := s.teams.map fun t => f { t with live := { t.live with groups := t.live.groups.map fun x => h { emptyGroup x.role true 4096 with live := 0x21 } } } }

/-- Register values of a group: v register, lane, value. -/
def withV (l : List (Nat × Nat × Word)) (g : Group) : Group := { g with v := putAll g.v (l.map fun x => (32 * x.1 + x.2.1, x.2.2)) }

/-- Values of s registers. -/
def withS (l : List (Nat × Word)) (g : Group) : Group := { g with s := putAll g.s l }

def withP (p : Nat) (m : LaneMask) (g : Group) : Group := { g with p := put g.p p m }

/-- The group after an instruction. -/
def grp (i : Instr) (s : State) : Option Group :=
  match exec i s with
  | .next t => t.cur.bind fun r => (t.team? r.team).bind fun t => t.live.groups[r.group]?
  | .fault _ => none
  | .refused _ => none

/-- The team after an instruction. -/
def teamOf (i : Instr) (s : State) : Option Team :=
  match exec i s with
  | .next t => t.team? 1
  | .fault _ => none
  | .refused _ => none

/-- The state after an instruction or event. -/
def next? (i : Instr) (s : State) : Option State :=
  match exec i s with
  | .next t => some t
  | .fault _ => none
  | .refused _ => none

/-- One lane's run of an instruction in the VECTOR group: v registers before; then register `k` of lane 0, as a word or a pair. -/
def out (i : Instr) (regs : List (Nat × Word)) (k : Nat) : Option Word :=
  (grp i (demo 2 (fun g => withV (regs.map fun r => (r.1, 0, r.2)) { g with live := 1 }) id)).map fun g => look g.v (32 * k)

/-- The event counters after the same run, by number from 0x040: 5 for each format (F64, F32, F16, BF16, E4M3,
E5M2): NaN produced, infinity produced, overflow, underflow, invalid (R54). -/
def evs (i : Instr) (regs : List (Nat × Word)) : Option (Store 32) :=
  (next? i (demo 2 (fun g => withV (regs.map fun r => (r.1, 0, r.2)) { g with live := 1 }) id)).bind fun s => (s.launch? 0).map (·.fpev)

/-- A unary instruction of v3 from v1, a binary one from v1 and v2. -/
def un (f : Alu2 → Instr) (t : Ty) (x : Word) : Option Word := out (f ⟨t, .v 3, .v 1, false⟩) [(1, x)] 3
def bin (f : Alu3 → Instr) (t : Ty) (x y : Word) : Option Word := out (f ⟨t, .v 3, .v 1, .v 2, false⟩) [(1, x), (2, y)] 3
def conv (d s : NumTy) (r : Rm) (x : Word) : Option Word := out (.cvt ⟨d, s, r, .v 3, .v 1⟩) [(1, x)] 3

/-- Bytes of memory. -/
def withMem (a : Nat) (bs : List Byte) (s : State) : State := { s with mem := writeBytes s.mem a bs }

/-! ### Decoding: one word of every instruction, bit by bit from the layouts (R13, R21, R25, R28, R48, R72, R77 to R97) -/

theorem test_decode_arithmetic :
    decode 0b00_00000_010_0000010_0000100_0000110_1 0 = .ok (.add ⟨.s64, .v 2, .v 4, .v 6, true⟩) ∧
    decode 0b00_00001_001_1100001_1100010_1111111_0 0 = .ok (.sub ⟨.n32, .s 1, .s 2, .z, false⟩) ∧
    decode 0b00_00010_110_0000001_0000010_0000011_0 0 = .ok (.mul ⟨.f16x2, .v 1, .v 2, .v 3, false⟩) ∧
    decode 0b00_00011_011_0000010_0000100_0000110_0 0 = .ok (.mulh ⟨.n64, .v 2, .v 4, .v 6, false⟩) ∧
    decode 0b00_00100_101_0000010_0000100_0000110_0 0 = .ok (.fma ⟨.f64, .v 2, .v 4, .v 6, false⟩) ∧
    decode 0b00_00101_111_0000001_0000010_0000011_0 0 = .ok (.min ⟨.bf16x2, .v 1, .v 2, .v 3, false⟩) ∧
    decode 0b00_00110_100_1011111_0000010_0000011_0 0 = .ok (.max ⟨.f32, .v 95, .v 2, .v 3, false⟩) ∧
    decode 0b00_10001_101_0000010_0000100_0000110_0 0 = .ok (.div ⟨.f64, .v 2, .v 4, .v 6, false⟩) ∧
    decode 0b00_10010_000_0000001_0000010_0000011_0 0 = .ok (.rem ⟨.s32, .v 1, .v 2, .v 3, false⟩) := by
  refine ⟨?_, ?_, ?_, ?_, ?_, ?_, ?_, ?_, ?_⟩ <;> rfl

theorem test_decode_bitwise :
    decode 0b00_00111_000_0000001_0000010_0000011_0 0 = .ok (.and ⟨.s32, .v 1, .v 2, .v 3, false⟩) ∧
    decode 0b00_01000_001_0000001_0000010_0000011_1 0 = .ok (.or ⟨.n32, .v 1, .v 2, .v 3, true⟩) ∧
    decode 0b00_01001_010_0000000_0000010_1100100_0 0 = .ok (.xor ⟨.s64, .v 0, .v 2, .s 4, false⟩) ∧
    decode 0b00_01010_000_0000001_0000010_0000011_0 0 = .ok (.andn ⟨.s32, .v 1, .v 2, .v 3, false⟩) ∧
    decode 0b00_01011_011_0000010_0000100_0000111_0 0 = .ok (.shl ⟨.n64, .v 2, .v 4, .v 7, false⟩) ∧
    decode 0b00_01100_000_0000001_0000010_0000011_0 0 = .ok (.shr ⟨.s32, .v 1, .v 2, .v 3, false⟩) ∧
    decode 0b00_01101_001_0000001_0000010_0000011_0 0 = .ok (.rot ⟨.n32, .v 1, .v 2, .v 3, false⟩) ∧
    decode 0b00_10100_010_0000010_0000100_0000111_0 0 = .ok (.bfe ⟨.s64, .v 2, .v 4, .v 7, false⟩) ∧
    decode 0b00_10101_000_0000001_0000010_0000011_0 0 = .ok (.bfi ⟨.s32, .v 1, .v 2, .v 3, false⟩) := by
  refine ⟨?_, ?_, ?_, ?_, ?_, ?_, ?_, ?_, ?_⟩ <;> rfl

theorem test_decode_unary :
    decode 0b00_10011_000_0000001_0000010_0000000_0 0 = .ok (.abs ⟨.s32, .v 1, .v 2, false⟩) ∧
    decode 0b00_10011_110_0000001_0000010_0000001_0 0 = .ok (.neg ⟨.f16x2, .v 1, .v 2, false⟩) ∧
    decode 0b00_10011_001_0000001_0000010_0000010_0 0 = .ok (.not ⟨.n32, .v 1, .v 2, false⟩) ∧
    decode 0b00_10011_011_0000001_0000010_0000011_0 0 = .ok (.popc ⟨.n64, .v 1, .v 2, false⟩) ∧
    decode 0b00_10011_010_0000001_0000010_0000100_0 0 = .ok (.clz ⟨.s64, .v 1, .v 2, false⟩) ∧
    decode 0b00_10011_000_0000001_0000010_0000101_1 0 = .ok (.brev ⟨.s32, .v 1, .v 2, true⟩) ∧
    decode 0b00_10011_101_0000010_0000100_0000110_0 0 = .ok (.sqrt ⟨.f64, .v 2, .v 4, false⟩) ∧
    decode 0b00_10011_111_0000001_0000010_0000111_0 0 = .ok (.rcp ⟨.bf16x2, .v 1, .v 2, false⟩) ∧
    decode 0b00_10011_100_0000001_0000010_0001000_0 0 = .ok (.rsq ⟨.f32, .v 1, .v 2, false⟩) ∧
    decode 0b00_10011_100_0000001_0000010_0001001_0 0 = .ok (.ex2 ⟨.f32, .v 1, .v 2, false⟩) := by
  refine ⟨?_, ?_, ?_, ?_, ?_, ?_, ?_, ?_, ?_, ?_⟩ <;> rfl

theorem test_decode_functions :
    decode 0b00_10011_100_0000001_0000010_0001010_0 0 = .ok (.lg2 ⟨.f32, .v 1, .v 2, false⟩) ∧
    decode 0b00_10011_110_0000001_0000010_0001011_0 0 = .ok (.sin ⟨.f16x2, .v 1, .v 2, false⟩) ∧
    decode 0b00_10011_111_0000001_0000010_0001100_0 0 = .ok (.cos ⟨.bf16x2, .v 1, .v 2, false⟩) ∧
    decode 0b00_10011_100_0000001_0000010_0001101_0 0 = .ok (.tanh ⟨.f32, .v 1, .v 2, false⟩) ∧
    decode 0b00_10011_100_0000001_0000010_0001110_0 0 = .ok (.rndiRn ⟨.f32, .v 1, .v 2, false⟩) ∧
    decode 0b00_10011_101_0000010_0000100_0001111_0 0 = .ok (.rndiRz ⟨.f64, .v 2, .v 4, false⟩) ∧
    decode 0b00_10011_100_0000001_0000010_0010000_0 0 = .ok (.rndiRd ⟨.f32, .v 1, .v 2, false⟩) ∧
    decode 0b00_10011_100_0000001_0000010_0010001_0 0 = .ok (.rndiRu ⟨.f32, .v 1, .v 2, false⟩) ∧
    decode 0b00_10011_101_0000001_0000010_0010010_0 0 = .ok (.fclass ⟨.f64, .v 1, .v 2, false⟩) ∧
    decode 0b00_10000_110_0000001_0000010_1001110_1 0 = .ok (.cvt ⟨.e5m2, .f32, .rnsat, .v 1, .v 2⟩) := by
  refine ⟨?_, ?_, ?_, ?_, ?_, ?_, ?_, ?_, ?_, ?_⟩ <;> rfl

theorem test_decode_across :
    decode 0b00_01110_100_011_0011_0000010_0000011_0 0 = .ok (.cmp ⟨.f32, 3, .le, .v 2, .v 3, false⟩) ∧
    decode 0b00_01111_101_0000001_0000010_0000011_0 0 = .ok (.sel ⟨5, .v 1, .v 2, .v 3, false⟩) ∧
    decode 0b00_10110_011_0000010_1100100_1111111_0 0 = .ok (.lea ⟨3, .v 2, .s 4, .z, false⟩) ∧
    decode 0b00_10111_011_0001000_0010000_1111111_0 0 = .ok (.mov ⟨.w8, .v 8, .v 16, false⟩) ∧
    decode 0b00_11000_010_0000001_0000010_1100011_0 0 = .ok (.shfl ⟨.down, .v 1, .v 2, .s 3, false⟩) ∧
    decode 0b00_11001_000_1100101_0000011_0000010_0 0 = .ok (.reduce ⟨.s32, .max, .s 5, .v 3, false⟩) ∧
    decode 0b00_11010_101_0000010_0000100_0001000_0 0 = .ok (.scan ⟨.f64, .add, true, .v 2, .v 4, false⟩) ∧
    decode 0b00_11011_011_1100001_0000110_1111111_0 0 = .ok (.vote ⟨.count, .s 1, 6⟩) ∧
    decode 0b00_11100_001_0000001_0000010_1100011_0 0 = .ok (.compress ⟨1, .v 1, .v 2, .s 3, false⟩) ∧
    decode 0b00_11101_001_0000001_0000010_1111111_0 0 = .ok (.expand ⟨1, .v 1, .v 2, .z, false⟩) ∧
    decode 0b00_11110_010_0001000_0010000_1111111_0 0 = .ok (.trn8 ⟨.e8, .v 8, .v 16, false⟩) ∧
    decode 0b00_11111_010_0000001_0000010_0000011_0 0 = .ok (.dot4 ⟨.sn, .v 1, .v 2, .v 3, false⟩) := by
  refine ⟨?_, ?_, ?_, ?_, ?_, ?_, ?_, ?_, ?_, ?_, ?_, ?_⟩ <;> rfl

theorem test_decode_immediate :
    decode 0b01_00000_1100001_1100010_11111111111 0 = .ok (.addi ⟨.s 1, .s 2, -1⟩) ∧
    decode 0b01_00001_0000001_0000010_00000001111 0 = .ok (.andi ⟨.v 1, .v 2, 15⟩) ∧
    decode 0b01_00010_0000001_0000010_10000000000 0 = .ok (.ori ⟨.v 1, .v 2, 1024⟩) ∧
    decode 0b01_00011_0000001_0000010_00000000001 0 = .ok (.xori ⟨.v 1, .v 2, 1⟩) ∧
    decode 0b01_00100_0000001_0000010_000000_11111 0 = .ok (.shli ⟨.v 1, .v 2, 31⟩) ∧
    decode 0b01_00101_0000001_0000010_000000_00001 0 = .ok (.shri ⟨.v 1, .v 2, 1⟩) ∧
    decode 0b01_00110_0000001_0000010_000000_10000 0 = .ok (.sari ⟨.v 1, .v 2, 16⟩) ∧
    decode 0b01_00111_010_0111_0000010_00000000101 0 = .ok (.cmpi ⟨2, .hs, .v 2, 5⟩) ∧
    decode 0b01_01000_0000001_100000000000000000 0 = .ok (.movi (.v 1) 0x20000) := by
  refine ⟨?_, ?_, ?_, ?_, ?_, ?_, ?_, ?_, ?_⟩ <;> rfl

/-- R48 gives `WINB 2` as 0x5BFF_F802, R72 `WAITC ES=0` as 0x6CE3_FFFF. -/
theorem test_decode_control :
    decode 0b01_01001_001_01_00_111111111111111111 0 = .ok (.bra ⟨1, .any, -1⟩) ∧
    decode 0b01_01010_1100100_000000000000000100 0 = .ok (.call (.s 4) 4) ∧
    decode 0b01_01011_0000000_0000000_00000000000 0 = .ok .regang ∧
    decode 0b01_01100_010_1_000_0000000_000000000_10 0 = .ok (.guard ⟨2, true, 2⟩) ∧
    decode 0x5BFFF802 0 = .ok (.winb 2) ∧
    decode 0b01_01110_1111111_1111111_00000000000 0 = .ok .exit ∧
    decode 0b01_01111_1111111_1111111_11111111111 0 = .ok (.trap 2047) ∧
    decode 0b01_10000_1111111_1111111_00000000000 0 = .ok .nop ∧
    decode 0b01_10111_1111111_1100110_00000000000 0 = .ok (.ret (.s 6)) ∧
    decode 0b01_11000_1111111_1100110_11111111110 0 = .ok (.brx (.s 6) (-2)) ∧
    decode 0b01_11001_1111111_1111111_00000000000 0 = .ok .rft ∧
    decode 0x6CE3FFFF 0 = .ok (.waitc ⟨7, 7, 7, 7, 7, 7, 0, 7⟩) := by
  refine ⟨?_, ?_, ?_, ?_, ?_, ?_, ?_, ?_, ?_, ?_, ?_, ?_⟩ <;> rfl

theorem test_decode_special :
    decode 0b01_10001_0000011_1111111_00000011000 0 = .ok (.get (.v 3) 0x018) ∧
    decode 0b01_10010_1111111_1100001_00000010000 0 = .ok (.put (.s 1) 0x010) ∧
    decode 0b01_10011_001_0000_010_0000_011_1000_0000 0 = .ok (.plop ⟨1, 2, 3, 8⟩) ∧
    decode 0b01_10100_0000101_1111111_01_000000_011 0 = .ok (.pmov ⟨.vp, 3, .v 5, .z⟩) ∧
    decode 0b01_10101_1111111_1111111_10_01_0_001100 0 = .ok (.rqxfer ⟨.vector, .matrix, 12⟩) := by
  refine ⟨?_, ?_, ?_, ?_, ?_⟩ <;> rfl

theorem test_decode_memory :
    decode 0b10_00000_0000100_0001000_10_10_011_1111 0 = .ok (.ld ⟨.v 4, .v 8, .w4, .b32, .acq, 15⟩) ∧
    decode 0b10_00001_0000001_0001000_00_00_100_0111 0 = .ok (.st ⟨.v 1, .v 8, .w1, .b8, .rel, 7⟩) ∧
    decode 0b10_00010_0000001_0000010_00_01_000_1010 0 = .ok (.lds ⟨.v 1, .v 2, .w1, .b16, .default, 10⟩) ∧
    decode 0b10_00011_0000010_0000101_01_11_000_0001 0 = .ok (.sts ⟨.v 2, .v 5, .w2, .b64, .default, 1⟩) ∧
    decode 0b10_00100_0001000_0000001_11_10_000_0000 0 = .ok (.ldp ⟨.v 8, .v 1, .w8, .b32, .default, 0⟩) ∧
    decode 0b10_00101_0000001_0000010_00_10_000_0000 0 = .ok (.stp ⟨.v 1, .v 2, .w1, .b32, .default, 0⟩) ∧
    decode 0b10_00110_0000001_0000010_00_10_011_1011 0 = .ok (.atom ⟨.v 1, .v 2, false, .device, .fmax⟩) ∧
    decode 0b10_00111_0000100_0000010_01_11_010_0000 0 = .ok (.red ⟨.v 4, .v 2, true, .part, .add⟩) ∧
    decode 0b10_01000_0000001_0000011_00_10_001_1000 0 = .ok (.atoms ⟨.v 1, .v 3, false, .team, .exch⟩) ∧
    decode 0b10_01001_1111111_0000010_00_00_000_0000 0 = .ok (.pref (.v 2)) ∧
    decode 0b10_01010_1111111_0000010_00_00_000_0000 0 = .ok (.cctlLine (.v 2)) ∧
    decode 0b10_01010_1111111_1111111_00_00_000_0001 0 = .ok .cctlAll := by
  refine ⟨?_, ?_, ?_, ?_, ?_, ?_, ?_, ?_, ?_, ?_, ?_, ?_⟩ <;> rfl

theorem test_decode_ordering :
    decode 0b10_01011_1111111_1111111_00_00_000_0000 0 = .ok (.fenceFull .group) ∧
    decode 0b10_01011_1111111_1111111_00_00_011_0001 0 = .ok (.fenceAcq .device) ∧
    decode 0b10_01011_1111111_1111111_00_00_101_0010 0 = .ok (.fenceRel .system) ∧
    decode 0b10_01100_1111111_1111111_00_00_001_0000 0 = .ok (.phasePub .team) ∧
    decode 0b10_01100_1111111_1111111_00_00_010_0001 0 = .ok (.phaseRef .part) ∧
    decode 0b10_01100_1111111_1111111_00_00_011_0010 0 = .ok (.phaseBoth .device) ∧
    decode 0b10_01100_1111111_1111111_00_00_100_0011 0 = .ok (.phasePubDur .domain) := by
  refine ⟨?_, ?_, ?_, ?_, ?_, ?_, ?_⟩ <;> rfl

theorem test_decode_barriers :
    decode 0b10_01101_0000010_0000001_01_00_000_0000 0 = .ok (.barinit (.v 2) (.v 1)) ∧
    decode 0b10_01110_1111111_1100001_00_00_000_0000 0 = .ok (.bararr (.s 1)) ∧
    decode 0b10_01111_0000010_0000001_00_00_000_0000 0 = .ok (.barexp (.v 2) (.v 1)) ∧
    decode 0b10_10000_1100010_1100001_01_00_000_0000 0 = .ok (.barwait (.s 2) (.s 1)) ∧
    decode 0b10_10001_0000010_0000001_01_00_000_0000 0 = .ok (.bartest (.v 2) (.v 1)) ∧
    decode 0b10_10010_1111111_0000001_00_00_000_0000 0 = .ok (.barbrk (.v 1)) ∧
    decode 0b10_10011_0000001_0000010_00_00_000_0000 0 = .ok (.armw (.v 1) (.v 2)) := by
  refine ⟨?_, ?_, ?_, ?_, ?_, ?_, ?_⟩ <;> rfl

theorem test_decode_loops :
    decode 0b10_10100_0001000_1111111_11_00_000_0000 0 = .ok (.cpyp (.v 8)) ∧
    decode 0b10_10101_1111111_0000010_01_10_000_0111 0 = .ok (.claim ⟨.v 2, .w2, .b32, 7⟩) ∧
    decode 0b10_10110_101_0000_1111111_00_00_000_0001 0 = .ok (.wave 5 1) ∧
    decode 0b10_10111_1111111_1100101_00_00_001_0010 0 = .ok (.rloop (.s 5) true 2) ∧
    decode 0b10_11000_0000011_1111111_00_00_000_0010 0 = .ok (.rlitem (.v 3) 2) ∧
    decode 0b10_11001_1111111_1111111_00_00_000_0010 0 = .ok (.rldone 2) := by
  refine ⟨?_, ?_, ?_, ?_, ?_, ?_⟩ <;> rfl

theorem test_decode_escort_remote :
    decode 0b11_000000_0000011_1111111_1111111_000 0xDEADBEEF = .ok (.movl (.v 3) 0xDEADBEEF) ∧
    decode 0b11_000001_0000100_0000010_0001000_000 0b010_00_10_0_000000000000000000000101 =
      .ok (.lde ⟨2, .v 4, .w1, .b32, .v 2, .v 8, .default, 5⟩) ∧
    decode 0b11_000010_0000100_0000010_0001000_001 0b011_01_11_1_100000000000000000000000 =
      .ok (.atome ⟨3, .v 4, true, .v 2, .v 8, .fadd, 0x800000⟩) ∧
    decode 0b11_000011_0000001_0000010_0000100_000 0b000_00_10_0000000000000_0000_0_011_0000 =
      .ok (.rld ⟨.v 1, .v 2, .v 4, .w1, .b32, .acq⟩) ∧
    decode 0b11_000100_0000001_0000010_1100001_000 0b000_00_10_0000000000000_0000_0_100_0000 =
      .ok (.rst ⟨.v 1, .v 2, .s 1, .w1, .b32, .rel⟩) ∧
    decode 0b11_000101_0000110_0000010_0000100_000 0b000_01_11_0000000000000_0010_0_100_0000 =
      .ok (.ratom ⟨.v 6, .v 2, .v 4, true, .domain, .smax⟩) ∧
    decode 0b11_000110_1111111_1111111_0000100_000 0 = .ok (.rflush (.v 4)) ∧
    decode 0b11_000111_0000010_0000100_1100001_000 0 = .ok (.rfencef (.v 2) (.v 4) (.s 1)) ∧
    decode 0b11_001000_0000100_0000010_1111111_010 0b00000_11_0000000000000000000000000 = .ok (.cas ⟨.v 4, .v 2, true, .part⟩) ∧
    decode 0b11_001001_0000100_0000010_1111111_001 0b00000_10_0000000000000000000000000 = .ok (.cass ⟨.v 4, .v 2, false, .team⟩) := by
  refine ⟨?_, ?_, ?_, ?_, ?_, ?_, ?_, ?_, ?_, ?_⟩ <;> rfl

theorem test_decode_engines :
    decode 0b11_001010_0011_1_00_0001000_1100001_0_0_1 0b1100010_1100100_1_00000000000000000 =
      .ok (.mma ⟨3, true, .v 8, .s 1, false, true, .s 2, .s 4, true⟩) ∧
    decode 0b11_001011_1111_000_0000001_1100010_000 0 = .ok (.accld ⟨15, .v 1, .s 2⟩) ∧
    decode 0b11_001100_0000_000_1100001_1100010_000 0 = .ok (.accst ⟨0, .s 1, .s 2⟩) ∧
    decode 0b11_001101_0001_000_1111111_1111111_000 0 = .ok (.accz 1) ∧
    decode 0b11_001110_0001000_0100000_1111111_000 0b00000000000000000000_101_1_00010010 =
      .ok (.bfpack ⟨.v 8, .v 32, .sr, true, .b32m8⟩) ∧
    decode 0b11_001111_0010000_0001000_1111111_000 0b00000000000000000000_000_0_00010011 =
      .ok (.bfunpk ⟨.v 16, .v 8, .rn, false, .b64m2⟩) ∧
    decode 0b11_010000_1101000_1111111_1111111_000 0 = .ok (.gath (.s 8)) ∧
    decode 0b11_010001_1101000_1111111_1111111_000 0 = .ok (.coll (.s 8)) ∧
    decode 0b11_010010_1101000_1111111_1111111_000 0 = .ok (.rshard (.s 8)) ∧
    decode 0b11_010011_1100001_1100010_1111111_000 0 = .ok (.sealo (.s 1) (.s 2)) ∧
    decode 0b11_010100_1111111_1100100_1111111_000 0 = .ok (.seala (.s 4)) ∧
    decode 0b11_010101_1111111_1100001_1100010_000 0 = .ok (.sealc (.s 1) (.s 2)) ∧
    decode 0b11_010110_1100001_1100010_1111111_000 63 = .ok (.lnch (.s 1) (.s 2) 63) := by
  refine ⟨?_, ?_, ?_, ?_, ?_, ?_, ?_, ?_, ?_, ?_, ?_, ?_, ?_⟩ <;> rfl

/-- The words that the spec itself encodes (R13, R68, R100 and the examples of chapters 03, 05, 07 and 10), and its illegal words. -/
theorem test_decode_examples :
    decode 0x6BFFF902 0 = .ok (.rqxfer ⟨.copy, .vector, 2⟩) ∧ decode 0xA9A3FE00 0 = .ok (.cpyp (.s 8)) ∧
    decode 0x01018104 0 = .ok (.add ⟨.f32, .v 3, .v 1, .v 2, false⟩) ∧ decode 0x21428691 0 = .ok (.cvt ⟨.bf16, .f32, .rn, .v 5, .v 6⟩) ∧
    decode 0x5253FFFA 0 = .ok (.bra ⟨1, .any, -6⟩) ∧ decode 0x80201513 0 = .ok (.ld ⟨.v 8, .v 2, .w4, .b32, .inv, 3⟩) ∧
    decode 0xC1141140 0x44000003 = .ok (.lde ⟨2, .v 10, .w1, .b32, .v 4, .v 40, .default, 3⟩) ∧
    decode 0xCA288321 0xCBA00000 = .ok (.mma ⟨2, true, .v 32, .s 4, false, true, .s 5, .s 8, false⟩) ∧
    decode 0x99FFF850 0 = .ok (.phasePub .system) ∧ decode 0x99FFF821 0 = .ok (.phaseRef .part) ∧
    decode 0xA1AB4A00 0 = .ok (.barwait (.s 10) (.s 9)) ∧ decode 0xCE6103F8 0x00000110 = .ok (.bfpack ⟨.v 48, .v 64, .rn, true, .b32m4⟩) ∧
    decode 0x27000026 0 = .error 3 ∧ decode 0x2EBE60FE 0 = .error 4 ∧ decode 0x56000001 0 = .error 2 ∧ decode 0xB4000000 0 = .error 1 ∧
    decode 0xFFFFFFFF 0xFFFFFFFF = .error 1 := by
  refine ⟨?_, ?_, ?_, ?_, ?_, ?_, ?_, ?_, ?_, ?_, ?_, ?_, ?_, ?_, ?_, ?_, ?_⟩ <;> rfl

/-- Bytes and table words: the first word of an instruction stands at the lowest address, little-endian (R8, R73). -/
theorem test_decode_bytes :
    decodeBytes [0x04, 0x81, 0x01, 0x01, 7] = .ok (.add ⟨.f32, .v 3, .v 1, .v 2, false⟩, [7]) ∧
    decodeTableWord 64 0x44000003_C1141140 = some (.lde ⟨2, .v 10, .w1, .b32, .v 4, .v 40, .default, 3⟩) ∧
    decodeTableWord 32 0x00000000 = some (.add ⟨.s32, .v 0, .v 0, .v 0, false⟩) := by
  refine ⟨?_, ?_, ?_⟩ <;> rfl

/-! ### Ill-formed instructions: one for each check of `Instr.reason` (R100) -/

/-- Types, codes, semantics and scopes that a row does not take: reason 3. -/
theorem test_wf_codes :
    (Instr.mulh ⟨.f32, .v 1, .v 2, .v 3, false⟩).reason = some 3 ∧ (Instr.fma ⟨.s64, .v 0, .v 2, .v 4, false⟩).reason = some 3 ∧
    (Instr.shl ⟨.f32, .v 1, .v 2, .v 3, false⟩).reason = some 3 ∧ (Instr.div ⟨.f16x2, .v 1, .v 2, .v 3, false⟩).reason = some 3 ∧
    (Instr.cmp ⟨.s32, 0, .nan, .v 1, .v 2, false⟩).reason = some 3 ∧ (Instr.cmp ⟨.bf16x2, 0, .eq, .v 1, .v 2, false⟩).reason = some 3 ∧
    (Instr.cvt ⟨.s8, .n8, .rz, .v 1, .v 2⟩).reason = some 3 ∧ (Instr.abs ⟨.n32, .v 1, .v 2, false⟩).reason = some 3 ∧
    (Instr.popc ⟨.f32, .v 1, .v 2, false⟩).reason = some 3 ∧ (Instr.sqrt ⟨.s32, .v 1, .v 2, false⟩).reason = some 3 ∧
    (Instr.sin ⟨.f64, .v 0, .v 2, false⟩).reason = some 3 ∧ (Instr.fclass ⟨.f16x2, .v 1, .v 2, false⟩).reason = some 3 ∧
    (Instr.reduce ⟨.f32, .xor, .v 1, .v 2, false⟩).reason = some 3 ∧ (Instr.scan ⟨.f16x2, .add, false, .v 1, .v 2, false⟩).reason = some 3 ∧
    (Instr.winb 15).reason = some 3 ∧ (Instr.get (.v 1) 0x007).reason = some 3 ∧ (Instr.put (.v 1) 0x013).reason = some 3 ∧
    (Instr.rqxfer ⟨.copy, .copy, 1⟩).reason = some 3 ∧ (Instr.rqxfer ⟨.copy, .matrix, 0⟩).reason = some 3 ∧
    (Instr.rqxfer ⟨.copy, .matrix, 49⟩).reason = some 3 := by decide

theorem test_wf_memory_codes :
    (Instr.ld ⟨.v 2, .v 4, .w2, .b8, .default, 0⟩).reason = some 3 ∧ (Instr.ld ⟨.v 2, .v 4, .w1, .b64, .default, 0⟩).reason = some 3 ∧
    (Instr.ld ⟨.v 2, .v 4, .w1, .b32, .rel, 0⟩).reason = some 3 ∧ (Instr.st ⟨.v 2, .v 4, .w1, .b8, .default, 8⟩).reason = some 3 ∧
    (Instr.st ⟨.v 2, .v 4, .w1, .b32, .acq, 0⟩).reason = some 3 ∧ (Instr.lds ⟨.v 2, .v 4, .w1, .b32, .nt, 0⟩).reason = some 3 ∧
    (Instr.sts ⟨.v 2, .v 4, .w1, .b32, .acq, 0⟩).reason = some 3 ∧ (Instr.ldp ⟨.v 2, .v 4, .w1, .b32, .inv, 0⟩).reason = some 3 ∧
    (Instr.atoms ⟨.v 2, .v 4, false, .part, .add⟩).reason = some 3 ∧ (Instr.cass ⟨.v 2, .v 4, false, .part⟩).reason = some 3 ∧
    (Instr.ratom ⟨.v 2, .v 4, .v 6, false, .device, .add⟩).reason = some 3 ∧ (Instr.rld ⟨.v 2, .v 4, .v 6, .w1, .b32, .inv⟩).reason = some 3 ∧
    (Instr.rst ⟨.v 2, .v 4, .v 6, .w1, .b32, .vol⟩).reason = some 3 ∧ (Instr.claim ⟨.v 2, .w2, .b16, 0⟩).reason = some 3 ∧
    (Instr.bfpack ⟨.v 8, .v 32, .rnsat, false, .b32m4⟩).reason = some 3 ∧ (Instr.bfunpk ⟨.v 8, .v 48, .rz, false, .b32m4⟩).reason = some 3 ∧
    (Instr.launchRecord 0 0 [] []).reason = some 3 ∧ (Instr.partitionDescriptorWrite []).reason = some 3 := by decide

/-- Runs that are misaligned, that cross from v95 or that include z: reason 4. -/
theorem test_wf_runs :
    (Instr.add ⟨.s64, .v 1, .v 2, .v 4, false⟩).reason = some 4 ∧ (Instr.add ⟨.f64, .v 0, .v 2, .s 3, false⟩).reason = some 4 ∧
    (Instr.lea ⟨0, .v 1, .v 2, .v 4, false⟩).reason = some 4 ∧ (Instr.mov ⟨.w4, .s 28, .s 0, false⟩).reason = some 4 ∧
    (Instr.mov ⟨.w8, .s 24, .s 0, false⟩).reason = some 4 ∧ (Instr.trn8 ⟨.e32, .v 4, .v 8, false⟩).reason = some 4 ∧
    (Instr.call (.s 30) 0).reason = some 4 ∧ (Instr.ret (.s 1)).reason = some 4 ∧ (Instr.ld ⟨.v 6, .v 8, .w4, .b32, .default, 0⟩).reason = some 4 ∧
    (Instr.st ⟨.v 8, .v 7, .w4, .b32, .default, 0⟩).reason = some 4 ∧ (Instr.cas ⟨.v 2, .v 4, true, .part⟩).reason = some 4 ∧
    (Instr.barinit (.v 1) (.v 2)).reason = some 4 ∧ (Instr.armw (.v 1) (.v 3)).reason = some 4 ∧ (Instr.cpyp (.v 4)).reason = some 4 ∧
    (Instr.cvt ⟨.f64, .f32, .rn, .v 1, .v 2⟩).reason = some 4 ∧ (Instr.seala (.s 2)).reason = some 4 ∧ (Instr.gath (.s 4)).reason = some 4 ∧
    (Instr.mma ⟨0, false, .v 4, .s 0, false, false, .s 1, .s 4, false⟩).reason = some 4 ∧
    (Instr.bfpack ⟨.v 4, .v 32, .rn, false, .b32m4⟩).reason = some 4 ∧
    (Instr.lde ⟨0, .v 2, .w1, .b32, .v 4, .v 90, .default, 0x40⟩).reason = some 4 := by decide

/-- Operands of the wrong kind, a v input under an s destination, runs that overlap: reason 5. -/
theorem test_wf_kinds :
    (Instr.add ⟨.s32, .s 1, .v 2, .s 4, false⟩).reason = some 5 ∧ (Instr.add ⟨.s64, .z, .v 2, .v 4, false⟩).reason = some 5 ∧
    (Instr.addi ⟨.s 1, .v 2, 0⟩).reason = some 5 ∧ (Instr.sel ⟨0, .s 1, .s 2, .v 4, false⟩).reason = some 5 ∧
    (Instr.shfl ⟨.idx, .s 1, .v 2, .v 3, false⟩).reason = some 5 ∧ (Instr.scan ⟨.s32, .add, false, .s 1, .v 2, false⟩).reason = some 5 ∧
    (Instr.compress ⟨0, .v 1, .v 2, .v 3, false⟩).reason = some 5 ∧ (Instr.get (.s 1) 0).reason = some 5 ∧
    (Instr.pmov ⟨.pv, 0, .v 1, .v 2⟩).reason = some 5 ∧ (Instr.pmov ⟨.sp, 0, .v 1, .z⟩).reason = some 5 ∧ (Instr.ret (.v 2)).reason = some 5 ∧
    (Instr.ld ⟨.s 2, .v 4, .w1, .b32, .default, 0⟩).reason = some 5 ∧ (Instr.rlitem (.s 1) 0).reason = some 5 ∧
    (Instr.lde ⟨0, .v 2, .w1, .b32, .v 4, .v 1, .default, 2⟩).reason = some 5 ∧ (Instr.atome ⟨0, .v 2, false, .v 4, .v 3, .add, 2⟩).reason = some 5 ∧
    (Instr.mma ⟨0, false, .v 8, .v 0, false, false, .s 1, .s 4, false⟩).reason = some 5 ∧ (Instr.accld ⟨0, .v 1, .v 2⟩).reason = some 5 ∧
    (Instr.bfpack ⟨.v 8, .v 8, .rn, false, .b32m4⟩).reason = some 5 ∧ (Instr.sealo (.v 1) (.s 2)).reason = some 5 ∧
    (Instr.lnch (.s 1) (.v 2) 0).reason = some 5 := by decide

/-! ### What instructions compute: the results that the spec tabulates (chapters 19 to 23) -/

theorem test_abs : un .abs .f32 0xBF800000 = some 0x3F800000 ∧ un .abs .f32 0xFFC00001 = some 0x7FC00001 ∧ un .abs .f32 0x80000000 = some 0 ∧
    un .abs .f32 0xFF800000 = some 0x7F800000 ∧ un .abs .s32 0xFFFFFFF9 = some 7 ∧ un .abs .s32 0x80000000 = some 0x80000000 := by decide
theorem test_neg : un .neg .s32 0x80000000 = some 0x80000000 ∧ un .neg .f32 0x7FC00000 = some 0xFFC00000 := by decide
theorem test_popc : un .popc .n32 0xF0F00001 = some 9 ∧ out (.popc ⟨.n64, .v 3, .v 4, false⟩) [(4, 0xFFFFFFFF), (5, 1)] 3 = some 33 := by decide
theorem test_brev_clz : un .brev .n32 0x12345678 = some 0x1E6A2C48 ∧ un .brev .n32 1 = some 0x80000000 ∧ un .clz .n32 0x100 = some 23 := by decide
theorem test_rcp : un .rcp .f32 0x40400000 = some 0x3EAAAAAB ∧ un .rcp .f32 0x80000000 = some 0xFF800000 := by decide
theorem test_rsq : un .rsq .f32 0xBF800000 = some 0x7FC00000 ∧ evs (.rsq ⟨.f32, .v 3, .v 1, false⟩) [(1, 0xBF800000)] = some [(5, 1), (9, 1)] := by decide
theorem test_rndi : un .rndiRn .f32 0xC0200000 = some 0xC0000000 ∧ un .rndiRz .f32 0xC0200000 = some 0xC0000000 ∧
    un .rndiRd .f32 0xC0200000 = some 0xC0400000 ∧ un .rndiRu .f32 0xC0200000 = some 0xC0000000 ∧ un .rndiRu .f32 0xBE99999A = some 0x80000000 := by decide
theorem test_fclass : un .fclass .f32 0x7F800001 = some 1 ∧ un .fclass .f32 0xFFC00000 = some 2 ∧ un .fclass .f32 0x80000001 = some 0x10 ∧
    un .fclass .f32 0x3F800000 = some 0x100 := by decide
theorem test_cos : un .cos .f32 0x80000000 = some 0x3F800000 ∧ un .cos .f32 0x7F800000 = some 0x7FC00000 := by decide
theorem test_ex2_lg2 : un .ex2 .f32 0x40400000 = some 0x41000000 ∧ un .ex2 .f32 0xC3160000 = some 0 ∧ un .ex2 .f16x2 0x4C003C00 = some 0x7C004000 ∧
    un .lg2 .f32 0x41000000 = some 0x40400000 ∧ un .lg2 .f32 0 = some 0xFF800000 ∧ un .lg2 .f32 0xBF800000 = some 0x7FC00000 := by decide

theorem test_add : bin .add .s32 0x7FFFFFFF 1 = some 0x80000000 := by decide
theorem test_andn : out (.andn ⟨.s64, .v 4, .v 6, .v 8, false⟩) [(6, 0xFFFFFFFF), (7, 0xFF), (8, 0xFFFF), (9, 0xF)] 4 = some 0xFFFF0000 ∧
    out (.andn ⟨.s64, .v 4, .v 6, .v 8, false⟩) [(6, 0xFFFFFFFF), (7, 0xFF), (8, 0xFFFF), (9, 0xF)] 5 = some 0xF0 := by decide
theorem test_mul : bin .mul .f32 0x3FC00000 0x40000000 = some 0x40400000 ∧ bin .mul .f32 0x7F7FFFFF 0x40000000 = some 0x7F800000 ∧
    bin .mul .s32 0x10000 0x10000 = some 0 ∧ evs (.mul ⟨.f32, .v 3, .v 1, .v 2, false⟩) [(1, 0x7F7FFFFF), (2, 0x40000000)] = some [(6, 1), (7, 1)] := by decide
theorem test_mulh : bin .mulh .s32 0x10000 0x10000 = some 1 ∧ bin .mulh .n32 0xFFFFFFFF 0xFFFFFFFF = some 0xFFFFFFFE ∧
    bin .mulh .s32 0xFFFFFFFF 0xFFFFFFFF = some 0 := by decide
theorem test_div : bin .div .f32 0x3F800000 0x40400000 = some 0x3EAAAAAB ∧ bin .div .f32 0x3F800000 0x80000000 = some 0xFF800000 ∧
    bin .div .f32 0 0 = some 0x7FC00000 ∧ bin .div .s32 0xFFFFFFF9 2 = some 0xFFFFFFFD ∧ bin .div .s32 0x80000000 0xFFFFFFFF = some 0x80000000 ∧
    bin .div .n32 7 0 = some 0xFFFFFFFF := by decide
theorem test_min_max : bin .min .f32 0x80000000 0 = some 0x80000000 ∧ bin .max .f32 0x80000000 0 = some 0 ∧
    bin .min .f32 0x7FC00000 0x40000000 = some 0x40000000 ∧ bin .max .f32 0x7F800001 0x7FC00000 = some 0x7FC00000 ∧
    bin .min .s32 0xFFFFFFFF 1 = some 0xFFFFFFFF ∧ bin .min .n32 0xFFFFFFFF 1 = some 1 ∧ bin .max .n32 0xFFFFFFFF 1 = some 0xFFFFFFFF := by decide
/-- One rounding in FMA, two in MUL and ADD. -/
theorem test_fma : out (.fma ⟨.f32, .v 3, .v 1, .v 2, false⟩) [(1, 0x3F800800), (2, 0x3F800800), (3, 0xBF800000)] 3 = some 0x3A000400 ∧
    ((bin .mul .f32 0x3F800800 0x3F800800).bind fun p => bin .add .f32 p 0xBF800000) = some 0x3A000000 := by decide
theorem test_shifts : bin .shl .n32 1 33 = some 2 ∧ bin .shr .s32 0x80000000 31 = some 0xFFFFFFFF ∧ bin .rot .n32 0x80000001 1 = some 3 := by decide

theorem test_cvt_to_integer : conv .s32 .f32 .rz 0x3FC00000 = some 1 ∧ conv .s32 .f32 .rn 0x3FC00000 = some 2 ∧
    conv .s32 .f32 .rn 0xC0200000 = some 0xFFFFFFFE ∧ conv .s32 .f32 .rna 0xC0200000 = some 0xFFFFFFFD ∧
    conv .s32 .f32 .rn 0x4F32D05E = some 0x7FFFFFFF ∧ conv .s32 .f32 .rn 0x7FC00000 = some 0 ∧ conv .s8 .s32 .rn 0x181 = some 0xFFFFFF81 ∧
    conv .s8 .s32 .rnsat 0x181 = some 0x7F ∧ conv .s8 .n32 .rnsat 0xFFFFFFFF = some 0x7F ∧ conv .n8 .s32 .rnsat 0xFFFFFFFB = some 0 := by decide
theorem test_cvt_to_float : conv .e4m3 .f32 .rnsat 0x43FA0000 = some 0x7E ∧ conv .e4m3 .f32 .rn 0x43FA0000 = some 0x7F ∧
    conv .f16 .f32 .rn 0x477FF000 = some 0x7C00 ∧ out (.cvt ⟨.f32, .f64, .rn, .v 3, .v 4⟩) [(4, 0x10000000), (5, 0x3FF00000)] 3 = some 0x3F800000 ∧
    evs (.cvt ⟨.e4m3, .f32, .rn, .v 3, .v 1⟩) [(1, 0x43FA0000)] = some [(20, 1), (22, 1)] := by decide

/-- Lanes 0 to 7 alive, all in one fragment; values by register and lane, predicate 1, tile width. -/
def eight (w : Nat) (p : LaneMask) (regs : List (Nat × (Nat → Nat))) : State :=
  demo 2 (fun g => withP 1 p (withV (regs.flatMap fun r => (List.range 8).map fun l => (r.1, l, BitVec.ofNat 32 (r.2 l))) { g with live := 0xFF, tilew := w })) id

def lanesOut (i : Instr) (s : State) (k n : Nat) : Option (List Nat) := (grp i s).map fun g => (List.range n).map fun l => (look g.v (32 * k + l)).toNat
def sOut (i : Instr) (s : State) (k : Nat) : Option Word := (grp i s).map fun g => look g.s k
def cflagsOut (i : Instr) (s : State) : Option (BitVec 2) := (grp i s).map (·.cflags)
def predOut (i : Instr) (s : State) (p : Nat) : Option LaneMask := (grp i s).map fun g => look g.p p

/-- Predicate 1 set in lanes 1, 3, 4 and 6, v1 = 10 l (the example of R357). -/
theorem test_compress :
    lanesOut (.compress ⟨1, .v 2, .v 1, .s 5, false⟩) (eight 32 0x5A [(1, fun l => 10 * l), (2, fun _ => 99)]) 2 8 = some [10, 30, 40, 60, 0, 0, 0, 0] ∧
    sOut (.compress ⟨1, .v 2, .v 1, .s 5, false⟩) (eight 32 0x5A [(1, fun l => 10 * l)]) 5 = some 4 ∧
    cflagsOut (.compress ⟨1, .v 2, .v 1, .s 5, false⟩) (eight 8 0x5A []) = some 1 := by decide
theorem test_expand :
    lanesOut (.expand ⟨1, .v 3, .v 2, .s 5, false⟩) (eight 32 0x5A [(2, fun l => [10, 30, 40, 60].getD l 0)]) 3 8 = some [0, 10, 0, 30, 40, 0, 60, 0] := by decide
theorem test_reduce :
    lanesOut (.reduce ⟨.s32, .add, .v 5, .v 6, false⟩) (eight 4 0 [(6, fun l => l + 1), (5, fun _ => 9)]) 5 9 = some [10, 10, 10, 10, 26, 26, 26, 26, 0] ∧
    sOut (.reduce ⟨.s32, .max, .s 7, .v 6, false⟩) (eight 4 0 [(6, fun l => l + 1)]) 7 = some 8 ∧
    cflagsOut (.reduce ⟨.s32, .add, .v 5, .v 6, false⟩) (eight 4 0 []) = some 1 := by decide
theorem test_scan :
    lanesOut (.scan ⟨.s32, .add, false, .v 5, .v 6, false⟩) (eight 4 0 [(6, fun l => l + 1)]) 5 8 = some [1, 3, 6, 10, 5, 11, 18, 26] ∧
    lanesOut (.scan ⟨.s32, .add, true, .v 5, .v 6, false⟩) (eight 4 0 [(6, fun l => l + 1)]) 5 8 = some [0, 1, 3, 6, 0, 5, 11, 18] := by decide
/-- R456: v16 + i holds 10 i + j in lane j; lane 2 alone is active and takes row 2 of the square. -/
theorem test_trn8 :
    (grp (.trn8 ⟨.e32, .v 8, .v 16, false⟩)
      (demo 2 (fun g => withV ((List.range 8).map fun j => (18, j, BitVec.ofNat 32 (20 + j))) { g with live := 4 }) id)).map
        (fun g => (List.range 8).map fun j => (look g.v (32 * (8 + j) + 2)).toNat) = some [20, 21, 22, 23, 24, 25, 26, 27] := by decide +kernel
theorem test_vote :
    sOut (.vote ⟨.ballot, .s 5, 1⟩) (eight 32 0xFFFFFF5A []) 5 = some 0x5A ∧ sOut (.vote ⟨.all, .s 5, 1⟩) (eight 32 0xFF []) 5 = some 1 ∧
    lanesOut (.vote ⟨.count, .v 3, 1⟩) (eight 4 0x5A []) 3 8 = some [2, 2, 2, 2, 2, 2, 2, 2] := by decide
theorem test_shfl :
    lanesOut (.shfl ⟨.xor, .v 3, .v 1, .s 4, false⟩) (demo 2 (fun g => withS [(4, 1)] (withV [(1, 0, 7), (1, 1, 8)] { g with live := 3 })) id) 3 2 =
      some [8, 7] := by decide

theorem test_cmp :
    predOut (.cmp ⟨.f32, 2, .eq, .v 1, .v 2, false⟩) (eight 32 0 [(1, fun _ => 0x80000000), (2, fun _ => 0)]) 2 = some 0xFF ∧
    predOut (.cmp ⟨.f32, 2, .nan, .v 1, .v 2, false⟩) (eight 32 0 [(1, fun _ => 0x7FC00000), (2, fun _ => 0x3F800000)]) 2 = some 0xFF ∧
    predOut (.cmp ⟨.s32, 2, .lt, .v 1, .v 2, false⟩) (eight 32 0 [(1, fun _ => 0xFFFFFFFF), (2, fun _ => 1)]) 2 = some 0xFF ∧
    predOut (.cmp ⟨.n32, 2, .lt, .v 1, .v 2, false⟩) (eight 32 0 [(1, fun _ => 0xFFFFFFFF), (2, fun _ => 1)]) 2 = some 0 := by decide
theorem test_cmpi : predOut (.cmpi ⟨3, .lo, .v 2, -1⟩) (eight 32 0 [(2, fun _ => 5)]) 3 = some 0xFF ∧
    predOut (.cmpi ⟨3, .lt, .v 2, -1⟩) (eight 32 0 [(2, fun _ => 5)]) 3 = some 0 := by decide
theorem test_plop : predOut (.plop ⟨4, 1, 2, 0b1000⟩) (demo 2 (fun g => withP 1 0x21 (withP 2 0x20 g)) id) 4 = some 0x20 := by decide
theorem test_pmov : sOut (.pmov ⟨.sp, 1, .s 5, .z⟩) (eight 32 0xABCDEF12 []) 5 = some 0xABCDEF12 ∧
    predOut (.pmov ⟨.ps, 3, .z, .s 7⟩) (demo 2 (fun g => withS [(7, 0x20)] g) id) 3 = some 0x20 := by decide

theorem test_bfe_bfi :
    out (.bfe ⟨.s32, .v 3, .v 1, .v 2, false⟩) [(1, 0x00000F00), (2, 0x0408)] 3 = some 0xFFFFFFFF ∧
    out (.bfe ⟨.n32, .v 3, .v 1, .v 2, false⟩) [(1, 0x00000F00), (2, 0x0408)] 3 = some 0xF ∧
    out (.bfi ⟨.n32, .v 3, .v 1, .v 2, false⟩) [(1, 0xA), (2, 0x0408), (3, 0xFFFFFFFF)] 3 = some 0xFFFFFAFF := by decide
theorem test_dot4 : out (.dot4 ⟨.sn, .v 3, .v 1, .v 2, false⟩) [(1, 0x000000FF), (2, 0x000000FF), (3, 1)] 3 = some 0xFFFFFF02 := by decide
theorem test_lea : out (.lea ⟨4, .v 4, .v 6, .v 1, false⟩) [(6, 0x10), (1, 0xFFFFFFFF)] 4 = some 0 ∧
    out (.lea ⟨4, .v 4, .v 6, .v 1, false⟩) [(6, 0), (1, 0xFFFFFFFF)] 5 = some 0xFFFFFFFF := by decide
theorem test_mov_sel : out (.mov ⟨.w2, .v 4, .v 8, false⟩) [(8, 1), (9, 2)] 5 = some 2 ∧ out (.sel ⟨0, .v 3, .v 1, .v 2, false⟩) [(1, 7), (2, 8)] 3 = some 8 := by decide
theorem test_immediates : out (.addi ⟨.v 3, .v 1, -1⟩) [(1, 0)] 3 = some 0xFFFFFFFF ∧ out (.ori ⟨.v 3, .v 1, 0x400⟩) [(1, 1)] 3 = some 0xFFFFFC01 ∧
    out (.sari ⟨.v 3, .v 1, 31⟩) [(1, 0x80000000)] 3 = some 0xFFFFFFFF ∧ out (.shri ⟨.v 3, .v 1, 31⟩) [(1, 0x80000000)] 3 = some 1 ∧
    out (.movi (.v 3) 0x3FFFF) [] 3 = some 0xFFFFFFFF ∧ out (.movl (.v 3) 0xFF800000) [] 3 = some 0xFF800000 := by decide

/-- The record of R202: 0.3, −1.0, 0.05 and 1.6, then zeros, in B32M4; element 0 of it is 0.25. -/
theorem test_block :
    (blockPack .b32m4 .rn ([0x3E99999A, 0xBF800000, 0x3D4CCCCD, 0x3FCCCCCD] ++ List.replicate 28 0) 0).1 = 0x0060C180 ∧
    (Fmt.f32.ofVal .rn 0 (blockVal .b32m4 0x0060C180 0)).1 = 0x3E800000 := by decide +kernel

/-- Lanes 0 and 5, p1 set in lane 0 alone: slice 0 takes the branch, slice 1 stays (R22, R23). -/
theorem test_bra_splits :
    (grp (.bra ⟨1, .any, 2⟩) (demo 2 (withP 1 1) id)).map (fun g => g.frags.map fun f => (f.pc.toNat, f.slices.toNat)) =
      some [(4104, 1), (4100, 254)] := by decide
theorem test_call : sOut (.call (.s 20) (-1)) (demo 2 id id) 20 = some 4100 ∧
    (grp (.call (.s 20) (-1)) (demo 2 id id)).map (fun g => g.frags.map (·.pc.toNat)) = some [4092] := by decide
/-- An address that is no multiple of 4: ALIGN, which no host mends, so the launch faults with code 3 (R74, R168). -/
theorem test_ret_align :
    (next? (.ret (.s 20)) (demo 2 (withS [(20, 6)]) id)).map (fun s => (s.teams.length, s.launches.map fun l => (l.status, l.fcode))) =
      some (0, [(.failed 1, 3)]) := by decide
/-- TRAP parks in the handler with the address after it (R454, R170). -/
theorem test_trap :
    (grp (.trap 1) (demo 2 id id)).map (fun g => (g.trap.code, g.trap.pc.toNat, g.frags.map (·.wait), g.handler.map (·.token))) =
      some (0x801, 4100, [.host], some (some 0)) := by decide
theorem test_guard : (grp (.guard ⟨1, true, 2⟩) (demo 2 (withP 1 1) id)).map (fun g => g.frags.map (·.guard)) = some [some (0x20, 3)] := by decide
theorem test_get : out (.get (.v 3) 0x003) [] 3 = some 2 ∧ sOut (.get (.s 3) 0x030) (demo 2 id id) 3 = some 0x4004040C := by decide
/-- A TILEW of 3 is ILLEGAL (R418). -/
theorem test_put :
    (grp (.put (.s 4) 0x010) (demo 2 (withS [(4, 8)]) id)).map (·.tilew) = some 8 ∧
    (next? (.put (.s 4) 0x010) (demo 2 (withS [(4, 3)]) id)).map (fun s => s.launches.map (·.fcode)) = some [1] := by decide
theorem test_exit : (grp .exit (demo 2 id id)).map (fun g => (g.live, g.frags.length)) = some (0, 0) := by decide
theorem test_role : (next? (.accz 0) (demo 2 id id)).map (fun s => s.launches.map (·.fcode)) = some [2] := by decide
theorem test_privilege : (next? .rft (demo 2 id id)).map (fun s => s.launches.map (·.fcode)) = some [12] := by decide
/-- RQXFER of 8 units leaves 416 registers (R13 to R16). -/
theorem test_rqxfer :
    (teamOf (.rqxfer ⟨.vector, .matrix, 8⟩) (demo 2 id fun t => { t with live := { t.live with budgets := [480, 96, 480] } })).map (·.live.budgets) =
      some [480, 160, 416] := by decide
/-- A fragment of the group that has still to issue on this clock keeps the old base (R461). -/
theorem test_winb : (grp (.winb 2) { demo 2 id id with plan := [] }).map (·.win) = some 64 ∧
    (grp (.winb 2) { demo 2 id id with plan := [⟨1, 2, 4⟩] }).map (fun g => (g.win, g.winNext)) = some (0, some 64) ∧
    (next? (.winb 13) (demo 2 id id)).map (fun s => s.launches.map (·.fcode)) = some [8] := by decide
theorem test_waitc : (grp (.waitc ⟨7, 7, 7, 7, 7, 7, 0, 7⟩) (demo 2 id id)).map (fun g => g.frags.map (·.pc.toNat)) = some [4100] := by decide
theorem test_regang : (grp .regang (demo 2 id id)).map (fun g => g.frags.map fun f => (f.pc.toNat, f.wait)) = some [(4100, .run)] := by decide

/-! ### Memory -/

theorem test_st : (teamOf (.st ⟨.v 3, .v 4, .w1, .b16, .default, 2⟩) (demo 2 (withV [(3, 0, 0xABCD), (3, 5, 0x1234), (4, 5, 16)]) id)).map (·.pb) =
    some [.st 4 [0xCD, 0xAB], .st 20 [0x34, 0x12]] := by decide
/-- Of two stores in one instruction to one place, the higher lane's stands (R449). -/
theorem test_sts : (teamOf (.sts ⟨.v 3, .v 4, .w1, .b32, .default, 0⟩) (demo 2 (withV [(3, 0, 1), (3, 5, 2), (4, 0, 256), (4, 5, 256)]) id)).map
    (fun t => look t.live.scr 256) = some 2 := by decide
theorem test_lds : (grp (.lds ⟨.v 3, .z, .w1, .b8, .default, 8⟩) (demo 2 id id)).map (fun g => g.ops.map (·.kind)) =
    some [.load ⟨[35], [], [(0, [64]), (5, [64])], 1, 1, true, .default, 0, none, false⟩] := by decide
theorem test_ld_align : (next? (.ld ⟨.v 3, .v 4, .w1, .b32, .default, 0⟩) (demo 2 (withV [(4, 5, 2)]) id)).map (fun s => s.launches.map (·.fcode)) =
    some [3] := by decide
/-- What the landing of a returning atomic will write, by lane. -/
def landing (o : Op) : List (Nat × Nat) :=
  match o.kind with
  | .land l => l.vals.map fun v => (v.1, leNat v.2)
  | _ => []

/-- The example of R346: lanes 0, 1 and 5 of `CAS.DEVICE v6:2, [v4:2]` over one word that holds 5. -/
theorem test_cas :
    (next? (.cas ⟨.v 6, .v 4, false, .device⟩) (withMem 64 [5]
      (demo 2 (fun g => withV [(4, 0, 64), (4, 1, 64), (4, 5, 64), (6, 0, 5), (7, 0, 9), (6, 1, 5), (7, 1, 7), (6, 5, 9), (7, 5, 1)]
        { g with live := 0x23, frags := g.frags.map fun f => { f with stage := 1 } }) id))).map
      (fun s => (look s.mem 64, s.teams.map fun t => t.live.groups.map fun g => g.ops.flatMap landing)) =
        some (1, [[[], [], [(0, 5), (1, 9), (5, 9)]]]) := by decide
theorem test_red : (teamOf (.red ⟨.v 3, .v 4, false, .device, .add⟩) (demo 2 (withV [(3, 0, 7), (3, 5, 8), (4, 5, 8)]) id)).map (fun t => t.pb.map Statements.ungrouped) =
    some [.red 0 false .add 7 0 false, .red 8 false .add 8 0 false] := by decide
theorem test_atoms : (teamOf (.atoms ⟨.v 3, .z, false, .team, .nmax⟩) (demo 2 (withV [(3, 0, 7), (3, 5, 80)]) id)).map (fun t => readNat t.live.scr 0 4) =
    some 80 := by decide
/-- A line outside its write's element is not touched when the drain publishes it (R136). -/
theorem test_publish :
    ((next? (.phasePub .device) (demo 2 id fun t => { t with pb := [.st 0x2000 [1, 2]] })).bind (next? (.publishComplete 1 [0x80]))).map
      (fun s => (readNat s.mem 0x2000 2, s.teams.map fun t => (t.phasen, t.pub.isSome))) = some (0x201, [(1, false)]) := by decide

/-- A copy of the phase that the engine has taken: to the scratchpad, or to global memory. -/
def takenCopy (dst : DWord) : CopyCmd :=
  { id := 9, team := 1, gen := 0, core := 0, phase := 0, group := 256, op := 0, seq := 7, src := 64, dst := dst, len := 16, ctl := 0xFFFFF, rows := 0,
    stride := 0, code := 0, ver := 0, cap := none, torn := [] }
/-- A publish may end before a copy of its phase has landed, but not before a GLOBAL destination is in the Phase Buffer (R136, R141). -/
theorem test_publish_reads :
    [0x2000, 0x8000000000002000].map (fun dst =>
      ((next? (.phasePub .device) { demo 2 id id with copies := [takenCopy dst] }).bind (next? (.publishComplete 1 []))).map fun s =>
        (s.teams.map (·.pub.isSome), s.copies.map (·.cap.isSome))) = [some ([false], [true]), some ([true], [false])] := by decide

/-! ### Barriers, loops, escorts -/

/-- Two arrivals expected: the second completes a generation (R151). -/
theorem test_bararr :
    barCheck (barArrive (barCheck (barArrive ⟨2, 0, 0, 0, 0, false⟩))) = ⟨2, 0, 0, 0, 1, false⟩ ∧
    (teamOf (.bararr (.s 1)) (demo 2 (withS [(1, 0x100)]) fun t => t.onScr fun m => writeBytes m 0x100 (barBytes ⟨1, 0, 0, 0, 6, false⟩))).map
      (fun t => (t.bars.map (·.addr), barRead t.live.scr 0x100)) = some ([0x100], ⟨1, 0, 0, 0, 7, false⟩) := by decide
theorem test_bartest : sOut (.bartest (.s 2) (.s 1)) (demo 2 (withS [(1, 0x100), (2, 1)]) id) 3 = some 3 ∧
    sOut (.bartest (.s 2) (.s 1)) (demo 2 (withS [(1, 0x100)]) id) 3 = some 0 := by decide
/-- The conflict test on the items of chapter 12's worked example: 0 and 2 share a granule; 1 and 3 meet in every signature part; 3 and 4 do
not. -/
theorem test_conflict :
    let item := fun (i : Nat) (gs : List Nat) => gs.foldl Slot.post (⟨i, false, i, [], 0⟩ : Slot)
    conflict (item 0 [0x090040, 0x090050]) (item 2 [0x090040, 0x0A0060]) = true ∧
    conflict (item 0 [0x090040, 0x090050]) (item 1 [0x080010, 0x080020]) = false ∧
    conflict (item 1 [0x080010, 0x080020]) (item 3 [0x080110, 0x080130, 0x080000]) = true ∧
    conflict (item 3 [0x080110, 0x080130, 0x080000]) (item 4 [0x0B0070, 0x0B0080]) = false := by decide +kernel
/-- R182: the quota is used up, so the request is refused and its predicate clears. -/
theorem test_lde_refused :
    predOut (.lde ⟨2, .v 10, .w1, .b32, .v 4, .v 40, .default, 3⟩) (demo 2 (fun g => withP 2 0x21 { g with escu := 65536 }) id) 2 = some 0 ∧
    predOut (.lde ⟨2, .v 10, .w1, .b32, .v 4, .v 40, .default, 3⟩) (demo 2 id id) 2 = some 0x21 := by decide

/-! ### The Matrix Array -/

/-- The worked example of chapter 10: 64 products of 2^-13 and 2^-12 on 1.0 are rounded once; BF16 1.0 times 2^-12, 64 times, on 0. -/
theorem test_mma :
    (mmaElem 2 false false (mmaScalar 4 0x3F80) 0x3F800000 (List.replicate 64 (mmaScalar 4 0x3900, mmaScalar 4 0x3980))).1 = 0x3F800010 ∧
    (mmaElem 2 false false (mmaScalar 4 0x3F80) 0 (List.replicate 64 (mmaScalar 4 0x3F80, mmaScalar 4 0x3980))).1 = 0x3C800000 := by decide


/-! ### Running from reset (log 9) -/

/-- The first step after `MOVI s5, 64` is placed: s5 of the VECTOR group holds 64, and the fragment has moved on. -/
theorem test_first_step :
    (match step (State.reset.withFetchWord 32 0x51940040) with
      | .next s => s.teams.map fun t => t.live.groups.map fun g => ((look g.s 5).toNat, g.frags.map (·.pc.toNat))
      | _ => []) = [[(0, []), (0, []), (64, [4100])]] := by decide
/-- With nothing placed a step is a clock. -/
theorem test_reset_clock : (match step State.reset with
    | .next s => (s.mem, s.cores.map (·.clk), s.dies.map (·.clock))
    | _ => ([], [], [])) = ([], List.replicate 144 1, [1, 1, 1, 1]) := by decide

end Sys2Proof.Tests
end

