-- ==== Sys2Proof/Tests/Witness.lean ====
section
/-!
SUPPORT. Witnesses: for every statement with hypotheses, a concrete state and operands that meet them, each clause at a boundary of its range.
-/
open Sys2Proof Sys2Proof.Machine Sys2Proof.Statements

namespace Sys2Proof.Tests

/-! ### Finding a witness -/

/-- An instruction issues in a state, with room, where its fragment meets `P`. -/
def ready (i : Instr) (s : State) (n : Nat) (P : Ctx → Prop) [DecidablePred P] : Bool :=
  match s.cur.bind s.ctx with
  | none => false
  | some c => decide (c.held = false ∧ c.t.undoAfter = false ∧ c.check i = none ∧ c.blocked i = false ∧ c.fitsLines = true ∧
      c.logged + n ≤ c.meta (·.und) * 16384 ∧ P c)

theorem meets {i : Instr} {s : State} {n : Nat} {P : Ctx → Prop} [DecidablePred P] (h : ready i s n P = true) :
    ∃ c, Issues i s c ∧ c.room n ∧ P c := by
  unfold ready at h
  split at h
  · cases h
  · rename_i c hc
    have h := of_decide_eq_true h
    exact ⟨c, ⟨hc, h.1, h.2.1, h.2.2.1, h.2.2.2.1⟩, ⟨h.2.2.2.2.1, h.2.2.2.2.2.1⟩, h.2.2.2.2.2.2⟩

theorem issues {i : Instr} {s : State} {n : Nat} (h : ready i s n (fun _ => True) = true) : ∃ c, Issues i s c ∧ c.room n :=
  (meets h).imp fun _ h => ⟨h.1, h.2.1⟩

def held {α : Type} (o : Option α) (P : α → Prop) [DecidablePred P] : Bool :=
  match o with
  | some x => decide (P x)
  | none => false

/-- What an option holds meets `P`. -/
theorem got {α : Type} {o : Option α} {P : α → Prop} [DecidablePred P] (h : held o P = true) : ∃ x, o = some x ∧ P x := by
  cases o with
  | none => cases h
  | some x => exact ⟨x, rfl, of_decide_eq_true h⟩

def okAt {α : Type} [DecidableEq α] (x : Except Nat α) (p : α) : Bool :=
  match x with
  | .ok y => decide (y = p)
  | .error _ => false

theorem okAt_iff {α : Type} [DecidableEq α] (x : Except Nat α) (p : α) : x = .ok p ↔ okAt x p = true := by
  cases x <;> simp [okAt]

/-! ### Class 00 and class 01 -/

theorem witness_IntegerRows : ∃ (i : Instr) (o : Alu3) (nb : Nat) (f : Nat → Nat → Nat → Int) (s : State) (c : Ctx),
    intRow i = some (o, nb, f) ∧ o.ty.isInt = true ∧ Issues i s c ∧ c.room (136 * o.ty.regs) := by
  obtain ⟨c, h, r⟩ := issues (i := .mulh ⟨.n64, .v 2, .v 4, .v 94, true⟩) (s := demo 2 (withV [(4, 0, 7)]) id) (n := 272) (by decide)
  exact ⟨_, ⟨.n64, .v 2, .v 4, .v 94, true⟩, _, _, _, c, rfl, rfl, h, r⟩

theorem witness_IntegerUnary : ∃ (i : Instr) (o : Alu2) (n : Nat) (f : Nat → Nat) (s : State) (c : Ctx),
    intUnary i = some (o, n, f) ∧ o.ty.isInt = true ∧ Issues i s c ∧ c.room (136 * n) := by
  obtain ⟨c, h, r⟩ := issues (i := .popc ⟨.n64, .s 1, .s 4, false⟩) (s := demo 0 id id) (n := 136) (by decide)
  exact ⟨_, _, _, _, _, c, rfl, rfl, h, r⟩

theorem witness_BitFields : (∃ c, Issues (.bfi ⟨.s32, .v 95, .v 2, .v 3, false⟩) (demo 2 id id) c ∧ c.room 136) ∧
    ∃ c, Issues (.bfe ⟨.n64, .v 2, .v 4, .z, false⟩) (demo 2 id id) c ∧ c.room 272 := ⟨issues (by decide), issues (by decide)⟩

theorem witness_FloatRows : ∃ (i : Instr) (o : Alu3) (f : Fmt → Nat → Nat → Nat → FRes) (s : State) (c : Ctx),
    floatRow i = some (o, f) ∧ o.ty.isInt = false ∧ Issues i s c ∧ c.room (136 * o.ty.regs) := by
  obtain ⟨c, h, r⟩ := issues (i := .fma ⟨.f16x2, .v 1, .v 2, .v 3, false⟩) (s := demo 2 (withV [(2, 5, 0x7C003C00)]) id) (n := 136) (by decide)
  exact ⟨_, ⟨.f16x2, .v 1, .v 2, .v 3, false⟩, _, _, c, rfl, rfl, h, r⟩

theorem witness_FloatUnary : ∃ (i : Instr) (o : Alu2) (f : Fmt → Nat → FRes) (s : State) (c : Ctx),
    floatUnary i = some (o, f) ∧ o.ty.isInt = false ∧ Issues i s c ∧ c.room (136 * o.ty.regs) := by
  obtain ⟨c, h, r⟩ := issues (i := .sqrt ⟨.f64, .v 2, .v 4, false⟩) (s := demo 2 (withV [(5, 0, 0x40000000)]) id) (n := 272) (by decide)
  exact ⟨_, ⟨.f64, .v 2, .v 4, false⟩, _, _, c, rfl, rfl, h, r⟩

theorem witness_FloatClass : ∃ c, Issues (.fclass ⟨.f64, .v 1, .v 2, false⟩) (demo 2 id id) c ∧ c.room 136 := issues (by decide)
theorem witness_Convert : ∃ c, Issues (.cvt ⟨.f16, .f64, .sr, .v 1, .v 2⟩) (demo 2 id id) c ∧ c.room 136 := issues (by decide)
theorem witness_IntegerConversion : NumTy.isInt .n8 = true ∧ NumTy.isInt .s64 = true := by decide

theorem witness_Immediates : ∃ (i : Instr) (d a : Reg) (f : Word → Word) (s : State) (c : Ctx),
    immRow i = some (d, a, f) ∧ Issues i s c ∧ c.room 136 := by
  obtain ⟨c, h, r⟩ := issues (i := .sari ⟨.v 1, .v 2, 31⟩) (s := demo 2 id id) (n := 136) (by decide)
  exact ⟨_, _, _, _, _, c, rfl, h, r⟩

theorem witness_Moves : ∃ (i : Instr) (d a : Reg) (r : Bool) (n : Nat) (f : (Nat → Nat) → Nat → Nat) (s : State) (c : Ctx),
    moveRow c i = some (d, a, r, n, f) ∧ Issues i s c ∧ c.room (136 * n) := by
  obtain ⟨c, h, r⟩ := issues (i := .trn8 ⟨.e8, .v 8, .v 88, true⟩) (s := demo 2 id id) (n := 1088) (by decide)
  exact ⟨_, _, _, _, _, _, _, c, rfl, h, r⟩

/-- Both runs within the group's registers; a run that reaches past them. -/
theorem witness_BlockConversions :
    (∃ c, Issues (.bfpack ⟨.v 48, .v 64, .sr, true, .b32m4⟩) (demo 1 id id) c ∧ c.room 1360 ∧ c.act ≠ [] ∧
      (c.g.win + Reg.num (.v 64) + 64 ≤ c.g.alloc ∧ c.g.win + Reg.num (.v 48) + 10 ≤ c.g.alloc)) ∧
    ∃ c, Issues (.bfunpk ⟨.v 88, .v 0, .rn, false, .b64m4⟩) (demo 1 (fun g => { g with alloc := 96 }) id) c ∧ c.room 8704 ∧ c.act ≠ [] ∧
      ¬ (c.g.win + Reg.num (.v 0) + 9 ≤ c.g.alloc ∧ c.g.win + Reg.num (.v 88) + 64 ≤ c.g.alloc) := ⟨meets (by decide), meets (by decide)⟩

theorem witness_Compare : (∃ c, Issues (.cmp ⟨.f64, 7, .nan, .v 2, .v 4, false⟩) (demo 2 id id) c ∧ c.room 12) ∧
    ∃ c, Issues (.cmpi ⟨0, .hs, .z, -1⟩) (demo 2 id id) c ∧ c.room 12 := ⟨issues (by decide), issues (by decide)⟩

theorem witness_PredicateMoves : (∃ c, Issues (.plop ⟨7, 0, 7, 15⟩) (demo 2 id id) c ∧ c.room 12) ∧
    (∃ c, Issues (.pmov ⟨.pv, 7, .z, .v 1⟩) (demo 2 id id) c ∧ c.room 136) ∧ (∃ c, Issues (.pmov ⟨.ps, 7, .z, .s 30⟩) (demo 2 id id) c ∧ c.room 136) ∧
    (∃ c, Issues (.pmov ⟨.vp, 0, .v 95, .z⟩) (demo 2 id id) c ∧ c.room 136) ∧ ∃ c, Issues (.pmov ⟨.sp, 0, .s 0, .z⟩) (demo 2 id id) c ∧ c.room 136 :=
  ⟨issues (by decide), issues (by decide), issues (by decide), issues (by decide), issues (by decide)⟩

theorem witness_Votes : (∃ c, Issues (.vote ⟨.ballot, .v 3, 7⟩) (demo 2 (fun g => { g with tilew := 2 }) id) c ∧ c.room 136 ∧ c.busy (.v 3) 1 = false) ∧
    ∃ c, Issues (.vote ⟨.count, .s 3, 7⟩) (demo 2 id id) c ∧ c.room 136 ∧ c.busy (.s 3) 1 = false := ⟨meets (by decide), meets (by decide)⟩

theorem witness_Reduce : (∃ c, Issues (.reduce ⟨.f64, .add, .v 2, .v 4, true⟩) (demo 2 (fun g => { g with tilew := 4 }) id) c ∧ c.room 272 ∧
      c.busy (.v 2) 2 = false) ∧
    ∃ c, Issues (.reduce ⟨.n32, .xor, .s 0, .v 4, false⟩) (demo 2 (fun g => { g with frags := g.frags.map fun f => { f with guard := some (0, 2) } }) id) c ∧
      c.room 136 ∧ c.busy (.s 0) 1 = false := ⟨meets (by decide), meets (by decide)⟩

theorem witness_IntegerTree : Ty.isInt .s32 = true ∧ [5, 7, 0xFFFFFFFF] ≠ [] ∧ [5, 7, 0xFFFFFFFF].length ≤ 32 ∧
    ∀ x ∈ [5, 7, 0xFFFFFFFF], x < 2 ^ tyBits .s32 := by decide

theorem witness_IntegerPrefix : Ty.isInt .n64 = true ∧ 2 < [5, 7, 9].length ∧ [5, 7, 9].length ≤ 32 ∧ ∀ x ∈ [5, 7, 9], x < 2 ^ tyBits .n64 := by decide

theorem witness_Scans : ∃ c, Issues (.scan ⟨.s32, .add, true, .v 5, .v 6, false⟩) (demo 2 (fun g => { g with tilew := 4 }) id) c ∧ c.room 136 := issues (by decide)

theorem witness_Packing : (∃ c, Issues (.compress ⟨1, .v 2, .v 1, .s 5, false⟩) (demo 2 (withP 1 1) id) c ∧ c.room 272 ∧ c.busy (.s 5) 1 = false) ∧
    ∃ c, Issues (.expand ⟨1, .v 2, .v 2, .z, true⟩) (demo 2 (withP 1 0x20) id) c ∧ c.room 272 ∧ c.busy .z 1 = false := ⟨meets (by decide), meets (by decide)⟩


/-! ### Control and traps -/

/-- An outstanding operation of a class. -/
def busyOp (k : OpClass) (g : Group) : Group := { g with ops := [⟨9, k, 0, false, .stored⟩] }

/-- No lane active: the window's mask is 0. -/
def idle (s : State) : State := { s with teams := s.teams.map fun t => { t with live := { t.live with groups := t.live.groups.map fun g =>
  { g with frags := g.frags.map fun f => { f with guard := some (0, 2) } } } } }

/-- The fragment of slice 0 is in a handler. -/
def handling (r : Bool) (g : Group) : Group :=
  { g with handler := some ⟨0, 4000, none, [1, 2, 3, 4, 5, 6, 7, 8], [1, 2], some (1, 2), none, r, none, []⟩ }

theorem witness_SpecialReads : (∃ c, Issues (.get .z 0x000) (demo 2 id id) c ∧ c.room 136) ∧
    ∃ c, Issues (.get (.v 95) 0x060) (demo 2 id id) c ∧ c.room 136 := ⟨issues (by decide), issues (by decide)⟩

theorem witness_SpecialWrites : (∃ c, Issues (.put (.v 1) 0x010) (idle (demo 2 id id)) c ∧ c.room 0 ∧ c.act = []) ∧
    (∃ c, Issues (.put (.v 1) 0x010) (demo 2 (withV [(1, 0, 32)]) id) c ∧ c.room 0 ∧ c.act ≠ [] ∧ c.word (.v 1) c.low ∈ [2, 4, 8, 16, 32]) ∧
    (∃ c, Issues (.put (.v 1) 0x010) (demo 2 (withV [(1, 0, 33)]) id) c ∧ c.room 0 ∧ c.act ≠ [] ∧ c.word (.v 1) c.low ∉ [2, 4, 8, 16, 32]) ∧
    (∃ c, Issues (.put (.s 1) 0x011) (demo 2 id id) c ∧ c.room 0 ∧ c.act ≠ []) ∧
    (∃ c, Issues (.put .z 0x012) (demo 2 id id) c ∧ c.room 0 ∧ c.act ≠ []) ∧
    (∃ c, Issues (.put .z 0x021) (demo 2 (handling false) id) c ∧ c.room 0 ∧ c.act ≠ [] ∧ c.word .z c.low &&& 3 = 0) ∧
    ∃ c, Issues (.put (.v 1) 0x021) (demo 2 (fun g => withV [(1, 0, 5)] (handling false g)) id) c ∧ c.room 0 ∧ c.act ≠ [] ∧ ¬ c.word (.v 1) c.low &&& 3 = 0 :=
  ⟨meets (by decide), meets (by decide), meets (by decide), meets (by decide), meets (by decide), meets (by decide), meets (by decide)⟩

/-- Nobody takes it; one slice of eight; a slice without active lanes takes ALL and NONE, not ANY. -/
theorem witness_Branches : (∃ c, Issues (.bra ⟨7, .any, -1⟩) (demo 2 (withP 7 0) id) c ∧ c.room 0) ∧
    ∃ c, Issues (.bra ⟨1, .none, 2⟩) (demo 2 (withP 1 1) id) c ∧ c.room 0 := ⟨issues (by decide), issues (by decide)⟩

theorem witness_Calls : (∃ c, Issues (.call (.s (0 : Fin 31)) (-1)) (demo 2 id id) c ∧ c.room 272) ∧
    ∃ c, Issues (.call (.s (28 : Fin 31)) 131071) (demo 2 id id) c ∧ c.room 272 := ⟨issues (by decide), issues (by decide)⟩

theorem witness_Jumps :
    (∃ c, Issues (.ret (.s 4)) (demo 2 (withS [(4, 0xFFFFFFFC), (5, 0xFFFFF)]) id) c ∧ c.room 0 ∧ (BitVec.ofNat 52 (c.rd (.s 4) 2 0) + BitVec.ofInt 52 0).toNat % 4 = 0) ∧
    (∃ c, Issues (.ret (.s 4)) (demo 2 (withS [(4, 7)]) id) c ∧ c.room 0 ∧ (BitVec.ofNat 52 (c.rd (.s 4) 2 0) + BitVec.ofInt 52 0).toNat % 4 ≠ 0) ∧
    (∃ c, Issues (.brx (.s 4) (-1)) (demo 2 (withS [(4, 8)]) id) c ∧ c.room 0 ∧
      (BitVec.ofNat 52 (c.rd (.s 4) 2 0) + BitVec.ofInt 52 (4 * BitVec.toInt (-1 : BitVec 11))).toNat % 4 = 0) ∧
    ∃ c, Issues (.brx (.s 4) 1) (demo 2 (withS [(4, 9)]) id) c ∧ c.room 0 ∧
      (BitVec.ofNat 52 (c.rd (.s 4) 2 0) + BitVec.ofInt 52 (4 * BitVec.toInt (1 : BitVec 11))).toNat % 4 ≠ 0 :=
  ⟨meets (by decide), meets (by decide), meets (by decide), meets (by decide)⟩

/-- A fragment whose turn it is, which has not been asked to wait. -/
def turn (s : State) (P : Ctx → Prop) [DecidablePred P] : Bool := held (s.cur.bind s.ctx) fun c => c.held = false ∧ c.t.undoAfter = false ∧ P c

theorem turns {s : State} {P : Ctx → Prop} [DecidablePred P] (h : turn s P = true) :
    ∃ c, s.cur.bind s.ctx = some c ∧ c.held = false ∧ c.t.undoAfter = false ∧ P c := got h

/-- Its thresholds hold; a class is above its own. -/
theorem witness_ControlWaits : (∃ c, Issues .nop (demo 0 id id) c ∧ c.room 0) ∧
    (∃ c, Issues (.guard ⟨7, true, 3⟩) (demo 1 id id) c ∧ c.room 0) ∧
    (∃ c, (demo 2 id id).cur.bind (demo 2 id id).ctx = some c ∧ c.held = false ∧ c.t.undoAfter = false ∧
      c.check (.waitc ⟨7, 7, 7, 7, 7, 7, 7, 7⟩) = none ∧ c.ordered = false ∧ c.room 0) ∧
    ∃ c, (demo 2 (busyOp .st) id).cur.bind (demo 2 (busyOp .st) id).ctx = some c ∧ c.held = false ∧ c.t.undoAfter = false ∧
      c.check (.waitc ⟨0, 0, 0, 0, 0, 0, 0, 0⟩) = none ∧ c.ordered = false ∧ c.room 0 := by
  simp only [Ctx.room]
  exact ⟨issues (by decide), issues (by decide), turns (by decide), turns (by decide)⟩

/-- Alone; with a second fragment that still runs, and with one already parked. -/
theorem witness_Regang : (∃ c, Issues .regang (demo 2 id id) c ∧ c.room 0) ∧
    (∃ c, Issues .regang (demo 2 (fun g => { g with frags := [⟨4096, 1, 0, none, .run, 0, 0, false⟩, ⟨4096, 2, 0, none, .run, 0, 0, false⟩] }) id) c ∧ c.room 0) ∧
    ∃ c, Issues .regang (demo 2 (fun g => { g with frags := [⟨4096, 1, 0, none, .run, 0, 0, false⟩, ⟨4096, 2, 0, none, .regang, 0, 0, false⟩] }) id) c ∧ c.room 0 :=
  ⟨issues (by decide), issues (by decide), issues (by decide)⟩

/-- The registers the group holds after the instruction's check (R16). -/
def heldRegs (c : Ctx) : Nat :=
  if c.t.live.quota.isSome = true ∧ c.g.xferDone = true then c.g.alloc else c.t.live.budgets.getD c.g.role.toNat 0

/-- A transfer is pending, the group has executed it, and it holds fewer registers than its role's budget. -/
def transferring (t : Team) : Team := { t with live := { t.live with quota := some ⟨.vector, .matrix, 1, 1⟩, groups := t.live.groups.map fun g =>
  { g with xferDone := true, alloc := 128 } } }

theorem witness_Window : (∃ c, Issues (.winb 12) (demo 2 id id) c ∧ c.room 0 ∧ 32 * (12 : BitVec 4).toNat + 96 ≤ heldRegs c ∧ heldRegs c ≤ c.g.alloc) ∧
    (∃ c, Issues (.winb 12) (demo 2 (fun g => { g with alloc := 96 }) id) c ∧ c.room 0 ∧ 32 * (12 : BitVec 4).toNat + 96 ≤ heldRegs c ∧
      c.g.alloc < heldRegs c) ∧
    (∃ c, Issues (.winb 13) (demo 2 id id) c ∧ c.room 0 ∧ heldRegs c < 32 * (13 : BitVec 4).toNat + 96) ∧
    (∃ c, Issues (.winb 1) (demo 2 id transferring) c ∧ c.room 0 ∧ 32 * (1 : BitVec 4).toNat + 96 ≤ heldRegs c ∧ heldRegs c ≤ c.g.alloc ∧
      c.g.alloc < c.t.live.budgets.getD c.g.role.toNat 0) ∧
    (∃ c, Issues (.winb 2) (demo 2 id transferring) c ∧ c.room 0 ∧ heldRegs c < 32 * (2 : BitVec 4).toNat + 96 ∧
      32 * (2 : BitVec 4).toNat + 96 ≤ c.t.live.budgets.getD c.g.role.toNat 0) ∧
    (∃ c, Issues (.winb 12) { demo 2 id id with plan := [⟨1, 2, 3⟩] } c ∧ c.room 0 ∧
      c.s.plan.any (fun r => r.team == c.ref.team && r.group == c.ref.group) = true ∧ 32 * (12 : BitVec 4).toNat + 96 ≤ heldRegs c) ∧
    ∃ s : State, s = { demo 2 (fun g => { g with winNext := some 32 }) id with plan := [] } ∧ s.agenda = [] ∧ s.plan = [] :=
  ⟨meets (by decide), meets (by decide), meets (by decide), meets (by decide), meets (by decide), meets (by decide), _, rfl, rfl, rfl⟩

/-- The checks of RQXFER pass. -/
abbrev transfers (o : RqxferOps) (others : Bool) (c : Ctx) : Prop :=
  c.t.live.groups.any (fun g => g.role == o.dst) = true ∧ c.t.live.quota = none ∧ 8 * o.cnt.toNat + 96 ≤ c.t.live.budgets.getD o.src.toNat 0 ∧
  c.t.live.budgets.getD o.dst.toNat 0 + 8 * o.cnt.toNat ≤ 480 ∧
  c.g.sb.all (fun id => decide (id < vName (c.t.live.budgets.getD o.src.toNat 0 - 8 * o.cnt.toNat))) = true ∧
  c.g.win + 96 ≤ c.t.live.budgets.getD o.src.toNat 0 - 8 * o.cnt.toNat ∧
  (c.t.live.groups.zipIdx.any fun p => p.2 != c.ref.group && p.1.role == o.src && p.1.alive && !p.1.xferDone) = others


/-- A second VECTOR group, and a COPY budget with room. -/
def fourGroups (t : Team) : Team :=
  let groups := t.live.groups ++ [{ emptyGroup .vector true 4096 with live := 1 }]
  { t with live := { t.live with groups := groups, budgets := [472, 480, 480] } }

theorem witness_QuotaTransfer :
    (∃ c, Issues (.rqxfer ⟨.vector, .matrix, 15⟩) (demo 2 id fun t => { t with live := { t.live with budgets := [480, 96, 480] } }) c ∧ c.room 0 ∧
      transfers ⟨.vector, .matrix, 15⟩ false c) ∧
    ∃ c, Issues (.rqxfer ⟨.vector, .copy, 1⟩) (demo 2 id fourGroups) c ∧ c.room 0 ∧
      transfers ⟨.vector, .copy, 1⟩ true c := ⟨meets (by decide), meets (by decide)⟩

theorem witness_Exits : (∃ c, Issues .exit (idle (demo 2 id id)) c ∧ c.room 0 ∧ c.act = []) ∧
    ∃ c, Issues .exit (demo 2 id id) c ∧ c.room 0 ∧ c.act ≠ [] := ⟨meets (by decide), meets (by decide)⟩

/-- A type the row does not take, reason 3; a branch in a window, reason 6. -/
theorem witness_IllegalEncoding :
    (∃ c, (demo 2 id id).cur.bind (demo 2 id id).ctx = some c ∧ c.held = false ∧ c.t.undoAfter = false ∧
      lowestOf [(Instr.sqrt ⟨.s32, .v 1, .v 2, false⟩).reason, if c.f.guard.isSome && !windowOk (.sqrt ⟨.s32, .v 1, .v 2, false⟩) then some 6 else none] = some 3) ∧
    ∃ c, (idle (demo 2 id id)).cur.bind (idle (demo 2 id id)).ctx = some c ∧ c.held = false ∧ c.t.undoAfter = false ∧
      lowestOf [Instr.reason .regang, if c.f.guard.isSome && !windowOk .regang then some 6 else none] = some 6 :=
  ⟨turns (by decide), turns (by decide)⟩

/-- The encoding checks pass. -/
abbrev encoded (i : Instr) (c : Ctx) : Prop := lowestOf [i.reason, if c.f.guard.isSome && !windowOk i then some 6 else none] = none

theorem witness_RoleAndPrivilege :
    (∃ c, (demo 2 id id).cur.bind (demo 2 id id).ctx = some c ∧ c.held = false ∧ c.t.undoAfter = false ∧
      lowestOf [(Instr.accz 0).reason, if c.f.guard.isSome && !windowOk (.accz 0) then some 6 else none] = none ∧ c.g.role ≠ .matrix) ∧
    (∃ c, (demo 1 id id).cur.bind (demo 1 id id).ctx = some c ∧ c.held = false ∧ c.t.undoAfter = false ∧
      lowestOf [(Instr.cpyp (.v 8)).reason, if c.f.guard.isSome && !windowOk (.cpyp (.v 8)) then some 6 else none] = none ∧ c.g.role ≠ .copy) ∧
    (∃ c, (demo 1 id id).cur.bind (demo 1 id id).ctx = some c ∧ c.held = false ∧ c.t.undoAfter = false ∧
      lowestOf [(Instr.rqxfer ⟨.vector, .matrix, 1⟩).reason, if c.f.guard.isSome && !windowOk (.rqxfer ⟨.vector, .matrix, 1⟩) then some 6 else none] = none ∧
      c.g.role ≠ .vector) ∧
    (∃ c, (demo 2 id id).cur.bind (demo 2 id id).ctx = some c ∧ c.held = false ∧ c.t.undoAfter = false ∧
      lowestOf [(Instr.get (.v 1) 0x027).reason, if c.f.guard.isSome && !windowOk (.get (.v 1) 0x027) then some 6 else none] = none ∧ c.inHandler = false) ∧
    ∃ c, (demo 2 id id).cur.bind (demo 2 id id).ctx = some c ∧ c.held = false ∧ c.t.undoAfter = false ∧
      lowestOf [Instr.reason .rft, if c.f.guard.isSome && !windowOk .rft then some 6 else none] = none ∧ c.inHandler = false :=
  ⟨turns (by decide), turns (by decide), turns (by decide), turns (by decide), turns (by decide)⟩

/-- A fragment whose turn it is, with an instruction that passes the checks before the waits. -/
abbrev checked (i : Instr) (c : Ctx) : Prop := c.held = false ∧ c.t.undoAfter = false ∧ c.check i = none

/-- An acquiring load under way. -/
def acquiring (g : Group) : Group := { g with ops := [⟨9, .ld, 0, false, .load ⟨[35], [⟨0, 64, false⟩], [], 4, 4, false, .acq, 0, none, false⟩⟩] }

/-- A register that is away; a full counter; an acquiring load before an addition; an earlier load before a publish; an s result that is away. -/
theorem witness_Interlocks :
    (∃ c, (demo 2 (fun g => { g with sb := [36] }) id).cur.bind (demo 2 (fun g => { g with sb := [36] }) id).ctx = some c ∧
      checked (.add ⟨.n32, .v 3, .v 4, .z, false⟩) c ∧ c.act ≠ [] ∧
      ∃ r ∈ instrRuns (.add ⟨.n32, .v 3, .v 4, .z, false⟩), ∃ id ∈ c.runIds r.1 r.2, id ∈ c.g.sb) ∧
    (∃ c, (demo 2 (fun g => { g with ops := List.replicate 64 ⟨9, .st, 0, false, .stored⟩ }) id).cur.bind
        (demo 2 (fun g => { g with ops := List.replicate 64 ⟨9, .st, 0, false, .stored⟩ }) id).ctx = some c ∧
      checked (.st ⟨.v 3, .v 4, .w1, .b32, .default, 0⟩) c ∧ c.act ≠ [] ∧
      (instrClass (.st ⟨.v 3, .v 4, .w1, .b32, .default, 0⟩) = some .st ∧ 64 ≤ c.g.count .st)) ∧
    (∃ c, (demo 2 acquiring id).cur.bind (demo 2 acquiring id).ctx = some c ∧ checked (.add ⟨.n32, .v 9, .v 4, .z, false⟩) c ∧ c.ordered = true) ∧
    (∃ c, (demo 2 acquiring id).cur.bind (demo 2 acquiring id).ctx = some c ∧ checked (.phasePub .device) c ∧ c.kept (.phasePub .device) = true) ∧
    ∃ c, (demo 2 (fun g => { g with sb := [4] }) id).cur.bind (demo 2 (fun g => { g with sb := [4] }) id).ctx = some c ∧
      checked (.vote ⟨.count, .s 3, 7⟩) c ∧ c.interlock (.vote ⟨.count, .s 3, 7⟩) = true :=
  ⟨got (by decide), got (by decide), got (by decide), got (by decide), got (by decide)⟩

theorem witness_SoftwareTrap : (∃ c, Issues (.trap 0x7FF) (idle (demo 2 id id)) c ∧ c.room 0 ∧ c.act = []) ∧
    ∃ c, Issues (.trap 0) (demo 2 id id) c ∧ c.room 0 ∧ c.act ≠ [] := ⟨meets (by decide), meets (by decide)⟩

theorem witness_TrapEntry : (∃ c, (demo 2 id id).cur.bind (demo 2 id id).ctx = some c ∧ c.g.handler = none) ∧
    hostAssisted { code := 0xFFF, addr := 0, lanes := 1, aux0 := 0, aux1 := 0, aux2 := 0, pc := none } = true := ⟨got (by decide), by decide⟩

theorem witness_UnresolvedTrap :
    (∃ c, (demo 2 id id).cur.bind (demo 2 id id).ctx = some c ∧ c.g.handler = none) ∧ hostAssisted (trapAt 3 1 1) = false ∧
    (∃ c, (demo 2 (handling false) id).cur.bind (demo 2 (handling false) id).ctx = some c ∧ c.inHandler = true) ∧
    ∃ c, (demo 2 id id).cur.bind (demo 2 id id).ctx = some c ∧ held c.launch (fun l => l.status.ended = false) = true :=
  ⟨got (by decide), by decide, got (by decide), got (by decide)⟩

theorem witness_TrapReturn : ∃ c h, Issues .rft (demo 2 (handling false) id) c ∧ c.room 0 ∧ c.g.handler = some h ∧ h.retry = false := by
  obtain ⟨c, i, r, h⟩ := meets (i := .rft) (s := demo 2 (handling false) id) (n := 0) (P := fun c => held c.g.handler (fun h => h.retry = false) = true) (by decide)
  obtain ⟨h, e, k⟩ := got h
  exact ⟨c, h, i, r, e, k⟩

/-! ### Memory -/

/-- v4 holds 64 in lane 0 and 128 in lane 5; v6:2 and v8 are operands. -/
def addrs : Group → Group := withV [(4, 0, 64), (4, 5, 128), (6, 0, 5), (6, 5, 7), (7, 0, 9)]

theorem witness_GlobalLoads :
    (∃ c, Issues (.ld ⟨.v 90, .v 4, .w2, .b64, .vol, 1⟩) (demo 2 addrs id) c ∧ c.room (136 * (MemOps.w ⟨.v 90, .v 4, .w2, .b64, .vol, 1⟩).regs) ∧ c.act ≠ [] ∧
      ∀ l ∈ c.lanes (.v 90), (c.rd (.v 4) 2 l + xOffset ⟨.v 90, .v 4, .w2, .b64, .vol, 1⟩) % 2 ^ 52 % 8 = 0 ∧
        c.s.access c.root .load ((c.rd (.v 4) 2 l + xOffset ⟨.v 90, .v 4, .w2, .b64, .vol, 1⟩) % 2 ^ 52) = .ok ((if l = 0 then 72 else 136), false)) ∧
    ∃ c, Issues (.ldp ⟨.v 3, .v 4, .w1, .b8, .default, 15⟩) (demo 2 addrs id) c ∧ c.room 136 ∧ c.act ≠ [] ∧
      ∀ l ∈ c.lanes (.v 3), (c.rd (.v 4) 1 l + xOffset ⟨.v 3, .v 4, .w1, .b8, .default, 15⟩) % 2 ^ 32 % 1 = 0 ∧
        privateOk c .load l ((c.rd (.v 4) 1 l + xOffset ⟨.v 3, .v 4, .w1, .b8, .default, 15⟩) % 2 ^ 32)
          (if l = 0 then 0x10400047 else 0x10450087) false := by
  simp only [okAt_iff, privateOk]
  exact ⟨meets (by decide), meets (by decide)⟩

/-- A load of the group has yet to read what lane 0 names, and the team has written it. -/
theorem witness_GlobalLoads_behind : ∃ c, Issues (.ld ⟨.v 3, .v 4, .w1, .b32, .default, 0⟩) (demo 2 (fun g => addrs { g with
      ops := [⟨9, .ld, 0, false, .load ⟨[99], [⟨0, 64, false⟩], [], 4, 4, false, .default, 0, none, false⟩⟩] }) fun t => { t with pb := [.st 64 [1, 2, 3, 4]] }) c ∧
    c.room 136 ∧ c.act ≠ [] ∧ (∀ l ∈ c.lanes (.v 3), c.rd (.v 4) 2 l % 2 ^ 52 % 4 = 0 ∧
      c.s.access c.root .load (c.rd (.v 4) 2 l % 2 ^ 52) = .ok ((if l = 0 then 64 else 128), false)) ∧
    ∃ l ∈ c.lanes (.v 3), c.t.ownItems (32 * c.ref.group + l) (if l = 0 then 64 else 128) 4 ≠ [] ∧ c.g.unread (if l = 0 then 64 else 128) 4 = true := by
  simp only [okAt_iff]
  exact meets (by decide)

/-- A reflective store of the group, at an offset, that its own team has yet to take. -/
def reflecting (a : Nat) (g : Group) : Group := { g with ops := [⟨9, .st, 0, false, .refl 0 [(a, [1, 2, 3, 4])] [1, 2]⟩] }

/-- The last word of the scratchpad; and a word that an own reflective store is about to write. -/
theorem witness_ScratchLoads :
    (∃ c, Issues (.lds ⟨.v 3, .v 4, .w1, .b32, .default, 15⟩) (demo 2 (withV [(4, 0, 65472), (4, 5, 0)]) id) c ∧ c.room 136 ∧ c.act ≠ [] ∧
      (∀ l ∈ c.lanes (.v 3), let ea := (c.rd (.v 4) 1 l + xOffset ⟨.v 3, .v 4, .w1, .b32, .default, 15⟩) % 2 ^ 32
        ea % 4 = 0 ∧ ea < 2 ^ 31 ∧ ea + 4 ≤ c.scrSize ∧ ∀ k, k < 4 → c.t.accstByte (ea + k) = false) ∧
      c.reflMeets ((c.lanes (.v 3)).map fun l => ((c.rd (.v 4) 1 l + xOffset ⟨.v 3, .v 4, .w1, .b32, .default, 15⟩) % 2 ^ 32, 4)) = false) ∧
    ∃ c, Issues (.lds ⟨.v 3, .v 4, .w1, .b32, .default, 15⟩) (demo 2 (fun g => withV [(4, 0, 65472), (4, 5, 0)] (reflecting 60 g)) id) c ∧ c.room 136 ∧
      c.act ≠ [] ∧
      (∀ l ∈ c.lanes (.v 3), let ea := (c.rd (.v 4) 1 l + xOffset ⟨.v 3, .v 4, .w1, .b32, .default, 15⟩) % 2 ^ 32
        ea % 4 = 0 ∧ ea < 2 ^ 31 ∧ ea + 4 ≤ c.scrSize) ∧
      c.reflMeets ((c.lanes (.v 3)).map fun l => ((c.rd (.v 4) 1 l + xOffset ⟨.v 3, .v 4, .w1, .b32, .default, 15⟩) % 2 ^ 32, 4)) = true :=
  ⟨meets (by decide), meets (by decide)⟩

/-- A load of two lanes into v3, in flight. -/
def loading (o : LoadOp) (g : Group) : Group := { g with ops := [⟨9, .ld, 0, false, .load o⟩], sb := o.dst }

theorem witness_LoadLands : ∃ (t : Team) (g : Group) (o : Op) (l : LoadOp),
    (demo 2 (loading ⟨[35], [⟨0, 64, false⟩], [(5, [7, 0, 0, 0])], 4, 4, false, .default, 0, none, false⟩) id).opOf 1 2 9 = some (t, g, o) ∧ o.kind = .load l ∧ o.fin = false ∧
    (demo 2 (loading ⟨[35], [⟨0, 64, false⟩], [(5, [7, 0, 0, 0])], 4, 4, false, .default, 0, none, false⟩) id).awaitsHost 9 = false ∧ g.olderMeets 9 l.lanes l.nb = false ∧ l.mchk = false ∧
    (∀ x ∈ l.lanes, (demo 2 (loading ⟨[35], [⟨0, 64, false⟩], [(5, [7, 0, 0, 0])], 4, 4, false, .default, 0, none, false⟩) id).poisoned x.addr l.nb = false) ∧
    (∀ b ∈ l.dst, 1 ≤ b) ∧ l.dst.Nodup ∧ ∀ p ∈ l.vals, p.1 < 32 := by
  refine ⟨_, _, _, ⟨[35], [⟨0, 64, false⟩], [(5, [7, 0, 0, 0])], 4, 4, false, .default, 0, none, false⟩, rfl, rfl, rfl, ?_, ?_, rfl, ?_, ?_, ?_, ?_⟩ <;> decide

theorem witness_GlobalStores :
    (∃ c, Issues (.st ⟨.v 6, .v 4, .w2, .b32, .default, 15⟩) (demo 2 addrs id) c ∧ c.room 0 ∧ c.act ≠ [] ∧
      ({ c.t with pb := c.t.pb ++ c.act.map fun l => PbItem.st (if l = 0 then 184 else 248) (leBytes 8 (c.rd (.v 6) 2 l)) } : Team).lines ≤
        64 * c.t.live.groups.length ∧
      ∀ l ∈ c.act, (c.rd (.v 4) 2 l + xOffset ⟨.v 6, .v 4, .w2, .b32, .default, 15⟩) % 2 ^ 52 % 8 = 0 ∧
        c.s.access c.root .store ((c.rd (.v 4) 2 l + xOffset ⟨.v 6, .v 4, .w2, .b32, .default, 15⟩) % 2 ^ 52) = .ok ((if l = 0 then 184 else 248), false)) ∧
    ∃ c, Issues (.stp ⟨.v 6, .v 4, .w1, .b16, .default, 7⟩) (demo 2 addrs id) c ∧ c.room 0 ∧ c.act ≠ [] ∧
      ({ c.t with pb := c.t.pb ++ c.act.map fun l => PbItem.prv (32 * c.ref.group + l) (if l = 0 then 0x1040004E else 0x1045008E) (leBytes 2 (c.rd (.v 6) 1 l)) } : Team).lines ≤
        64 * c.t.live.groups.length ∧
      ∀ l ∈ c.act, (c.rd (.v 4) 1 l + xOffset ⟨.v 6, .v 4, .w1, .b16, .default, 7⟩) % 2 ^ 32 % 2 = 0 ∧
        privateOk c .store l ((c.rd (.v 4) 1 l + xOffset ⟨.v 6, .v 4, .w1, .b16, .default, 7⟩) % 2 ^ 32) (if l = 0 then 0x1040004E else 0x1045008E) false := by
  simp only [okAt_iff, privateOk]
  exact ⟨meets (by decide), meets (by decide)⟩

/-- A publish of the team is outstanding. -/
def publishing (t : Team) : Team := { t with pub := some ⟨0, .device, false, false, none⟩ }

/-- An s form, one access: while a publish is outstanding, and without one. -/
theorem witness_ReleaseStores :
    (∃ c, Issues (.st ⟨.s 3, .s 4, .w1, .b32, .rel, 0⟩) (demo 2 (withS [(4, 64)]) publishing) c ∧ c.act ≠ [] ∧
      (∀ l ∈ c.act.take 1, (c.rd (.s 4) 2 l + 0) % 2 ^ 52 % 4 = 0 ∧ c.s.access c.root .store ((c.rd (.s 4) 2 l + 0) % 2 ^ 52) = .ok (64, false)) ∧
      c.t.pub.isSome = true) ∧
    ∃ c, Issues (.st ⟨.v 3, .v 4, .w1, .b32, .rel, 0⟩) (demo 2 addrs id) c ∧ c.act ≠ [] ∧
      (∀ l ∈ c.act, (c.rd (.v 4) 2 l + 0) % 2 ^ 52 % 4 = 0 ∧
        c.s.access c.root .store ((c.rd (.v 4) 2 l + 0) % 2 ^ 52) = .ok ((if l = 0 then 64 else 128), false)) ∧ c.t.pub = none := by
  simp only [okAt_iff]
  obtain ⟨c, h, _, r⟩ := meets (i := .st ⟨.s 3, .s 4, .w1, .b32, .rel, 0⟩) (s := demo 2 (withS [(4, 64)]) publishing) (n := 0)
    (P := fun c => c.act ≠ [] ∧ (∀ l ∈ c.act.take 1, (c.rd (.s 4) 2 l + 0) % 2 ^ 52 % 4 = 0 ∧
      okAt (c.s.access c.root .store ((c.rd (.s 4) 2 l + 0) % 2 ^ 52)) (64, false) = true) ∧ c.t.pub.isSome = true) (by decide)
  obtain ⟨d, k, _, q⟩ := meets (i := .st ⟨.v 3, .v 4, .w1, .b32, .rel, 0⟩) (s := demo 2 addrs id) (n := 0)
    (P := fun c => c.act ≠ [] ∧ (∀ l ∈ c.act, (c.rd (.v 4) 2 l + 0) % 2 ^ 52 % 4 = 0 ∧
      okAt (c.s.access c.root .store ((c.rd (.v 4) 2 l + 0) % 2 ^ 52)) ((if l = 0 then 64 else 128), false) = true) ∧ c.t.pub = none) (by decide)
  exact ⟨⟨c, h, r⟩, d, k, q⟩

/-- Offsets of the scratchpad past the ring at its start, the second among its last eight bytes. -/
def scrAddrs (g : Group) : Group := withV [(4, 0, 512), (4, 5, 65528)] (addrs g)

/-- A SEALA of the group has yet to read the bytes at 512. -/
def absorbing (g : Group) : Group := { g with ops := [⟨9, .mx, 0, false, .seala 0 false 512 4 0 []⟩] }

/-- STS.DEFAULT, in the second form with bit 31 and no team set; one that overwrites what a SEALA is still to read; and STS.REL while a
reflective store of the group is under way. -/
theorem witness_OwnStores :
    (∃ c, Issues (.sts ⟨.v 6, .v 4, .w1, .b32, .default, 0⟩) (demo 2 scrAddrs id) c ∧ c.room 2304 ∧ c.act ≠ [] ∧
      (∀ l ∈ c.act, let ea := (c.rd (.v 4) 1 l + 0) % 2 ^ 32
        ea % 4 = 0 ∧ ea < 2 ^ 31 ∧ ea + 4 ≤ c.scrSize ∧ c.inMirror ea 4 = false ∧ (c.s.tear c.t ea 4).1 = []) ∧
      (∀ l ∈ c.act, offRing c ((c.rd (.v 4) 1 l + 0) % 2 ^ 32) 4) ∧ ∀ l ∈ c.act, c.g.readsScr ((c.rd (.v 4) 1 l + 0) % 2 ^ 32) 4 = false) ∧
    (∃ c, Issues (.sts ⟨.v 6, .v 4, .w1, .b32, .default, 0⟩) (demo 2 (withV [(4, 0, 0x80000200), (4, 5, 0x8000FFFC)]) id) c ∧ c.room 2304 ∧ c.act ≠ [] ∧
      c.meta (·.tset) < 2 ∧ (∀ l ∈ c.act, let ea := (c.rd (.v 4) 1 l + 0) % 2 ^ 32
        ea % 4 = 0 ∧ 2 ^ 31 ≤ ea ∧ ea % 2 ^ 31 + 4 ≤ c.scrSize ∧ c.inMirror (ea % 2 ^ 31) 4 = false ∧ (c.s.tear c.t (ea % 2 ^ 31) 4).1 = []) ∧
      (∀ l ∈ c.act, offRing c ((c.rd (.v 4) 1 l + 0) % 2 ^ 32 % 2 ^ 31) 4) ∧ ∀ l ∈ c.act, c.g.readsScr ((c.rd (.v 4) 1 l + 0) % 2 ^ 32 % 2 ^ 31) 4 = false) ∧
    (∃ c, Issues (.sts ⟨.v 6, .v 4, .w1, .b32, .default, 0⟩) (demo 2 (fun g => absorbing (scrAddrs g)) id) c ∧ c.room 2304 ∧ c.act ≠ [] ∧
      (∀ l ∈ c.act, let ea := (c.rd (.v 4) 1 l + 0) % 2 ^ 32
        ea % 4 = 0 ∧ ea < 2 ^ 31 ∧ ea + 4 ≤ c.scrSize ∧ c.inMirror ea 4 = false ∧ (c.s.tear c.t ea 4).1 = []) ∧
      (∀ l ∈ c.act, offRing c ((c.rd (.v 4) 1 l + 0) % 2 ^ 32) 4) ∧ ∃ l ∈ c.act, c.g.readsScr ((c.rd (.v 4) 1 l + 0) % 2 ^ 32) 4 = true) ∧
    ∃ c, Issues (.sts ⟨.s 6, .s 4, .w1, .b32, .rel, 0⟩) (demo 2 (fun g => withS [(4, 128)] (reflecting 60 g)) id) c ∧ c.room 2304 ∧ c.act ≠ [] ∧
      (∀ l ∈ c.act.take 1, let ea := (c.rd (.s 4) 1 l + 0) % 2 ^ 32
        ea % 4 = 0 ∧ ea < 2 ^ 31 ∧ ea + 4 ≤ c.scrSize ∧ c.inMirror ea 4 = false ∧ (c.s.tear c.t ea 4).1 = []) ∧ (c.act.take 1).length = 1 ∧
      c.g.ops.any Op.scratchWrite = true := ⟨meets (by decide), meets (by decide), meets (by decide), meets (by decide)⟩

/-- A launch with team sets of two and a mirror window of the last 256 bytes. -/
def mirrored (s : State) : State :=
  { s with launches := s.launches.map fun l => { l with md := l.md.map fun m => { m with tset := 2, mirOff := 65280, mirSize := 256 } } }

/-- Two teams, the second a copy of the first under another number. -/
def twin (s : State) : State := { s with teams := s.teams ++ s.teams.map fun t => { t with id := t.id + 1, idx := 1 } }

theorem witness_ReflectiveStores :
    (∃ c, Issues (.sts ⟨.v 6, .v 4, .w1, .b32, .default, 0⟩) (twin (mirrored (demo 2 (withV [(4, 0, 0x8000FF00), (4, 5, 0x8000FFFC)]) id))) c ∧
      c.room 0 ∧ c.act ≠ [] ∧ 2 ≤ c.meta (·.tset) ∧ c.g.ops = [] ∧
      ∀ l ∈ c.act, let ea := (c.rd (.v 4) 1 l + 0) % 2 ^ 32
        ea % 4 = 0 ∧ 2 ^ 31 ≤ ea ∧ ea - 2 ^ 31 + 4 ≤ c.scrSize ∧ c.meta (·.mirOff) ≤ ea - 2 ^ 31 ∧
          ea - 2 ^ 31 + 4 ≤ c.meta (·.mirOff) + c.meta (·.mirSize)) ∧
    ∃ (t u : Team) (g : Group) (o : Op),
      (twin (demo 2 (reflecting 65280) id)).opOf 1 2 9 = some (t, g, o) ∧
      o.kind = .refl 0 [(65280, [1, 2, 3, 4])] [1, 2] ∧ 2 ∈ [1, 2] ∧ t.reflOlder 9 2 = false ∧
      (twin (demo 2 (reflecting 65280) id)).team? 2 = some u :=
  ⟨meets (by decide), _, _, _, _, rfl, rfl, by decide, by decide, rfl⟩

/-- The second lane is misaligned; both lie past the first GiB, where no page is. -/
theorem witness_AddressFaults :
    (∃ c, Issues (.ld ⟨.v 3, .v 4, .w1, .b32, .default, 0⟩) (demo 2 (withV [(4, 0, 64), (4, 5, 66)]) id) c ∧ c.room 0 ∧ 5 ∈ c.lanes (.v 3) ∧
      (c.rd (.v 4) 2 5 + 0) % 2 ^ 52 % 4 ≠ 0 ∧ ∀ m ∈ c.lanes (.v 3), m < 5 → (c.rd (.v 4) 2 m + 0) % 2 ^ 52 % 4 = 0) ∧
    ∃ c, Issues (.st ⟨.v 3, .v 4, .w1, .b32, .default, 0⟩) (demo 2 (withV [(4, 0, 64), (4, 5, 64), (5, 5, 1)]) id) c ∧ c.room 0 ∧ 5 ∈ c.act ∧
      (∀ m ∈ c.act, (c.rd (.v 4) 2 m + 0) % 2 ^ 52 % 4 = 0) ∧
      (match c.s.access c.root .store ((c.rd (.v 4) 2 5 + 0) % 2 ^ 52) with | .error k => some k | .ok _ => none) = some 4 ∧
      ∀ m ∈ c.act, m < 5 → (match c.s.access c.root .store ((c.rd (.v 4) 2 m + 0) % 2 ^ 52) with | .error k => some k | .ok _ => none) = none :=
  ⟨meets (by decide), meets (by decide)⟩

/-! ### Atomics and ordering -/

/-- Nothing is in the way of an atomic: the location is no host memory and not poisoned. -/
abbrev plain (c : Ctx) (p n : Nat) : Prop := p % n = 0 ∧ c.s.poisoned p n = false ∧ c.s.regionOf p ≠ some .host

/-- A location of host memory whose line the host has sent: the drain holds no write of its bytes. -/
abbrev fromHostMemory (c : Ctx) (p n : Nat) : Prop := c.s.regionOf p = some .host ∧ (∀ i ∈ c.t.drain, i.item.meets p n = false) ∧ 2 ≤ c.f.stage ∧
  c.s.awaitsHost (c.f.stage - 2) = false

/-- The publish of the atomic has completed. -/
def staged (g : Group) : Group := addrs { g with frags := g.frags.map fun f => { f with stage := 1 } }

/-- Device memory; and host memory, whose line the host has sent. -/
theorem witness_AtMemory :
    (∃ c, Issues (.cas ⟨.v 6, .v 4, false, .device⟩) (demo 2 staged id) c ∧ c.room 272 ∧ c.act ≠ [] ∧ c.f.stage ≠ 0 ∧ c.f.wait = .run ∧
      (c.effScope .device).isTeam = false ∧ ∀ l ∈ c.lanes (.v 6), c.rd (.v 4) 2 l % 2 ^ 52 % 4 = 0 ∧
        c.s.access c.root .store (c.rd (.v 4) 2 l % 2 ^ 52) = .ok ((if l = 0 then 64 else 128), false) ∧ plain c (if l = 0 then 64 else 128) 4) ∧
    ∃ c, Issues (.cas ⟨.v 6, .v 4, false, .device⟩) ((demo 2 (fun g => { staged g with frags := g.frags.map fun f => { f with stage := 2 } }) id).setRegion 0 (65536) (.host)) c ∧
      c.room 272 ∧ c.act ≠ [] ∧ c.f.stage ≠ 0 ∧ c.f.wait = .run ∧ (c.effScope .device).isTeam = false ∧
      ∀ l ∈ c.lanes (.v 6), c.rd (.v 4) 2 l % 2 ^ 52 % 4 = 0 ∧
        c.s.access c.root .store (c.rd (.v 4) 2 l % 2 ^ 52) = .ok ((if l = 0 then 64 else 128), false) ∧ c.s.poisoned (if l = 0 then 64 else 128) 4 = false ∧
        fromHostMemory c (if l = 0 then 64 else 128) 4 := by
  simp only [okAt_iff]
  exact ⟨meets (by decide), meets (by decide)⟩

theorem witness_InTeamView : ∃ c, Issues (.atom ⟨.v 6, .v 4, true, .team, .add⟩) (demo 2 staged id) c ∧ c.room 272 ∧ c.act ≠ [] ∧ c.f.stage ≠ 0 ∧
    (c.effScope .team).isTeam = true ∧ (∀ l ∈ c.lanes (.v 6), c.rd (.v 4) 2 l % 2 ^ 52 % 8 = 0 ∧
      c.s.access c.root .store (c.rd (.v 4) 2 l % 2 ^ 52) = .ok ((if l = 0 then 64 else 128), false) ∧ plain c (if l = 0 then 64 else 128) 8) ∧
    ({ c.t with pb := c.t.pb ++ [64, 128].map fun p => PbItem.st p (List.replicate 8 0) } : Team).lines ≤ 64 * c.t.live.groups.length := by
  simp only [okAt_iff]
  exact meets (by decide)

/-- While a publish is outstanding; where the atomic's own is over at once; and where it has a line to wait for. -/
theorem witness_AtomicsPublish :
    (∃ c, Issues (.atom ⟨.v 6, .v 4, false, .device, .exch⟩) (demo 2 addrs publishing) c ∧ c.room 272 ∧ c.act ≠ [] ∧ c.f.stage = 0 ∧ c.f.wait = .run ∧
      (∀ l ∈ c.lanes (.v 6), c.rd (.v 4) 2 l % 2 ^ 52 % 4 = 0 ∧
        c.s.access c.root .store (c.rd (.v 4) 2 l % 2 ^ 52) = .ok ((if l = 0 then 64 else 128), false)) ∧ c.t.pub.isSome = true) ∧
    (∃ c, Issues (.cas ⟨.v 6, .v 4, false, .group⟩) (demo 2 addrs id) c ∧ c.room 272 ∧ c.act ≠ [] ∧ c.f.stage = 0 ∧ c.f.wait = .run ∧
      (∀ l ∈ c.lanes (.v 6), c.rd (.v 4) 2 l % 2 ^ 52 % 4 = 0 ∧
        c.s.access c.root .store (c.rd (.v 4) 2 l % 2 ^ 52) = .ok ((if l = 0 then 64 else 128), false) ∧ plain c (if l = 0 then 64 else 128) 4) ∧
      c.t.pub = none) ∧
    ∃ c, Issues (.cas ⟨.v 6, .v 4, false, .device⟩) (demo 2 addrs fun t => { t with pb := [.st 64 [1]] }) c ∧ c.room 272 ∧ c.act ≠ [] ∧ c.f.stage = 0 ∧
      c.f.wait = .run ∧ (∀ l ∈ c.lanes (.v 6), c.rd (.v 4) 2 l % 2 ^ 52 % 4 = 0 ∧
        c.s.access c.root .store (c.rd (.v 4) 2 l % 2 ^ 52) = .ok ((if l = 0 then 64 else 128), false)) ∧ c.t.pub = none ∧ c.t.pb ≠ [] := by
  simp only [okAt_iff]
  exact ⟨meets (by decide), meets (by decide), meets (by decide)⟩

theorem witness_ScratchAtomics :
    (∃ c, Issues (.atoms ⟨.v 6, .v 4, true, .team, .smin⟩) (demo 2 scrAddrs id) c ∧ c.room 2576 ∧ c.act ≠ [] ∧ (∀ l ∈ c.lanes (.v 6),
      let ea := c.rd (.v 4) 1 l % 2 ^ 32
      ea % 8 = 0 ∧ ea < 2 ^ 31 ∧ ea + 8 ≤ c.scrSize ∧ c.inMirror ea 8 = false ∧ (c.s.tear c.t ea 8).1 = []) ∧
      (∀ l ∈ c.lanes (.v 6), offRing c (c.rd (.v 4) 1 l % 2 ^ 32) 8) ∧ ∀ l ∈ c.lanes (.v 6), c.g.readsScr (c.rd (.v 4) 1 l % 2 ^ 32) 8 = false) ∧
    (∃ c, Issues (.atoms ⟨.v 6, .v 4, true, .team, .smin⟩) (demo 2 (fun g => absorbing (scrAddrs g)) id) c ∧ c.room 2576 ∧ c.act ≠ [] ∧ (∀ l ∈ c.lanes (.v 6),
      let ea := c.rd (.v 4) 1 l % 2 ^ 32
      ea % 8 = 0 ∧ ea < 2 ^ 31 ∧ ea + 8 ≤ c.scrSize ∧ c.inMirror ea 8 = false ∧ (c.s.tear c.t ea 8).1 = []) ∧
      (∀ l ∈ c.lanes (.v 6), offRing c (c.rd (.v 4) 1 l % 2 ^ 32) 8) ∧ ∃ l ∈ c.lanes (.v 6), c.g.readsScr (c.rd (.v 4) 1 l % 2 ^ 32) 8 = true) ∧
    ∃ c, Issues (.cass ⟨.v 6, .v 4, false, .team⟩) (demo 2 (fun g => scrAddrs (staged g)) id) c ∧ c.room 2576 ∧ c.act ≠ [] ∧ c.f.stage ≠ 0 ∧ (∀ l ∈ c.lanes (.v 6),
      let ea := c.rd (.v 4) 1 l % 2 ^ 32
      ea % 4 = 0 ∧ ea < 2 ^ 31 ∧ ea + 4 ≤ c.scrSize ∧ c.inMirror ea 4 = false ∧ (c.s.tear c.t ea 4).1 = []) ∧
      (∀ l ∈ c.lanes (.v 6), offRing c (c.rd (.v 4) 1 l % 2 ^ 32) 4) ∧ ∀ l ∈ c.lanes (.v 6), c.g.readsScr (c.rd (.v 4) 1 l % 2 ^ 32) 4 = false :=
  ⟨meets (by decide), meets (by decide), meets (by decide)⟩

/-- CASS and ATOME before their publish: while another is outstanding, and while none is. -/
theorem witness_OtherPublishes :
    (∃ c, Issues (.cass ⟨.v 6, .v 4, false, .team⟩) (demo 2 scrAddrs publishing) c ∧ c.room 2576 ∧ c.act ≠ [] ∧ c.f.stage = 0 ∧
      scrLanesOk c 4 (c.lanes (.v 6)) (fun l => c.rd (.v 4) 1 l % 2 ^ 32) ∧ (∀ l ∈ c.lanes (.v 6), c.g.readsScr (c.rd (.v 4) 1 l % 2 ^ 32) 4 = false) ∧
      c.t.pub.isSome = true) ∧
    (∃ c, Issues (.cass ⟨.v 6, .v 4, false, .team⟩) (demo 2 scrAddrs fun t => { t with pb := [.st 64 [1]] }) c ∧ c.room 2576 ∧ c.act ≠ [] ∧ c.f.stage = 0 ∧
      scrLanesOk c 4 (c.lanes (.v 6)) (fun l => c.rd (.v 4) 1 l % 2 ^ 32) ∧ (∀ l ∈ c.lanes (.v 6), c.g.readsScr (c.rd (.v 4) 1 l % 2 ^ 32) 4 = false) ∧
      c.t.pub = none) ∧
    (∃ c, Issues (.atome ⟨0, .v 6, false, .v 4, .v 72, .add, 1⟩) (demo 2 addrs publishing) c ∧ c.room 4364 ∧ c.act ≠ [] ∧
      (∀ l ∈ c.act, c.rd (.v 4) 2 l % 2 ^ 52 % 4 = 0) ∧ ¬ (c.meta (·.escq) < c.g.escu + 16 * 1 * 2 ∨ (c.coreOf.map (·.elb)).getD 0 < 16 * 1 * 2) ∧
      c.t.pub.isSome = true) ∧
    ∃ c, Issues (.atome ⟨0, .v 6, false, .v 4, .v 72, .add, 1⟩) (demo 2 addrs fun t => { t with pb := [.st 64 [1]] }) c ∧ c.room 4364 ∧ c.act ≠ [] ∧
      (∀ l ∈ c.act, c.rd (.v 4) 2 l % 2 ^ 52 % 4 = 0) ∧ ¬ (c.meta (·.escq) < c.g.escu + 16 * 1 * 2 ∨ (c.coreOf.map (·.elb)).getD 0 < 16 * 1 * 2) ∧
      c.t.pub = none := by
  simp only [scrLanesOk]
  exact ⟨meets (by decide), meets (by decide), meets (by decide), meets (by decide)⟩

/-- A pending exchange of each location. -/
def pended (t : Team) : Team := { t with pb := [.red 64 false .exch 5 0 false, .red 128 false .exch 6 0 false] }

theorem witness_Reduces :
    (∃ c, Issues (.red ⟨.v 6, .v 4, true, .system, .fadd⟩) (demo 2 addrs id) c ∧ c.room 0 ∧ c.act ≠ [] ∧
      ({ c.t with pb := c.t.pb ++ c.act.map fun l => PbItem.red (if l = 0 then 64 else 128) true .fadd (BitVec.ofNat 64 (c.rd (.v 6) 2 l)) 0 false } : Team).lines ≤
        64 * c.t.live.groups.length ∧
      (∀ l ∈ c.act, c.rd (.v 4) 2 l % 2 ^ 52 % 8 = 0 ∧ c.s.access c.root .store (c.rd (.v 4) 2 l % 2 ^ 52) = .ok ((if l = 0 then 64 else 128), false)) ∧
      c.t.pb = []) ∧
    ∃ c, Issues (.red ⟨.v 6, .v 4, false, .team, .exch⟩) (demo 2 addrs pended) c ∧ c.room 0 ∧ c.act ≠ [] ∧
      ({ c.t with pb := c.t.pb ++ c.act.map fun l => PbItem.red (if l = 0 then 64 else 128) false .exch (BitVec.ofNat 64 (c.rd (.v 6) 1 l)) 0 true } : Team).lines ≤
        64 * c.t.live.groups.length ∧
      (∀ l ∈ c.act, c.rd (.v 4) 2 l % 2 ^ 52 % 4 = 0 ∧ c.s.access c.root .store (c.rd (.v 4) 2 l % 2 ^ 52) = .ok ((if l = 0 then 64 else 128), false)) ∧
      c.t.pb.length = 2 := by
  simp only [okAt_iff]
  exact ⟨meets (by decide), meets (by decide)⟩

theorem witness_LaneOrder : 1 < [(⟨0, 64, 5, 0⟩ : AtomLane), ⟨5, 64, 7, 0⟩].length := by decide

theorem witness_Fences :
    (∃ c, Issues (.fenceFull .device) (demo 2 (busyOp .st) id) c ∧ c.room 0 ∧ ¬ c.g.ops = []) ∧
    (∃ c, Issues (.fenceFull .device) (demo 2 id id) c ∧ c.room 0 ∧ c.g.ops = []) ∧
    (∃ c, Issues (.fenceAcq .system) (demo 2 (busyOp .es) id) c ∧ c.room 0 ∧ ¬ ∀ o ∈ c.g.ops, o.cls ≠ .ld ∧ o.cls ≠ .es ∧ o.cls ≠ .rm) ∧
    (∃ c, Issues (.fenceAcq .system) (demo 2 (busyOp .st) id) c ∧ c.room 0 ∧ ∀ o ∈ c.g.ops, o.cls ≠ .ld ∧ o.cls ≠ .es ∧ o.cls ≠ .rm) ∧
    (∃ c, Issues (.fenceRel .group) (demo 2 (busyOp .cp) id) c ∧ c.room 0 ∧ ¬ c.g.ops = []) ∧
    ∃ c, Issues (.fenceRel .group) (demo 2 id id) c ∧ c.room 0 ∧ c.g.ops = [] :=
  ⟨meets (by decide), meets (by decide), meets (by decide), meets (by decide), meets (by decide), meets (by decide)⟩

theorem witness_CacheHints : (∃ c, Issues (.pref (.v 4)) (demo 2 addrs id) c ∧ c.room 0) ∧ (∃ c, Issues (.cctlLine (.v 4)) (demo 2 addrs id) c ∧ c.room 0) ∧
    ∃ c, Issues .cctlAll (demo 2 id id) c ∧ c.room 0 := ⟨issues (by decide), issues (by decide), issues (by decide)⟩

theorem witness_PhasePublish :
    (∃ c, Issues (.phasePub .device) (demo 2 id publishing) c ∧ c.room 0 ∧ c.t.pub.isSome = true) ∧
    (∃ c, Issues (.phasePub .device) (demo 2 id fun t => { t with pb := [.st 64 [1]] }) c ∧ c.room 0 ∧ c.t.pub = none ∧
      (∀ x ∈ c.t.pb, x = .st 64 [1]) ∧ c.g.handler = none) ∧
    (∃ c, Issues (.phaseBoth .group) (demo 2 id id) c ∧ c.room 0 ∧ c.t.pub = none) ∧
    ∃ c, Issues (.phasePubDur .system) (demo 2 id id) c ∧ c.room 0 ∧ c.t.pub = none :=
  ⟨meets (by decide), meets (by decide), meets (by decide), meets (by decide)⟩

theorem witness_PhaseRefresh : (∃ c, Issues (.phaseRef .group) (demo 2 id id) c ∧ c.room 0) ∧
    ∃ c, Issues (.phaseRef .system) (demo 2 id id) c ∧ c.room 0 := ⟨issues (by decide), issues (by decide)⟩

/-! ### Barriers -/

/-- v8 holds a barrier offset of 16 in lane 0; v10:2 an (N, M) pair. -/
def barRegs (n m b : Word) : Group → Group := withV [(8, 0, b), (10, 0, n), (11, 0, m)]

/-- An unaligned offset or a full registry would fail `barrierOk`: here the registry is empty. -/
theorem witness_BarrierUpdates :
    (∃ c, Issues (.bararr (.v 8)) (demo 2 (barRegs 0 0 16) publishing) c ∧ c.room 0 ∧ c.act ≠ [] ∧ barrierOk c (c.word (.v 8) c.low).toNat ∧ c.t.pub.isSome = true) ∧
    (∃ c, Issues (.bararr (.v 8)) (demo 2 (barRegs 0 0 65520) id) c ∧ c.room 0 ∧ c.act ≠ [] ∧ barrierOk c (c.word (.v 8) c.low).toNat ∧ c.t.pub = none) ∧
    (∃ c, Issues (.barexp (.v 10) (.v 8)) (demo 2 (barRegs 3 0 0) id) c ∧ c.room 0 ∧ c.act ≠ [] ∧ barrierOk c (c.word (.v 8) c.low).toNat ∧ c.t.pub = none) ∧
    (∃ c, Issues (.barbrk .z) (demo 2 id id) c ∧ c.room 0 ∧ c.act ≠ [] ∧ barrierOk c (c.word .z c.low).toNat ∧ c.t.pub = none) ∧
    (∃ c, Issues (.barinit (.v 10) (.v 8)) (demo 2 (barRegs 65535 7 16) id) c ∧ c.room 0 ∧ c.act ≠ [] ∧ barrierOk c (c.word (.v 8) c.low).toNat ∧ c.t.pub = none ∧
      (c.g.reg (.v 10) 0 c.low).toNat < 65536 ∧ (c.g.reg (.v 10) 1 c.low).toNat / 65536 % 2 = 0) ∧
    ∃ c, Issues (.barinit (.v 10) (.v 8)) (demo 2 (barRegs 2 0x10000 65504) id) c ∧ c.room 0 ∧ c.act ≠ [] ∧ barrierOk c (c.word (.v 8) c.low).toNat ∧ c.t.pub = none ∧
      (c.g.reg (.v 10) 0 c.low).toNat < 65536 ∧ (c.g.reg (.v 10) 1 c.low).toNat / 65536 % 2 = 1 ∧
      barrierOk (registered c (c.word (.v 8) c.low).toNat) ((c.word (.v 8) c.low).toNat + 16) := by
  simp only [barrierOk]
  exact ⟨meets (by decide), meets (by decide), meets (by decide), meets (by decide), meets (by decide), meets (by decide)⟩

theorem witness_BarrierCheck : (∃ o : BarObj, o.brk = true) ∧ ∃ o : BarObj, o.brk = false := ⟨⟨⟨1, 0, 0, 0, 0, true⟩, rfl⟩, ⟨1, 0, 0, 0, 0, false⟩, rfl⟩

/-- The barrier at 16, of two arrivals: no generation is complete. -/
def barAt (brk : Bool) (t : Team) : Team := { t with live := { t.live with scr := writeBytes t.live.scr 16 (barBytes ⟨2, 0, 0, 0, 0, brk⟩) } }

/-- What BARWAIT finds for the target in v10. -/
def found (c : Ctx) : Nat :=
  let o := barRead c.t.live.scr (c.word (.v 8) c.low).toNat
  if (o.gen + (2 ^ 31 - (c.g.reg (.v 10) 0 c.low).toNat % 2 ^ 31)) % 2 ^ 31 < 2 ^ 30 then 0 else if o.brk then 1 else 3

theorem witness_WaitAtBarrier :
    (∃ c, Issues (.bartest (.v 10) (.v 8)) (demo 2 (barRegs 1 0 16) (barAt false)) c ∧ c.room 136 ∧ c.act ≠ [] ∧ barrierOk c (c.word (.v 8) c.low).toNat) ∧
    (∃ c, Issues (.barwait (.v 10) (.v 8)) (demo 2 (barRegs 0 0 16) (barAt false)) c ∧ c.room 136 ∧ c.act ≠ [] ∧ barrierOk c (c.word (.v 8) c.low).toNat ∧
      found c = 0 ∧ c.t.pub = none) ∧
    (∃ c, Issues (.barwait (.v 10) (.v 8)) (demo 2 (barRegs 1 0 16) (barAt true)) c ∧ c.room 136 ∧ c.act ≠ [] ∧ barrierOk c (c.word (.v 8) c.low).toNat ∧
      found c = 1 ∧ c.t.pub = none) ∧
    ∃ c, Issues (.barwait (.v 10) (.v 8)) (demo 2 (barRegs 1 0 16) (barAt false)) c ∧ c.room 136 ∧ c.act ≠ [] ∧ barrierOk c (c.word (.v 8) c.low).toNat ∧
      found c = 3 := by
  simp only [barrierOk]
  exact ⟨meets (by decide), meets (by decide), meets (by decide), meets (by decide)⟩

/-- Its fragment waits at the barrier for generation 0; an update has met the target, or has yet to. -/
def waiting (met : Option Nat) (g : Group) : Group := { g with frags := g.frags.map fun f => { f with wait := .bar 16 0 (some 43) 1 met } }
def waiter (met : Option Nat) (g : Group) : Group := if g.role = .vector then waiting met g else g

theorem witness_BarrierWakes :
    (∃ t, (demo 2 (waiter none) (barAt true)).team? 1 = some t ∧
      held t.live.groups[2]? (fun g => g.frags.any (fun f => decide (f.wait = .bar 16 0 (some 43) 1 none)) = true) = true) ∧
    (∃ c, (demo 2 (waiter none) id).ctx ⟨1, 2, 0⟩ = some c ∧ c.f.wait = .bar 16 0 (some 43) 1 none) ∧
    (∃ c, (demo 2 (waiting (some 0)) publishing).ctx ⟨1, 2, 0⟩ = some c ∧ c.f.wait = .bar 16 0 (some 43) 1 (some 0) ∧ c.t.pub.isSome = true) ∧
    ∃ c, (demo 2 (waiter (some 1)) (barAt false)).ctx ⟨1, 2, 0⟩ = some c ∧ c.f.wait = .bar 16 0 (some 43) 1 (some 1) ∧
      c.t.pub = none ∧ c.t.olderWakes c.f 2 = false ∧ c.t.rb = false :=
  ⟨got (by decide), got (by decide), got (by decide), got (by decide)⟩

theorem witness_Arm :
    (∃ c, Issues (.armw (.v 10) (.v 4)) (demo 2 (withV [(10, 0, 0xFFFFFFFF), (4, 0, 64)]) id) c ∧ c.room 0 ∧ c.act ≠ [] ∧
      c.rd (.v 4) 2 c.low % 2 ^ 52 % 8 = 0 ∧ c.s.access c.root .load (c.rd (.v 4) 2 c.low % 2 ^ 52) = .ok (64, false) ∧ (c.word (.v 10) c.low).toNat = 2 ^ 32 - 1) ∧
    ∃ c, Issues (.armw (.v 10) (.v 4)) (demo 2 (withV [(10, 0, 16), (4, 0, 64)]) id) c ∧ c.room 0 ∧ c.act ≠ [] ∧
      c.rd (.v 4) 2 c.low % 2 ^ 52 % 8 = 0 ∧ c.s.access c.root .load (c.rd (.v 4) 2 c.low % 2 ^ 52) = .ok (64, false) ∧ (c.word (.v 10) c.low).toNat ≠ 2 ^ 32 - 1 ∧
      barrierOk c (c.word (.v 10) c.low).toNat ∧ c.t.binds.length < 64 := by
  simp only [barrierOk, okAt_iff]
  exact ⟨meets (by decide), meets (by decide)⟩

theorem witness_WritesArrive : [(64, (1 : Byte)), (71, 0)] ≠ [] ∧ ([(64, (1 : Byte)), (71, 0)].map Prod.fst).Nodup := by decide

/-- A remote load under way. -/
def loadingAway (g : Group) : Group := { g with ops := [⟨9, .rm, 0, false, .remote ⟨[35], [], [], 4, 4, false, .default, 0, none, false⟩ [3] none⟩], sb := [35] }

/-- Two stores and a reduction on one line, the last of the published phase; a line of a phase whose remote load is out; a publish that has
still a remote store to wait for. -/
theorem witness_Drain :
    (∃ t, (demo 2 id fun t => { publishing t with drain := [⟨0, .st 64 [1, 2]⟩, ⟨0, .st 65 [3]⟩, ⟨0, .red 72 false .add 5 0 false⟩] }).team? 1 = some t ∧
      (∀ l ∈ [1], (demo 2 id id).regionOf (64 * l) ≠ some .host) ∧
      (∀ i ∈ t.drain, i.item.isRedItem = true → (demo 2 id id).isPoisoned (lineOf i.item.addr) = false) ∧
      (t.drain.filter fun i => [1].contains (lineOf i.item.addr)).Pairwise (fun i j => i.phase ≤ j.phase) ∧
      (∀ i ∈ t.drain, lineOf (i.item.addr + i.item.size - 1) = lineOf i.item.addr) ∧ t.rstOut = [] ∧ t.pub.isSome = true) ∧
    (∃ t, (demo 2 loadingAway fun t => { publishing t with drain := [⟨0, .st 64 [1, 2]⟩] }).team? 1 = some t ∧
      held t.pub (fun p => t.remoteLoads p.phase = true) = true) ∧
    (∃ t, (demo 2 id fun t => { t with pub := some ⟨0, .domain, false, true, none⟩, rstOut := [(0, ⟨5, [], 2, 1, 4, 1⟩)] }).team? 1 = some t ∧
      held t.pub (fun p => ¬ ∀ x ∈ t.rstOut, p.phase < x.1) = true) ∧
    ∃ t, (demo 2 id fun t => { t with drain := [⟨0, .st 64 [1]⟩] }).team? 1 = some t ∧ t.pub = none := ⟨got (by decide), got (by decide), got (by decide), got (by decide)⟩

theorem witness_QuietReports : ∃ t, (demo 2 id id).team? 1 = some t ∧ 5 ≠ (demo 2 id id).devId := got (by decide)

/-! ### Reserving loops -/

/-- The group takes part in an instance of ten items, FREE or ORDERED; loop 3, epoch 0. -/
def inInst (free : Bool) (ctr : Nat) (g : Group) : Group := { g with loop := some ⟨3, free, 10, ctr, 0⟩, epochs := if free then [(3, 1)] else [] }

/-- The team's record of the FREE loop 3 with ten items. -/
def freeInst (ctr epoch : Nat) (t : Team) : Team := { t with live := { t.live with loops := [⟨3, true, 10, ctr, epoch⟩] } }

/-- The group's next epoch of loop 3. -/
def nextEpoch (c : Ctx) : Nat := ((c.g.epochs.find? fun x => x.1 == 3).map Prod.snd).getD 0

/-- A pending or admitted item of a lane. -/
def item (l n : Nat) (adm : Bool) : Slot := ⟨l, adm, n, [8], 0⟩

/-- One that traps in an instance; one that has had its part and waits for the other groups; a count of all ones; an ORDERED start; and the rows
of the FREE table. -/
theorem witness_LoopStarts :
    (∃ c, Issues (.rloop (.v 1) false 3) (demo 2 (fun g => inInst false 2 g) id) c ∧ c.room 0 ∧ c.act ≠ [] ∧ (c.advance (.rloop (.v 1) false 3)).inLoop = true) ∧
    (∃ c, Issues (.rloop (.v 1) true 3) (demo 2 (fun g => if g.role = .vector then inInst true 10 g else { inInst true 10 g with slots := [item 0 4 true] }) (freeInst 10 0)) c ∧
      c.room 0 ∧ c.act ≠ [] ∧ (c.advance (.rloop (.v 1) true 3)).inLoop = true ∧ (c.advance (.rloop (.v 1) true 3)).doneWith 3 = true ∧
      c.t.live.loops.find? (fun x => x.id == 3) = some ⟨3, true, 10, 10, 0⟩ ∧ nextEpoch c = 0 + 1 ∧
      (c.advance (.rloop (.v 1) true 3)).data.ended c.g ⟨3, true, 10, 10, 0⟩ = false) ∧
    (∃ c, Issues (.rloop (.v 1) true 3) (demo 2 (withV [(1, 0, 0xFFFFFFFF)]) id) c ∧ c.room 0 ∧ c.act ≠ [] ∧ (c.word (.v 1) c.low).toNat = 2 ^ 32 - 1) ∧
    (∃ c, Issues (.rloop (.v 1) false 3) (demo 2 (withV [(1, 0, 0xFFFFFFFE)]) id) c ∧ c.room 0 ∧ c.act ≠ [] ∧
      (c.advance (.rloop (.v 1) false 3)).inLoop = false ∧ (c.word (.v 1) c.low).toNat ≠ 2 ^ 32 - 1) ∧
    (∃ c, Issues (.rloop .z true 3) (demo 2 id id) c ∧ c.room 0 ∧ c.act ≠ [] ∧ (c.advance (.rloop .z true 3)).inLoop = false ∧
      c.t.live.loops.find? (fun x => x.id == 3) = none ∧ nextEpoch c = 0) ∧
    (∃ c, Issues (.rloop (.v 1) true 3) (demo 2 (inInst true 0) (freeInst 10 0)) c ∧ c.room 0 ∧ c.act ≠ [] ∧ (c.advance (.rloop (.v 1) true 3)).inLoop = false ∧
      c.t.live.loops.find? (fun x => x.id == 3) = some ⟨3, true, 10, 10, 0⟩ ∧ nextEpoch c = 0 + 1 ∧
      (c.advance (.rloop (.v 1) true 3)).data.ended c.g ⟨3, true, 10, 10, 0⟩ = true) ∧
    (∃ c, Issues (.rloop (.v 1) true 3) (demo 2 (fun g => if g.role = .vector then { g with epochs := [(3, 1)] } else inInst true 0 g) (freeInst 9 0)) c ∧
      c.room 0 ∧ c.act ≠ [] ∧ (c.advance (.rloop (.v 1) true 3)).inLoop = false ∧
      c.t.live.loops.find? (fun x => x.id == 3) = some ⟨3, true, 10, 9, 0⟩ ∧ nextEpoch c = 0 + 1 ∧
      (c.advance (.rloop (.v 1) true 3)).data.ended c.g ⟨3, true, 10, 9, 0⟩ = false) ∧
    (∃ c, Issues (.rloop (.v 1) true 3) (demo 2 (withV [(1, 0, 11)]) (freeInst 9 0)) c ∧ c.room 0 ∧ c.act ≠ [] ∧ (c.advance (.rloop (.v 1) true 3)).inLoop = false ∧
      c.t.live.loops.find? (fun x => x.id == 3) = some ⟨3, true, 10, 9, 0⟩ ∧ nextEpoch c = 0 ∧ (c.word (.v 1) c.low).toNat ≠ 10) ∧
    ∃ c, Issues (.rloop (.v 1) true 3) (demo 2 (withV [(1, 0, 10)]) (freeInst 9 0)) c ∧ c.room 0 ∧ c.act ≠ [] ∧ (c.advance (.rloop (.v 1) true 3)).inLoop = false ∧
      c.t.live.loops.find? (fun x => x.id == 3) = some ⟨3, true, 10, 9, 0⟩ ∧ nextEpoch c ≤ 0 ∧ ¬ (nextEpoch c = 0 ∧ (c.word (.v 1) c.low).toNat ≠ 10) :=
  ⟨meets (by decide), meets (by decide), meets (by decide), meets (by decide), meets (by decide), meets (by decide), meets (by decide), meets (by decide), meets (by decide)⟩

/-- Lane 0 has a pending item, lane 5 takes the last of ten. -/
theorem witness_LoopItems :
    (∃ c, Issues (.rlitem (.v (95 : Fin 96)) 3) (demo 2 (fun g => { inInst false 9 g with slots := [item 0 4 false] }) id) c ∧ c.room 136 ∧ c.act ≠ [] ∧
      (c.advance (.rlitem (.v 95) 3)).loopOf 3 = some ⟨3, false, 10, 9, 0⟩ ∧ ∀ l ∈ c.act, ∀ x ∈ (c.g.slot? l).toList, x.admitted = false) ∧
    ∃ c, Issues (.rlitem (.v (0 : Fin 96)) 3) (demo 2 (inInst true 0) (freeInst 10 0)) c ∧ c.room 136 ∧ c.act ≠ [] ∧
      (c.advance (.rlitem (.v 0) 3)).loopOf 3 = some ⟨3, true, 10, 10, 0⟩ ∧ ∀ l ∈ c.act, ∀ x ∈ (c.g.slot? l).toList, x.admitted = false :=
  ⟨meets (by decide), meets (by decide)⟩

theorem witness_LoopClaims :
    (∃ c, Issues (.rldone 3) (demo 2 (fun g => { inInst false 2 g with slots := [item 0 1 true] }) id) c ∧ c.room 0 ∧
      ((c.advance (.rldone 3)).loopOf 3).isSome = true ∧ c.g.count .ld = 0 ∧ c.g.count .st = 0 ∧ ∀ f ∈ c.g.frags, f.replay = true → f.lowest = c.f.lowest) ∧
    (∃ c, Issues (.rldone 3) (demo 2 (fun g => { inInst false 2 g with frags := [⟨4096, 1, 0, none, .run, 0, 0, false⟩, ⟨4096, 2, 0, none, .run, 0, 0, true⟩] }) id) c ∧
      c.room 0 ∧ ((c.advance (.rldone 3)).loopOf 3).isSome = true ∧ c.g.count .ld = 0 ∧ c.g.count .st = 0 ∧
      ¬ ∀ f ∈ c.g.frags, f.replay = true → f.lowest = c.f.lowest) ∧
    (∃ c, Issues (.rldone 3) (demo 2 (fun g => busyOp .st (inInst false 2 g)) id) c ∧ c.room 0 ∧
      ((c.advance (.rldone 3)).loopOf 3).isSome = true ∧ ¬ (c.g.count .ld = 0 ∧ c.g.count .st = 0)) ∧
    ∃ c, Issues (.claim ⟨.v 4, .w8, .b64, 3⟩) (demo 2 (fun g => withV [(4, 0, 64), (4, 5, 192)] { inInst false 2 g with slots := [item 0 1 false, item 5 2 false] }) id) c ∧
      c.room 0 ∧ c.act ≠ [] ∧ (∀ l ∈ c.act, c.rd (.v 4) 2 l % 2 ^ 52 % xferBytes .w8 .b64 = 0) ∧ ((c.advance (.claim ⟨.v 4, .w8, .b64, 3⟩)).loopOf 3).isSome = true ∧
      ∀ l ∈ c.act, ∀ x ∈ (c.g.slot? l).toList, x.admitted = false := ⟨meets (by decide), meets (by decide), meets (by decide), meets (by decide)⟩

/-- Two pending items that conflict; in the FREE loop another group has put off one of its own eight times. -/
theorem witness_Waves :
    (∃ c, Issues (.wave 7 3) (demo 2 (fun g => { inInst false 2 g with slots := [item 0 0 false, item 5 1 false] }) id) c ∧ c.room 12 ∧ c.act ≠ [] ∧
      (c.advance (.wave 7 3)).loopOf 3 = some ⟨3, false, 10, 2, 0⟩ ∧
      (∀ l, l < 32 → (sliceLanes c.f.slices).getLsbD l = true → ∀ x ∈ (c.g.slot? l).toList, x.admitted = false) ∧
      (c.g.slots.map (·.lane)).Nodup ∧ (c.g.slots.map (·.item)).Nodup) ∧
    ∃ c, Issues (.wave 7 3) (demo 2 (fun g => { inInst true 0 g with slots := if g.role = .vector then [item 0 0 false, item 5 1 false] else
        [{ item 0 2 false with defer := 8 }] }) (freeInst 4 0)) c ∧ c.room 12 ∧ c.act ≠ [] ∧
      (c.advance (.wave 7 3)).loopOf 3 = some ⟨3, true, 10, 4, 0⟩ ∧
      (∀ l, l < 32 → (sliceLanes c.f.slices).getLsbD l = true → ∀ x ∈ (c.g.slot? l).toList, x.admitted = false) ∧
      (c.g.slots.map (·.lane)).Nodup ∧ (c.g.slots.map (·.item)).Nodup := ⟨meets (by decide), meets (by decide)⟩

/-! ### Escorts and remote access -/

/-- LDE of lanes whose pages grant the load, and of one past the first GiB, where no page is; refused; behind an older load of bytes that the team has
written; ATOME while a publish is outstanding. -/
theorem witness_Escorts :
    (∃ c, Issues (.lde ⟨7, .v 3, .w1, .b32, .v 4, .v 72, .default, 0xFFFFFF⟩) (demo 2 (fun g => { addrs g with escu := 65000 }) id) c ∧ c.room 4364 ∧ c.act ≠ [] ∧
      (∀ l ∈ c.act, c.rd (.v 4) 2 l % 2 ^ 52 % 4 = 0) ∧ c.meta (·.escq) < c.g.escu + 16 * 24 * 2) ∧
    (∃ c, Issues (.atome ⟨0, .v 6, false, .v 4, .v 72, .add, 1⟩) (demo 2 addrs publishing) c ∧ c.room 4364 ∧ c.act ≠ [] ∧
      (∀ l ∈ c.act, c.rd (.v 4) 2 l % 2 ^ 52 % 4 = 0) ∧ ¬ (c.meta (·.escq) < c.g.escu + 16 * 1 * 2 ∨ (c.coreOf.map (·.elb)).getD 0 < 16 * 1 * 2) ∧ c.t.pub.isSome = true) ∧
    (∃ c, Issues (.lde ⟨7, .v 3, .w1, .b32, .v 4, .v 72, .default, 0xFFFFFF⟩) (demo 2 (fun g => addrs { g with
        ops := [⟨9, .ld, 0, false, .load ⟨[99], [⟨0, 64, false⟩], [], 4, 4, false, .default, 0, none, false⟩⟩] }) fun t => { t with pb := [.st 64 [1, 2, 3, 4]] }) c ∧
      c.room 4364 ∧ c.act ≠ [] ∧ (∀ l ∈ c.act, c.rd (.v 4) 2 l % 2 ^ 52 % 4 = 0 ∧ okAt (c.s.access c.root .load (c.rd (.v 4) 2 l % 2 ^ 52)) ((if l = 0 then 64 else 128), false) = true) ∧
      ¬ (c.meta (·.escq) < c.g.escu + 16 * 24 * 2 ∨ (c.coreOf.map (·.elb)).getD 0 < 16 * 24 * 2) ∧
      ∃ l ∈ c.act, c.t.ownItems (32 * c.ref.group + l) (if l = 0 then 64 else 128) 4 ≠ [] ∧ c.g.unread (if l = 0 then 64 else 128) 4 = true) ∧
    (∃ c, Issues (.lde ⟨7, .v 3, .w1, .b32, .v 4, .v 72, .acq, 0xFFFFFF⟩) (demo 2 addrs id) c ∧ c.room 4364 ∧ c.act ≠ [] ∧
      (∀ l ∈ c.act, c.rd (.v 4) 2 l % 2 ^ 52 % 4 = 0 ∧ okAt (c.s.access c.root .load (c.rd (.v 4) 2 l % 2 ^ 52)) ((if l = 0 then 64 else 128), false) = true) ∧
      ¬ (c.meta (·.escq) < c.g.escu + 16 * 24 * 2 ∨ (c.coreOf.map (·.elb)).getD 0 < 16 * 24 * 2) ∧ ∀ l ∈ c.act, c.g.unread (if l = 0 then 64 else 128) 4 = false) ∧
    ∃ c, Issues (.lde ⟨7, .v 3, .w1, .b32, .v 4, .v 72, .default, 0xFFFFFF⟩) (demo 2 (withV [(4, 0, 64), (4, 5, 64), (5, 5, 1)]) id) c ∧ c.room 4364 ∧ c.act ≠ [] ∧
      (∀ l ∈ c.act, c.rd (.v 4) 2 l % 2 ^ 52 % 4 = 0) ∧ ¬ (∀ l ∈ c.act, (c.s.access c.root .load (c.rd (.v 4) 2 l % 2 ^ 52)).toOption.isSome = true) ∧
      ¬ (c.meta (·.escq) < c.g.escu + 16 * 24 * 2 ∨ (c.coreOf.map (·.elb)).getD 0 < 16 * 24 * 2) :=
  ⟨meets (by decide), meets (by decide), meets (by decide), meets (by decide), meets (by decide)⟩

theorem witness_Peers : (∃ b : Reg, b.isV = false) ∧ (∃ b : Reg, b.isV = true) ∧ [0, 5] ≠ [] := ⟨⟨.s 1, rfl⟩, ⟨.v 95, rfl⟩, by decide⟩

/-- The functions have a fabric key. -/
def keyOn (s : State) : State := { s with funcs := s.funcs.map fun f => { f with xwkey := 7 } }

theorem witness_RemoteLoads : ∃ c, Issues (.rld ⟨.v 90, .v 4, .v 12, .w2, .b64, .acq⟩) (keyOn (demo 2 addrs id)) c ∧ c.room (136 * RunW.regs .w2) ∧ c.act ≠ [] ∧ Statements.keyed c ∧
    (∀ p ∈ c.peers (.v 12) (c.lanes (.v 90)), p.1 ≤ 9215 ∧ c.s.reachable p.1 = true ∧ ∀ l ∈ p.2, c.rd (.v 4) 2 l % 8 = 0) ∧
    c.g.count .rm + (c.peers (.v 12) (c.lanes (.v 90))).length ≤ 64 := meets (by decide)

theorem witness_RemoteStores :
    (∃ c, Issues (.rst ⟨.v 6, .v 4, .z, .w1, .b32, .default⟩) (demo 2 addrs id) c ∧ c.room 0 ∧ c.act ≠ [] ∧
      (∀ p ∈ c.peers .z c.act, p.1 ≤ 9215 ∧ c.s.reachable p.1 = true ∧ ∀ l ∈ p.2, c.rd (.v 4) 2 l % 4 = 0) ∧
      c.g.count .rm + (c.peers .z c.act).length ≤ 64 ∧
      ({ c.t with rsts := c.t.rsts ++ (c.peers .z c.act).map fun p => ⟨p.1, p.2.map fun l => ⟨l, c.rd (.v 4) 2 l, leBytes 4 (c.rd (.v 6) 1 l)⟩, c.ref.group,
        laneSlices c.mask, 4, c.s.uid⟩ } : Team).lines ≤ 64 * c.t.live.groups.length) ∧
    (∃ c, Issues (.rst ⟨.v 6, .v 4, .v 12, .w1, .b32, .rel⟩) (demo 2 addrs publishing) c ∧ c.room 0 ∧ c.act ≠ [] ∧
      (∀ p ∈ c.peers (.v 12) c.act, p.1 ≤ 9215 ∧ c.s.reachable p.1 = true ∧ ∀ l ∈ p.2, c.rd (.v 4) 2 l % 4 = 0) ∧
      c.g.count .rm + (c.peers (.v 12) c.act).length ≤ 64 ∧ c.t.pub.isSome = true) ∧
    ∃ c, Issues (.rst ⟨.v 6, .v 4, .v 12, .w1, .b32, .rel⟩) (demo 2 addrs id) c ∧ c.room 0 ∧ c.act ≠ [] ∧
      (∀ p ∈ c.peers (.v 12) c.act, p.1 ≤ 9215 ∧ c.s.reachable p.1 = true ∧ ∀ l ∈ p.2, c.rd (.v 4) 2 l % 4 = 0) ∧
      c.g.count .rm + (c.peers (.v 12) c.act).length ≤ 64 ∧ c.t.pub = none := ⟨meets (by decide), meets (by decide), meets (by decide)⟩

/-- Its publish is over; another is outstanding; and none is, with a line to hand over. -/
theorem witness_RemoteAtomics :
    (∃ c, Issues (.ratom ⟨.v 6, .v 4, .v 12, true, .domain, .add⟩) (keyOn (demo 2 staged id)) c ∧ c.room 272 ∧ c.act ≠ [] ∧ Statements.keyed c ∧
      (∀ p ∈ c.peers (.v 12) (c.lanes (.v 6)), p.1 ≤ 9215 ∧ c.s.reachable p.1 = true ∧ ∀ l ∈ p.2, c.rd (.v 4) 2 l % 8 = 0) ∧
      c.g.count .rm + (c.peers (.v 12) (c.lanes (.v 6))).length ≤ 64 ∧ c.f.stage ≠ 0 ∧
      ∀ p ∈ c.peers (.v 12) (c.lanes (.v 6)), c.s.seqRoom p.1 ((p.2.map fun l => c.rd (.v 4) 2 l).eraseDups).length = true) ∧
    (∃ c, Issues (.ratom ⟨.v 6, .v 4, .v 12, true, .domain, .add⟩) (keyOn (demo 2 addrs publishing)) c ∧ c.room 272 ∧ c.act ≠ [] ∧ Statements.keyed c ∧
      (∀ p ∈ c.peers (.v 12) (c.lanes (.v 6)), p.1 ≤ 9215 ∧ c.s.reachable p.1 = true ∧ ∀ l ∈ p.2, c.rd (.v 4) 2 l % 8 = 0) ∧
      c.g.count .rm + (c.peers (.v 12) (c.lanes (.v 6))).length ≤ 64 ∧ c.f.stage = 0 ∧ c.t.pub.isSome = true) ∧
    ∃ c, Issues (.ratom ⟨.v 6, .v 4, .v 12, true, .domain, .add⟩) (keyOn (demo 2 addrs fun t => { t with pb := [.st 64 [1]] })) c ∧ c.room 272 ∧ c.act ≠ [] ∧
      Statements.keyed c ∧ (∀ p ∈ c.peers (.v 12) (c.lanes (.v 6)), p.1 ≤ 9215 ∧ c.s.reachable p.1 = true ∧ ∀ l ∈ p.2, c.rd (.v 4) 2 l % 8 = 0) ∧
      c.g.count .rm + (c.peers (.v 12) (c.lanes (.v 6))).length ≤ 64 ∧ c.f.stage = 0 ∧ c.t.pub = none :=
  ⟨meets (by decide), meets (by decide), meets (by decide)⟩

theorem witness_Flags :
    (∃ c, Issues (.rflush (.v 12)) (keyOn (demo 2 id id)) c ∧ c.room 0 ∧ c.act ≠ [] ∧ Statements.keyed c ∧ (∀ p ∈ c.peers (.v 12) c.act, p.1 ≤ 9215 ∧ c.s.reachable p.1 = true ∧ ∀ l ∈ p.2, 0 % 1 = 0) ∧
      c.g.count .rm + (c.peers (.v 12) c.act).length ≤ 64) ∧
    (∃ c, Issues (.rfencef (.v 6) (.v 4) (.v 12)) (demo 2 addrs publishing) c ∧ c.room 0 ∧ c.act ≠ [] ∧
      (∀ p ∈ (c.peers (.v 12) c.act).map fun p => (p.1, p.2.take 1), p.1 ≤ 9215 ∧ c.s.reachable p.1 = true ∧ ∀ l ∈ p.2, c.rd (.v 4) 2 l % 8 = 0) ∧
      c.g.count .rm + (c.peers (.v 12) c.act).length ≤ 64 ∧ c.t.pub.isSome = true) ∧
    ∃ c, Issues (.rfencef (.v 6) (.v 4) (.v 12)) (demo 2 addrs id) c ∧ c.room 0 ∧ c.act ≠ [] ∧
      (∀ p ∈ (c.peers (.v 12) c.act).map fun p => (p.1, p.2.take 1), p.1 ≤ 9215 ∧ c.s.reachable p.1 = true ∧ ∀ l ∈ p.2, c.rd (.v 4) 2 l % 8 = 0) ∧
      c.g.count .rm + (c.peers (.v 12) c.act).length ≤ 64 ∧ c.t.pub = none := ⟨meets (by decide), meets (by decide), meets (by decide)⟩

/-- The first peer of each remote instruction: device 5 has no route, 9216 is past the ids; and a request of team 1's group 2, of its present
life, under key 0. -/
theorem witness_NoSuchPeer :
    (∃ c, Issues (.rld ⟨.v 3, .v 4, .v 12, .w1, .b32, .default⟩) (demo 2 (withV [(4, 0, 64), (4, 5, 64), (12, 0, 5), (12, 5, 6)]) id) c ∧ c.room 0 ∧ c.act ≠ [] ∧
      c.peers (.v 12) (c.lanes (.v 3)) = (5, [0]) :: [(6, [5])] ∧ c.s.reachable 5 = false) ∧
    (∃ c, Issues (.rst ⟨.v 6, .v 4, .v 12, .w1, .b32, .default⟩) (demo 2 (withV [(4, 0, 64), (4, 5, 64), (12, 0, 5), (12, 5, 6)]) id) c ∧ c.room 0 ∧ c.act ≠ [] ∧
      c.peers (.v 12) c.act = (5, [0]) :: [(6, [5])] ∧ c.s.reachable 5 = false) ∧
    (∃ c, Issues (.ratom ⟨.v 6, .v 4, .s 12, true, .domain, .add⟩) (demo 2 (withS [(12, 9216)]) id) c ∧ c.room 0 ∧ c.act ≠ [] ∧
      c.peers (.s 12) (c.lanes (.v 6)) = (9216, [0, 5]) :: [] ∧ 9215 < 9216) ∧
    (∃ c, Issues (.rflush (.s 12)) (demo 2 (withS [(12, 5)]) id) c ∧ c.room 0 ∧ c.act ≠ [] ∧ c.peers (.s 12) c.act = (5, [0, 5]) :: [] ∧ c.s.reachable 5 = false) ∧
    (∃ c, Issues (.rfencef (.v 6) (.v 4) (.s 12)) (demo 2 (withS [(12, 5)]) id) c ∧ c.room 0 ∧ c.act ≠ [] ∧ c.peers (.s 12) c.act = (5, [0, 5]) :: [] ∧
      c.s.reachable 5 = false) ∧
    ∃ t, (demo 2 id id).team? 1 = some t ∧ t.gen = 0 ∧ t.live.groups[2]?.isSome = true :=
  ⟨meets (by decide), meets (by decide), meets (by decide), meets (by decide), meets (by decide), got (by decide)⟩

/-! ### The Matrix Array -/

/-- MMA of a BF16 row and a BF16 matrix into F32, 16 columns, with scales, or of INT8 into INT32. -/
def mmaRegs (w0 sa sb : Word) : Group → Group := withS [(1, 0x2000), (2, 16), (4, w0), (5, sa), (6, sb)]

def mma (zf sat : Bool) : MmaOps := ⟨0, zf, .v 8, .s 1, false, true, .s 2, .s 4, sat⟩

/-- The checks of MMA on the tile 0 of the launch. -/
abbrev mmaFits (o : MmaOps) (c : Ctx) : Prop :=
  let fb := c.rd o.fmt 4 0
  let n := (c.word o.nreg 0).toNat
  let b := (c.word o.b 0).toNat
  let bc := fb / 256 % 256
  let sa := fb / 2 ^ 32 % 2 ^ 32
  let sb := fb / 2 ^ 64 % 2 ^ 32
  let run := mmaRun (fb % 256)
  c.act ≠ [] ∧ c.room (264 * (c.act.length * (((if o.zf then 256 else n) + 63) / 32))) ∧ mmaBad fb o.t o.sat = false ∧ 0 < n ∧ n % 16 = 0 ∧ n ≤ 256 ∧
  c.tileDecl o.tile.val = some (false, 256) ∧ false = decide (fb / 65536 % 256 = 1) ∧ c.g.win + Reg.num o.a + run ≤ c.g.alloc ∧
  inScr c b (mmaBytes bc n) ∧ (bc < 8 → b % mmaSize bc = 0) ∧
  (sa ≠ 2 ^ 32 - 1 → sa % 4 = 0 ∧ inScr c sa 128) ∧ (sb ≠ 2 ^ 32 - 1 → sb % 4 = 0 ∧ inScr c sb (4 * n))

theorem witness_MmaIssue :
    (∃ c, Issues (.mma (mma true false)) (demo 1 (mmaRegs 0x020404 0x1000 0x1100) id) c ∧ c.room 0 ∧ mmaFits (mma true false) c) ∧
    ∃ c, Issues (.mma (mma false true)) (demo 1 (mmaRegs 0x080707 0xFFFFFFFF 0xFFFFFFFF) id) c ∧ c.room 0 ∧ mmaFits (mma false true) c := by
  simp only [mmaFits, inScr, Ctx.room]
  exact ⟨meets (by decide), meets (by decide)⟩

/-- The last bytes of the scratchpad; and rows from an s register. -/
theorem witness_AccIssue :
    (∃ c, Issues (.accld ⟨0, .v 8, .s 2⟩) (demo 1 (fun g => withS [(2, 256)] (withV [(8, 0, 64512), (8, 5, 4)] g)) id) c ∧ c.room 0 ∧ c.act ≠ [] ∧
      c.room (264 * (2 * ((256 + 63) / 32)) + 72 * (2 * (256 * 4 / 64 + 2))) ∧
      (c.word (.s 2) 0).toNat = 256 ∧ c.tileDecl 0 = some (false, 256) ∧ ∀ l ∈ c.act, (c.word (.v 8) l).toNat % 4 = 0 ∧ inScr c (c.word (.v 8) l).toNat 1024) ∧
    (∃ c, Issues (.accst ⟨0, .s 3, .s 2⟩) (demo 1 (withS [(2, 16), (3, 0x1000)]) id) c ∧ c.room 0 ∧ c.act ≠ [] ∧
      c.room (264 * (2 * ((16 + 63) / 32)) + 72 * (2 * (16 * 4 / 64 + 2))) ∧ (c.word (.s 2) 0).toNat = 16 ∧ c.tileDecl 0 = some (false, 256) ∧
      ∀ l ∈ c.act, let a := (c.word (.s 3) 0).toNat + l * 16 * 4
        a % 4 = 0 ∧ inScr c a 64 ∧ c.inMirror a 64 = false) ∧
    ∃ c, Issues (.accz 0) (demo 1 id id) c ∧ c.room 0 ∧ c.act ≠ [] ∧ c.room (264 * (2 * ((256 + 63) / 32))) ∧ c.tileDecl 0 = some (false, 256) := by
  simp only [inScr, Ctx.room]
  exact ⟨meets (by decide), meets (by decide), meets (by decide)⟩

/-- An operation of the Matrix Array on tile 0, rows 0 and 31. -/
def mxBusy (w : MxWhat) (g : Group) : Group :=
  if g.role = .matrix then { g with ops := [⟨9, .mx, 0, false, .mx ⟨w, 0, false, 256, 16, [(0, 0x1000, 0), (31, 0x1040, 0)], [], [], 0, 0⟩⟩] } else g

/-- An ACCLD of row 0 from 60 on, with a reflective store of the same bytes ahead of it or not. -/
def mxAfter (refl : Bool) (g : Group) : Group :=
  if g.role = .matrix then { g with ops := (if refl then [⟨8, .st, 0, false, .refl 0 [(60, [1, 2, 3, 4])] [1, 2]⟩] else []) ++
    [⟨9, .mx, 0, false, .mx ⟨.accld, 0, false, 256, 16, [(0, 60, 0)], [(60, 7)], [(60, 64)], 0, 0⟩⟩] } else g

theorem witness_MxLands :
    (∃ o m t, (demo 1 (mxBusy .accst) id).mxNext 0 = some (1, 1, o, m) ∧ (demo 1 (mxBusy .accst) id).team? 1 = some t ∧
      t.live.tiles.any (fun p => p.1 == m.tile) = true ∧ (m.rows.map (·.1)).Nodup ∧ m.n ≤ m.nmax ∧ m.nmax ≤ 512 ∧ m.what = .accst ∧ m.reads = [] ∧
      (∀ r ∈ m.rows, ((demo 1 (mxBusy .accst) id).tear t r.2.1 (m.n * m.size)).1 = [] ∧ (t.tearAtoms r.2.1 (m.n * m.size) (demo 1 (mxBusy .accst) id)).1 = []) ∧
      (∀ r ∈ m.rows, clearOf ((demo 1 (mxBusy .accst) id).metaOf t (·.cpring))
        (ringOf t.live.scr ((demo 1 (mxBusy .accst) id).metaOf t (·.cpring)) ((demo 1 (mxBusy .accst) id).scrSizeOf t)) r.2.1 (m.n * m.size)) ∧
      m.rows.Pairwise fun x y => x.2.1 + m.n * m.size ≤ y.2.1 ∨ y.2.1 + m.n * m.size ≤ x.2.1) ∧
    (∃ o m t, (demo 1 (mxAfter true) id).mxNext 0 = some (1, 1, o, m) ∧ (demo 1 (mxAfter true) id).team? 1 = some t ∧
      t.live.tiles.any (fun p => p.1 == m.tile) = true ∧ (m.rows.map (·.1)).Nodup ∧ m.n ≤ m.nmax ∧ m.nmax ≤ 512 ∧ m.reads ≠ [] ∧ t.reflBefore 1 o.id m.reads = true) ∧
    ∃ o m t, (demo 1 (mxAfter false) id).mxNext 0 = some (1, 1, o, m) ∧ (demo 1 (mxAfter false) id).team? 1 = some t ∧
      t.live.tiles.any (fun p => p.1 == m.tile) = true ∧ (m.rows.map (·.1)).Nodup ∧ m.n ≤ m.nmax ∧ m.nmax ≤ 512 ∧ t.reflBefore 1 o.id m.reads = false :=
  ⟨⟨_, _, _, rfl, rfl, by decide, by decide, by decide, by decide, rfl, by decide, by decide, by decide, by decide⟩,
    ⟨_, _, _, rfl, rfl, by decide, by decide, by decide, by decide, by decide, by decide⟩,
    _, _, _, rfl, rfl, by decide, by decide, by decide, by decide, by decide⟩

/-! ### The engines' commands -/

/-- Two copy entries: 64 bytes from address 64, and an empty one. -/
def entries : Group → Group := withV [(8, 0, 64), (12, 0, 64), (10, 0, 0x2000), (13, 0, 0xFFFFF), (13, 5, 0xFFFFF)]

/-- The ring's fields. -/
abbrev ring (c : Ctx) (o n : Nat) : Nat := readNat c.t.live.scr (c.meta (·.cpring) + o) n

/-- The entries of CPYP v8. -/
abbrev posted (c : Ctx) : List Nat := (c.lanes (.v 8)).map fun l => c.rd (.v 8) 8 l

/-- The ring is valid: its count is 2 to the 3rd. -/
abbrev ringOk (c : Ctx) : Prop := ring c 0 4 % 32 = 0 ∧ 2 ≤ ring c 4 4 ∧ ring c 4 4 ≤ 256 ∧ ring c 4 4 = 2 ^ 3 ∧ ring c 0 4 + 32 * ring c 4 4 ≤ c.scrSize

/-- The room of a CPYP of these entries. -/
abbrev ringRoom (c : Ctx) : Prop :=
  c.room (72 * ((posted c).length + 4) + 136 * ((posted c).map fun x => (((entryOf x).run c.t.live).getD []).length).sum) ∧
  (ring c 16 8 + 2 ^ 64 - ring c 8 8) % 2 ^ 64 + (posted c).length ≤ ring c 4 4 ∧ c.g.count .cp + (posted c).length ≤ 64

abbrev copySpan (c : Ctx) : List (Nat × Nat) := ((posted c).flatMap fun x => (entryOf x).named.flatMap fun p => c.physical p.1 p.2)

abbrev overlaps (c : Ctx) : List Nat := c.unpublished (copySpan c)

/-- Seven of eight slots taken; 63 copies counted. -/
def fullRing (t : Team) : Team := { t with live := { t.live with scr := writeBytes t.live.scr 16 [7] } }
def busyCopies (g : Group) : Group := { entries g with ops := List.replicate 63 ⟨9, .cp, 0, false, .copy 0⟩ }

/-- A ring of one slot; a full ring; no room in CP; an overlap with a publish outstanding, and without; one with the drain;
and none. -/
theorem witness_CopyRing :
    (∃ c, (demo 0 entries fun t => { t with live := { t.live with scr := [(4, 1)] } }).cur.bind (demo 0 entries fun t => { t with live := { t.live with scr := [(4, 1)] } }).ctx = some c ∧
      c.held = false ∧ c.t.undoAfter = false ∧ c.act ≠ [] ∧ c.check (.cpyp (.v 8)) = none ∧ ring c 4 4 < 2) ∧
    (∃ c, (demo 0 entries fullRing).cur.bind (demo 0 entries fullRing).ctx = some c ∧ c.held = false ∧ c.t.undoAfter = false ∧ c.act ≠ [] ∧
      c.check (.cpyp (.v 8)) = none ∧ ringOk c ∧ (posted c).length ≤ ring c 4 4 ∧
      ring c 4 4 < (ring c 16 8 + 2 ^ 64 - ring c 8 8) % 2 ^ 64 + (posted c).length) ∧
    (∃ c, (demo 0 busyCopies id).cur.bind (demo 0 busyCopies id).ctx = some c ∧ c.held = false ∧ c.t.undoAfter = false ∧ c.act ≠ [] ∧
      c.check (.cpyp (.v 8)) = none ∧ ringOk c ∧ (posted c).length ≤ ring c 4 4 ∧ 64 < c.g.count .cp + (posted c).length) ∧
    (∃ c, Issues (.cpyp (.v 8)) (demo 0 entries fun t => { publishing t with pb := [.st 127 [1]] }) c ∧ c.room 0 ∧ c.act ≠ [] ∧ ringOk c ∧ ringRoom c ∧
      overlaps c ≠ [] ∧ c.t.pub.isSome = true) ∧
    (∃ c, Issues (.cpyp (.v 8)) (demo 0 entries fun t => { t with pb := [.st 127 [1]] }) c ∧ c.room 0 ∧ c.act ≠ [] ∧ ringOk c ∧ ringRoom c ∧
      overlaps c ≠ [] ∧ c.t.pub = none) ∧
    (∃ c, Issues (.cpyp (.v 8)) (demo 0 entries fun t => { t with drain := [⟨0, .st 127 [1]⟩] }) c ∧ c.room 0 ∧ c.act ≠ [] ∧ ringOk c ∧ ringRoom c ∧
      overlaps c = [] ∧ c.draining (copySpan c) = true) ∧
    ∃ c, Issues (.cpyp (.v 8)) (demo 0 entries fun t => { t with pb := [.st 128 [1]], drain := [⟨0, .st 63 [1]⟩] }) c ∧ c.room 0 ∧ c.act ≠ [] ∧ ringOk c ∧
      ringRoom c ∧ overlaps c = [] ∧ c.draining (copySpan c) = false := by
  refine ⟨got (by decide), got (by decide), got (by decide), ?_, ?_, ?_, ?_⟩ <;> (simp only [ringRoom, Ctx.room]; exact meets (by decide))

/-- A gather of two rows of 16 bytes from address 64. -/
def gather : Group → Group := withS [(8, 64), (10, 0x1000), (11, 2), (12, 16), (13, 16), (14, 0x2000), (15, 0xFFFFF)]

abbrev gathDesc (c : Ctx) : GathDesc :=
  let x := c.rd (.s 8) 8 0
  ⟨x % 2 ^ 64, x / 2 ^ 64 % 2 ^ 32, x / 2 ^ 96 % 2 ^ 32, x / 2 ^ 128 % 2 ^ 32, x / 2 ^ 160 % 2 ^ 32, x / 2 ^ 192 % 2 ^ 32, x / 2 ^ 224 % 2 ^ 32⟩

abbrev gathIdx (c : Ctx) : List Nat := (List.range (gathDesc c).count).map fun j => readNat c.t.live.scr ((gathDesc c).idx + 4 * j) 4

abbrev gathOk (c : Ctx) : Prop :=
  let g := gathDesc c
  c.act ≠ [] ∧ g.count ≤ 65536 ∧ g.rowb ≤ 4096 ∧ namedOk c g.ctl ∧ g.idx % 4 = 0 ∧ g.dst % 4 = 0 ∧ inScr c g.idx (4 * g.count) ∧ g.dst < 2 ^ 31 ∧
    (g.dst + g.count * g.rowb + 7) / 8 * 8 + 8 ≤ c.scrSize

theorem witness_GatherPosted :
    (∃ c, Issues (.gath (.s 8)) (demo 0 gather fun t => { t with pb := [.st 79 [1]] }) c ∧ c.room 0 ∧ gathOk c ∧ c.unpublished (c.gathSpan (gathDesc c) (gathIdx c)) ≠ []) ∧
    (∃ c, Issues (.gath (.s 8)) (demo 0 gather fun t => { publishing t with pb := [.st 79 [1]] }) c ∧ c.room 0 ∧ gathOk c ∧
      c.unpublished (c.gathSpan (gathDesc c) (gathIdx c)) ≠ [] ∧ c.t.pub.isSome = true) ∧
    (∃ c, Issues (.gath (.s 8)) (demo 0 gather fun t => { t with drain := [⟨0, .st 79 [1]⟩] }) c ∧ c.room 0 ∧ gathOk c ∧
      c.unpublished (c.gathSpan (gathDesc c) (gathIdx c)) = [] ∧ c.draining (c.gathSpan (gathDesc c) (gathIdx c)) = true) ∧
    ∃ c, Issues (.gath (.s 8)) (demo 0 gather id) c ∧ c.room 0 ∧ gathOk c ∧ published c (c.gathSpan (gathDesc c) (gathIdx c)) := by
  simp only [gathOk, namedOk, barrierOk, inScr, published]
  exact ⟨meets (by decide), meets (by decide), meets (by decide), meets (by decide)⟩

/-- A collective of 16 elements from address 64; status at 0x2000. -/
def collective : Group → Group := withS [(8, 0), (9, 16), (10, 64), (14, 0xFFFFF), (15, 0x2000)]

abbrev collSpan (c : Ctx) : List (Nat × Nat) :=
  let x := c.rd (.s 8) 8 0
  c.physical (x / 2 ^ 64 % 2 ^ 64) (collSrcLen (x % 2 ^ 32) (x / 2 ^ 32 % 2 ^ 32) (c.s.groupOf c.t (x % 2 ^ 32)).length)

abbrev collOk (c : Ctx) : Prop :=
  let x := c.rd (.s 8) 8 0
  c.act ≠ [] ∧ namedOk c (x / 2 ^ 192 % 2 ^ 32) ∧ x / 2 ^ 224 % 2 ^ 32 % 8 = 0 ∧ inScr c (x / 2 ^ 224 % 2 ^ 32) 8

theorem witness_CollectivePosted :
    (∃ c, Issues (.coll (.s 8)) (demo 0 collective fun t => { t with pb := [.st 64 [1]] }) c ∧ c.room 0 ∧ collOk c ∧ c.unpublished (collSpan c) ≠ []) ∧
    (∃ c, Issues (.coll (.s 8)) (demo 0 collective fun t => { t with drain := [⟨0, .st 127 [1]⟩] }) c ∧ c.room 0 ∧ collOk c ∧ c.unpublished (collSpan c) = [] ∧
      c.draining (collSpan c) = true) ∧
    ∃ c, Issues (.coll (.s 8)) (demo 0 collective id) c ∧ c.room 0 ∧ collOk c ∧ published c (collSpan c) := by
  simp only [collOk, namedOk, barrierOk, inScr, published]
  exact ⟨meets (by decide), meets (by decide), meets (by decide)⟩

/-- A re-shard from the layout at 64 to the one at 128, progress at 0x200. -/
def reshard : Group → Group := withS [(8, 64), (10, 128), (12, 0x200), (14, 0xFFFFF)]

abbrev rseOk (c : Ctx) : Prop :=
  let x := c.rd (.s 8) 8 0
  c.act ≠ [] ∧ x / 2 ^ 224 % 2 ^ 32 = 0 ∧ x / 2 ^ 192 % 2 ^ 32 / 2 ^ 20 = 0 ∧ x % 2 ^ 64 % 64 = 0 ∧ x / 2 ^ 64 % 2 ^ 64 % 64 = 0 ∧
    x / 2 ^ 128 % 2 ^ 64 % 8 = 0 ∧ namedOk c (x / 2 ^ 192 % 2 ^ 32) ∧ c.s.translate c.root (x / 2 ^ 128 % 2 ^ 64) = some (⟨0, false, false, false⟩, 0x200) ∧
    c.s.dstFaults c.root false (x / 2 ^ 128 % 2 ^ 64) 16 = []

theorem witness_ReshardPosted :
    (∃ c, Issues (.rshard (.s 8)) (demo 0 reshard fun t => { t with pb := [.st 64 [1]] }) c ∧ c.room 0 ∧ rseOk c ∧
      c.unpublished ((c.rshardRanges 64 128).flatMap fun r => c.physical r.1 r.2) ≠ []) ∧
    (∃ c, Issues (.rshard (.s 8)) (demo 0 reshard fun t => { t with drain := [⟨0, .st 127 [1]⟩] }) c ∧ c.room 0 ∧ rseOk c ∧
      c.unpublished ((c.rshardRanges 64 128).flatMap fun r => c.physical r.1 r.2) = [] ∧
      c.draining ((c.rshardRanges 64 128).flatMap fun r => c.physical r.1 r.2) = true) ∧
    ∃ c, Issues (.rshard (.s 8)) (demo 0 reshard id) c ∧ c.room 0 ∧ rseOk c ∧
      published c ((c.rshardRanges 64 128).flatMap fun r => c.physical r.1 r.2) := by
  simp only [rseOk, namedOk, barrierOk, published]
  exact ⟨meets (by decide), meets (by decide), meets (by decide)⟩

/-! ### Sealing and launching -/

/-- Slot 5 holds a signing key of partition 0. -/
def keyed (s : State) : State := { s with keySlots := [⟨5, true, 2, 0, 0, 0⟩] }

/-- A signing key; a slot that is not bound; no lane active. -/
theorem witness_SealOpens : (∃ c, Issues (.sealo (.s (0 : Fin 31)) (.s 4)) (keyed (demo 0 (withS [(4, 5)]) id)) c ∧ c.room 12 ∧ c.act ≠ []) ∧
    (∃ c, Issues (.sealo (.s (30 : Fin 31)) (.s 4)) (demo 0 (withS [(4, 0xFFFFFFFF)]) id) c ∧ c.room 12 ∧ c.act ≠ []) ∧
    ∃ c, Issues (.sealo (.s (30 : Fin 31)) (.s 4)) (idle (demo 0 (withS [(4, 5)]) id)) c ∧ c.room 12 ∧ c.act = [] :=
  ⟨meets (by decide), meets (by decide), meets (by decide)⟩

/-- Context 1 is open. -/
def sealing (seq : Option Nat) (t : Team) : Team := { t with live := { t.live with seals := [(1, ⟨0, 5, seq, [], false, false⟩)] } }

/-- SEALA of 64 bytes from address 64 or from the scratchpad. -/
def sealArgs (scr : Word) : Group → Group := withS [(4, 64), (6, 64), (7, 1 + 0x40000000 * scr), (8, 1), (10, 0x2000)]

abbrev sealaFields (c : Ctx) : Prop :=
  let x := c.rd (.s 4) 4 0
  let w := x / 2 ^ 96 % 2 ^ 32
  w % 2 ^ 30 < 4 ∧ w / 2 ^ 30 < 2 ∧ (c.openCtx (w % 4)).isSome = true ∧ x / 2 ^ 64 % 2 ^ 32 ≤ 2 ^ 24

abbrev sealaOk (scr : Bool) (c : Ctx) : Prop :=
  let x := c.rd (.s 4) 4 0
  c.act ≠ [] ∧ sealaFields c ∧ decide (x / 2 ^ 96 % 2 ^ 32 / 2 ^ 30 = 1) = scr ∧ (scr = true → inScr c (x % 2 ^ 64) (x / 2 ^ 64 % 2 ^ 32))

/-- SEALA: no lane, no open context, a range outside the scratchpad; then the waits and the posts. SEALC: no lane, an address off 64, no open
context, one that has absorbed nothing; then its post. A SEALA of the scratchpad waits for a reflective store of its last byte. -/
theorem witness_SealPosts :
    (∃ c, Issues (.seala (.s 4)) (idle (demo 0 (sealArgs 1) id)) c ∧ c.room 0 ∧ c.act = []) ∧
    (∃ c, Issues (.seala (.s 4)) (demo 0 (sealArgs 1) id) c ∧ c.room 0 ∧ c.act ≠ [] ∧ ¬ sealaFields c) ∧
    (∃ c, Issues (.seala (.s 4)) (demo 0 (fun g => withS [(4, 65473)] (sealArgs 1 g)) (sealing none)) c ∧ c.room 0 ∧ c.act ≠ [] ∧ sealaFields c ∧
      decide (c.rd (.s 4) 4 0 / 2 ^ 96 % 2 ^ 32 / 2 ^ 30 = 1) = true ∧ ¬ inScr c (c.rd (.s 4) 4 0 % 2 ^ 64) (c.rd (.s 4) 4 0 / 2 ^ 64 % 2 ^ 32)) ∧
    (∃ c, Issues (.seala (.s 4)) (demo 0 (sealArgs 1) fun t => publishing (sealing none t)) c ∧ c.room 0 ∧ sealaOk true c ∧ c.t.pub.isSome = true) ∧
    (∃ c, Issues (.seala (.s 4)) (demo 0 (sealArgs 0) fun t => { sealing none t with pb := [.st 64 [1]] }) c ∧ c.room 0 ∧ sealaOk false c ∧ c.t.pub = none ∧
      c.unpublished (c.physical 64 64) ≠ []) ∧
    (∃ c, Issues (.seala (.s 4)) (demo 0 (sealArgs 0) fun t => sealing none t) c ∧ c.room 0 ∧ sealaOk false c ∧ c.t.pub = none ∧ published c (c.physical 64 64)) ∧
    (∃ c, Issues (.seala (.s 4)) (demo 0 (fun g => { sealArgs 1 g with ops := [⟨9, .st, 0, false, .refl 0 [(127, [1])] [1, 2]⟩] }) fun t => sealing none t) c ∧ c.room 0 ∧
      sealaOk true c ∧ c.t.pub = none ∧ c.g.ops.any (fun o => o.writesScr 64 64) = true) ∧
    (∃ c, Issues (.seala (.s 4)) (demo 0 (fun g => withS [(4, 65472)] (sealArgs 1 g)) fun t => sealing none t) c ∧ c.room 0 ∧ sealaOk true c ∧ c.t.pub = none ∧ c.g.ops = []) ∧
    (∃ c, Issues (.sealc (.s 8) (.s 10)) (idle (demo 0 (sealArgs 0) id)) c ∧ c.room 0 ∧ c.act = []) ∧
    (∃ c, Issues (.sealc (.s 8) (.s 10)) (demo 0 (fun g => withS [(10, 63)] (sealArgs 0 g)) id) c ∧ c.room 0 ∧ c.act ≠ [] ∧ c.rd (.s 10) 2 0 % 64 ≠ 0) ∧
    (∃ c, Issues (.sealc (.s 8) (.s 10)) (demo 0 (sealArgs 0) id) c ∧ c.room 0 ∧ c.act ≠ [] ∧ c.rd (.s 10) 2 0 % 64 = 0 ∧ c.openCtx (c.rd (.s 8) 1 0) = none) ∧
    (∃ c, Issues (.sealc (.s 8) (.s 10)) (demo 0 (sealArgs 0) fun t => sealing none t) c ∧ c.room 0 ∧ c.act ≠ [] ∧ c.rd (.s 10) 2 0 % 64 = 0 ∧
      c.openCtx (c.rd (.s 8) 1 0) = some ⟨0, 5, none, [], false, false⟩ ∧ (c.advance (.sealc (.s 8) (.s 10))).team.sealAhead (c.rd (.s 8) 1 0) c.s.uid = false) ∧
    ∃ c, Issues (.sealc (.s 8) (.s 10)) (demo 0 (sealArgs 0) fun t => sealing (some 3) t) c ∧ c.room 0 ∧ c.act ≠ [] ∧ c.rd (.s 10) 2 0 % 64 = 0 ∧
      c.openCtx (c.rd (.s 8) 1 0) = some ⟨0, 5, some 3, [], false, false⟩ := by
  simp only [sealaOk, sealaFields, inScr, published]
  exact ⟨meets (by decide), meets (by decide), meets (by decide), meets (by decide), meets (by decide), meets (by decide), meets (by decide), meets (by decide), meets (by decide),
    meets (by decide), meets (by decide), meets (by decide), meets (by decide)⟩

/-- A SEALA or SEALC of context 1 in flight in the COPY group. -/
def sealOp (k : OpKind) (g : Group) : Group := if g.role = .copy then { g with ops := [⟨9, .cp, 0, false, k⟩] } else g

/-- A SEALC with a SEALA of its context before it. -/
def behindSeala (g : Group) : Group :=
  if g.role = .copy then { g with ops := [⟨8, .cp, 0, false, .seala 1 false 64 2 0 [1, 2]⟩, ⟨9, .cp, 0, false, .sealc 1 0x2000⟩] } else g

/-- A SEALC whose record lies in host memory, its confidential function's channel having no key. -/
def toHost : State :=
  let s := (demo 0 (sealOp (.sealc 1 0x2000)) (sealing (some 3))).setRegion 0 65536 .host
  { s with parts := s.parts.map fun p => { p with prot := true } }

/-- A SEALA of the scratchpad, one of global memory, and one that waits for the host; a SEALC, one that waits for its channel, and one behind a
SEALA. -/
theorem witness_SealEnds :
    (∃ t g, (demo 0 (sealOp (.seala 1 false 64 2 0 [1, 2])) (sealing none)).team? 1 = some t ∧ t.live.groups[0]? = some g ∧
      g.firstOp isSeala = some ⟨9, .cp, 0, false, .seala 1 false 64 2 0 [1, 2]⟩ ∧ (demo 0 (sealOp (.seala 1 false 64 2 0 [1, 2])) (sealing none)).awaitsHost 9 = false ∧
      t.live.seals.find? (fun x => x.1 == 1) = some (1, ⟨0, 5, none, [], false, false⟩)) ∧
    (∃ t g, (demo 0 (sealOp (.seala 1 true 64 2 0 [])) (sealing (some 3))).team? 1 = some t ∧ t.live.groups[0]? = some g ∧
      g.firstOp isSeala = some ⟨9, .cp, 0, false, .seala 1 true 64 2 0 []⟩ ∧
      ({ demo 0 (sealOp (.seala 1 true 64 2 0 [])) (sealing (some 3)) with hostWait := [(9, 1)] } : State).awaitsHost 9 = true ∧
      (demo 0 (sealOp (.seala 1 true 64 2 0 [])) (sealing (some 3))).awaitsHost 9 = false ∧
      t.live.seals.find? (fun x => x.1 == 1) = some (1, ⟨0, 5, some 3, [], false, false⟩)) ∧
    (∃ t g, (demo 0 (sealOp (.sealc 1 0x2000)) (sealing (some 3))).team? 1 = some t ∧ t.live.groups[0]? = some g ∧
      g.firstOp isSealc = some ⟨9, .cp, 0, false, .sealc 1 0x2000⟩ ∧ t.live.seals.find? (fun x => x.1 == 1) = some (1, ⟨0, 5, some 3, [], false, false⟩) ∧
      t.sealAhead 1 9 = false ∧ (demo 0 id id).hostHeld ((demo 0 id id).funcOf t) (((demo 0 id id).funcOf t).map (·.root) |>.getD 0) 0x2000 3392 = false) ∧
    (∃ t g, toHost.team? 1 = some t ∧ t.live.groups[0]? = some g ∧
      g.firstOp isSealc = some ⟨9, .cp, 0, false, .sealc 1 0x2000⟩ ∧ t.live.seals.find? (fun x => x.1 == 1) = some (1, ⟨0, 5, some 3, [], false, false⟩) ∧
      t.sealAhead 1 9 = false ∧ toHost.dstFaults 0x40000000 false 0x2000 3392 = [] ∧ toHost.hostHeld (toHost.funcOf t) 0x40000000 0x2000 3392 = true) ∧
    ∃ t g, (demo 0 behindSeala (sealing (some 3))).team? 1 = some t ∧ t.live.groups[0]? = some g ∧
      g.firstOp isSealc = some ⟨9, .cp, 0, false, .sealc 1 0x2000⟩ ∧ t.live.seals.find? (fun x => x.1 == 1) = some (1, ⟨0, 5, some 3, [], false, false⟩) ∧
      t.sealAhead 1 9 = true :=
  ⟨⟨_, _, rfl, rfl, by decide, by decide, by decide⟩, ⟨_, _, rfl, rfl, by decide, by decide, by decide, by decide⟩,
    ⟨_, _, rfl, rfl, by decide, by decide, by decide, by decide⟩, ⟨_, _, rfl, rfl, by decide, by decide, by decide, by decide, by decide⟩,
    _, _, rfl, rfl, by decide, by decide, by decide⟩

/-- A record in host memory, before the device has asked for it, with a write of the team ahead of it in the drain or not. -/
def hostRecord (stage : Nat) (f : Team → Team) : State :=
  (demo 2 (fun g => withS [(4, 64)] { staged g with frags := g.frags.map fun f => { f with stage := stage } }) f).setRegion 0 65536 .host

theorem witness_LaunchWaits :
    (∃ c, Issues (.lnch (.s 3) (.s 4) 63) (demo 2 (fun g => withS [(4, 64)] (staged g)) id) c ∧ c.room 0 ∧ c.act ≠ [] ∧ c.rd (.s 4) 2 c.low % 2 ^ 52 % 64 = 0 ∧
      c.s.access c.root .load (c.rd (.s 4) 2 c.low % 2 ^ 52) = .ok (64, false) ∧ c.f.stage ≠ 0 ∧ c.s.regionOf 64 ≠ some .host) ∧
    (∃ c, Issues (.lnch (.s 3) (.s 4) 63) (hostRecord 1 id) c ∧ c.room 0 ∧ c.act ≠ [] ∧ c.rd (.s 4) 2 c.low % 2 ^ 52 % 64 = 0 ∧
      c.s.access c.root .load (c.rd (.s 4) 2 c.low % 2 ^ 52) = .ok (64, false) ∧ c.f.stage = 1 ∧ c.s.regionOf 64 = some .host ∧
      c.t.drain.any (fun x => x.item.meets 64 64) = false) ∧
    (∃ c, Issues (.lnch (.s 3) (.s 4) 63) (hostRecord 1 fun t => { t with drain := [⟨0, .st 127 [1]⟩] }) c ∧ c.room 0 ∧ c.act ≠ [] ∧
      c.rd (.s 4) 2 c.low % 2 ^ 52 % 64 = 0 ∧ c.s.access c.root .load (c.rd (.s 4) 2 c.low % 2 ^ 52) = .ok (64, false) ∧ c.f.stage ≠ 0 ∧
      c.s.regionOf 64 = some .host ∧ c.t.drain.any (fun x => x.item.meets 64 64) = true) ∧
    (∃ c, Issues (.lnch (.s 3) (.s 4) 63) (hostRecord 2 id) c ∧ c.room 0 ∧ c.act ≠ [] ∧ c.rd (.s 4) 2 c.low % 2 ^ 52 % 64 = 0 ∧
      c.s.access c.root .load (c.rd (.s 4) 2 c.low % 2 ^ 52) = .ok (64, false) ∧ fromHostMemory c 64 64) ∧
    (∃ c, Issues (.lnch (.s 3) (.s 4) 63) (demo 2 (withS [(4, 64)]) publishing) c ∧ c.room 0 ∧ c.act ≠ [] ∧ c.rd (.s 4) 2 c.low % 2 ^ 52 % 64 = 0 ∧
      c.s.access c.root .load (c.rd (.s 4) 2 c.low % 2 ^ 52) = .ok (64, false) ∧ c.f.stage = 0 ∧ c.t.pub.isSome = true) ∧
    ∃ c, Issues (.lnch (.s 0) (.s 4) 0) (demo 2 (withS [(4, 64)]) id) c ∧ c.room 0 ∧ c.act ≠ [] ∧ c.rd (.s 4) 2 c.low % 2 ^ 52 % 64 = 0 ∧
      c.s.access c.root .load (c.rd (.s 4) 2 c.low % 2 ^ 52) = .ok (64, false) ∧ c.f.stage = 0 ∧ c.t.pub = none ∧ c.s.regionOf 64 ≠ some .host := by
  simp only [okAt_iff]
  exact ⟨meets (by decide), meets (by decide), meets (by decide), meets (by decide), meets (by decide), meets (by decide)⟩

/-- A state in which a fragment waits for the front end. -/
def launching : State := demo 2 (fun g => { g with frags := g.frags.map fun f => { f with wait := .lnch 64 0 (.s (30 : Fin 31)) } }) id

theorem witness_LaunchAnswers : ∃ c f, launching.ctx ⟨1, 2, 0⟩ = some c ∧ c.f.wait = .lnch 64 0 (.s (30 : Fin 31)) ∧ c.t.pub = none ∧ c.func = some f ∧
    launching.func? f.vf = some f := by
  obtain ⟨c, h, a, b, d⟩ := got (o := launching.ctx ⟨1, 2, 0⟩) (P := fun c => c.f.wait = .lnch 64 0 (.s (30 : Fin 31)) ∧ c.t.pub = none ∧
    held c.func (fun f => launching.func? f.vf = some f) = true) (by decide)
  obtain ⟨f, e, k⟩ := got d
  exact ⟨c, f, h, a, b, e, k⟩

/-! ### The host and the interface -/

/-- The device with its function changed. -/
def fn (f : Func → Func) : State := let s := demo 2 id id; { s with funcs := s.funcs.map f }

/-- Function 0 hears the host: its partition is not confidential. -/
def hearing (s : State) (P : Func → Prop) [DecidablePred P] : Bool := held (s.func? 0) fun f => (s.part? f.part).any (·.prot) = false ∧ P f

theorem heard {i : Instr} {s : State} {kind : Nat} {plain wire : List Byte} (e : fromHost i = some (0, kind, plain, wire)) {P : Func → Prop}
    [DecidablePred P] (h : hearing s P = true) : ∃ f, hears s i f ∧ P f := by
  obtain ⟨f, k, c, p⟩ := got h
  exact ⟨f, ⟨_, _, _, _, e, k, fun g => by simp [guards, c] at g⟩, p⟩

/-- The partitions are confidential. -/
def guarded (s : State) : State := { s with parts := s.parts.map fun p => { p with prot := true } }

/-- The channel of a confidential partition's function has a key and works, and the record that carries the message comes over the wire. -/
theorem witness_hears : ∃ f wire, hears (guarded (fn fun f => { f with chanKey := some 1 })) (.trapReply 0 7 true wire) f ∧
    guards (guarded (fn fun f => { f with chanKey := some 1 })) f := by
  obtain ⟨f, e, k, c, p⟩ := got (o := (guarded (fn fun f => { f with chanKey := some 1 })).func? 0)
    (P := fun f => f.chanKey = some 1 ∧ f.chanErr = false ∧ guards (guarded (fn fun f => { f with chanKey := some 1 })) f) (by decide)
  exact ⟨f, wireRecord f 1 4 _, ⟨0, 4, _, _, rfl, e, fun _ => ⟨c, 1, k, rfl⟩⟩, p⟩

/-- A record with a SEQ. -/
def recordOf (n : Nat) : List Byte := leBytes 8 n ++ List.replicate 56 0

/-- A SEQ seen before, a new one; one in RUN while another function of the partition is in ERROR; and one outside RUN. -/
theorem witness_LaunchRecords :
    (∃ f, hears (fn id) (.launchRecord 0 0 (recordOf 1) []) f ∧ f.ifst = .run ∧ f.queues.find? (fun x => x.q == 0) = some ⟨0, true, 0, 0, some 1⟩) ∧
    (∃ f, hears (fn id) (.launchRecord 0 0 (recordOf 2) []) f ∧ f.ifst = .run ∧ f.queues.find? (fun x => x.q == 0) = some ⟨0, true, 0, 0, some 1⟩ ∧
      (fn id).funcs.any (fun k => k.part == f.part && k.ifst == .error) = false) ∧
    (∃ f, hears (fn fun f => { f with ifst := .unlocked }) (.launchRecord 0 0 (recordOf 2) []) f ∧ f.ifst = .unlocked ∧
      f.queues.find? (fun x => x.q == 0) = some ⟨0, true, 0, 0, some 1⟩) ∧ (recordOf 1).length = 64 ∧ (recordOf 2).length = 64 :=
  ⟨heard rfl (by decide), heard rfl (by decide), heard rfl (by decide), rfl, rfl⟩

/-- The last bytes of a page; a page that is not mapped; the largest transfer. -/
theorem witness_DeviceMemory : (∃ f, hears (fn id) (.deviceMemoryWrite 0 0xF000 (List.replicate 4096 1) []) f ∧ f.ifst ≠ .error ∧
      (0xF000 : VAddr).toNat % 65536 + 4096 ≤ 65536 ∧
      (fn id).translate f.root (0xF000 : VAddr).toNat = some (⟨0, false, false, false⟩, 0xF000) ∧ (fn id).regionOf 0xF000 ≠ some .host) ∧
    (∃ f, hears (fn id) (.deviceMemoryReadRequest 0 0x40000000 1 []) f ∧ f.ifst ≠ .error ∧ (0x40000000 : VAddr).toNat % 65536 + 1 ≤ 65536 ∧
      (fn id).translate f.root (0x40000000 : VAddr).toNat = none) ∧
    ∃ f, hears (fn id) (.deviceMemoryReadRequest 0 0xF000 4096 []) f ∧ f.ifst ≠ .error ∧ (0xF000 : VAddr).toNat % 65536 + 4096 ≤ 65536 ∧
      (fn id).translate f.root (0xF000 : VAddr).toNat = some (⟨0, false, false, false⟩, 0xF000) :=
  ⟨heard rfl (by decide), heard rfl (by decide), heard rfl (by decide)⟩

theorem witness_HostReplies : ∃ f, hears (fn id) (.hostMemoryReadReply 0 64 [1, 2] []) f ∧ f.ifst = .run := heard rfl (by decide)

/-- A handler parked for the host under token 7. -/
def parkedHost : State := demo 2 (fun g => if g.role = .vector then { g with
  handler := some ⟨0, 4096, none, [], [], none, some 7, false, none, []⟩, frags := g.frags.map fun f => { f with wait := .host } } else g) id

theorem witness_HostDecides :
    (∃ f t g h, hears parkedHost (.trapReply 0 7 false []) f ∧ hears parkedHost (.trapReply 0 7 true []) f ∧
      parkedHost.parkedHandler 0 7 = some (t, 2, g) ∧ parkedHost.team? t.id = some t ∧ g.handler = some h) ∧
    (∃ f, hears parkedHost (.trapReply 0 8 true []) f ∧ (parkedHost.parkedHandler 0 8).isNone = true) ∧
    ∃ f l, hears (fn id) (.killRequest 0 0 1 []) f ∧ (fn id).launches.find? (fun x => x.vf == 0 && x.q == 0 && x.seq == 1) = some l ∧
      (fn id).launch? l.id = some l ∧ l.status.ended = false := by
  refine ⟨⟨_, _, _, _, ⟨_, _, _, _, rfl, rfl, fun h => ?_⟩, ⟨_, _, _, _, rfl, rfl, fun h => ?_⟩, rfl, rfl, rfl⟩, heard rfl (by decide), _, _,
    ⟨_, _, _, _, rfl, rfl, fun h => ?_⟩, rfl, rfl, rfl⟩ <;> exact absurd h (by decide)

theorem wireRecord_ne (f : Func) (key kind : Nat) (plain : List Byte) : [] ≠ wireRecord f key kind plain := by
  intro h
  have h := congrArg List.length h
  simp [wireRecord, leBytes] at h

/-- No credit left; a channel in ERROR, one without a key, and one that a message fails to authenticate to. -/
theorem witness_Credits : (∃ f, (fn fun f => { f with credits := 0, held := [[1]] }).func? 0 = some f ∧ f.chanErr = false) ∧
    (∃ f, (guarded (fn fun f => { f with held := [[1]], chanKey := some 1, chanErr := true })).func? 0 = some f ∧
      guards (guarded (fn fun f => { f with held := [[1]], chanKey := some 1, chanErr := true })) f ∧ f.chanErr = true) ∧
    (∃ f, (guarded (fn id)).func? 0 = some f ∧ guards (guarded (fn id)) f ∧ f.chanKey = none) ∧
    ∃ f plain, (guarded (fn fun f => { f with chanKey := some 1 })).func? 0 = some f ∧ fromHost (.killRequest 0 0 1 []) = some (0, 11, plain, []) ∧
      guards (guarded (fn fun f => { f with chanKey := some 1 })) f ∧ f.chanKey = some 1 ∧ f.chanErr = false ∧ [] ≠ wireRecord f 1 11 plain :=
  ⟨got (by decide), got (by decide), got (by decide), _, _, rfl, rfl, by decide, rfl, rfl, wireRecord_ne _ _ _ _⟩

theorem witness_InterfaceStates : (∃ f, (fn fun f => { f with ifst := .unlocked, session := true }).func? 0 = some f ∧ f.ifst = .unlocked ∧ f.session = true) ∧
    (∃ f, (fn fun f => { f with ifst := .locked }).func? 0 = some f ∧ f.ifst = .locked) ∧ ∃ f, (fn fun f => { f with ifst := .error }).func? 0 = some f ∧ f.ifst = .error :=
  ⟨got (by decide), got (by decide), got (by decide)⟩

theorem witness_InterfaceStops : (∃ f, (fn fun f => { f with ifst := .unlocked }).func? 0 = some f ∧ f.ifst = .unlocked) ∧
    (∃ f, (fn id).func? 0 = some f ∧ f.ifst ≠ .unlocked) ∧ ∃ f, (fn fun f => { f with ifst := .error }).func? 0 = some f ∧ f.ifst ≠ .unlocked :=
  ⟨got (by decide), got (by decide), got (by decide)⟩

theorem witness_Scrubs : (demo 2 id id).lineLost 1 = false ∧ [(64, 128)].any (fun r => decide (r.1 ≤ 64 * 1 ∧ 64 * 1 < r.1 + r.2)) = true := by decide

theorem witness_KeyExchange : (∃ f, (fn fun f => { f with held := [[1]] }).func? 0 = some f ∧ 255 < 256 ∧ 1 ≤ 4 ∧ f.ifst ≠ .error) ∧
    ∃ f, (fn fun f => { f with ifst := .error }).func? 0 = some f ∧ f.ifst = .error := ⟨got (by decide), got (by decide)⟩

/-! ### Registers of system software -/

theorem witness_QueueWrites :
    (∃ f, (fn fun f => { f with ifst := .unlocked }).func? 0 = some f ∧ 0 < 64 ∧ ((fn fun f => { f with ifst := .unlocked }).funcs.map (·.vf)).Nodup ∧
      f.queues.any (fun k => k.q == 0) = true ∧ f.ifst = .unlocked) ∧
    (∃ f, (fn fun f => { f with ifst := .error }).func? 0 = some f ∧ ((fn fun f => { f with ifst := .error }).funcs.map (·.vf)).Nodup ∧
      f.queues.any (fun k => k.q == 0) = true ∧ f.ifst = .error) ∧
    ∃ f, (fn id).func? 0 = some f ∧ ((fn id).funcs.map (·.vf)).Nodup ∧ f.queues.any (fun k => k.q == 0) = true ∧ f.ifst = .run :=
  ⟨got (by decide), got (by decide), got (by decide)⟩

theorem witness_RegisterWrites :
    (∃ w f, funcReg (2 ^ 40) (.xwsize 0) = some (0, true, w) ∧ (fn fun f => { f with ifst := .unlocked }).func? 0 = some f ∧
      ((fn fun f => { f with ifst := .unlocked }).funcs.map (·.vf)).Nodup ∧ f.ifst = .unlocked) ∧
    (∃ w f, funcReg 63 (.funcPart 0) = some (0, false, w) ∧ (fn id).func? 0 = some f ∧ ((fn id).funcs.map (·.vf)).Nodup) ∧
    (∃ w f, funcReg 5 (.fpthr 0 0) = some (0, true, w) ∧ (fn fun f => { f with ifst := .error }).func? 0 = some f ∧
      ((fn fun f => { f with ifst := .error }).funcs.map (·.vf)).Nodup ∧ f.queues.any (fun x => x.q == 0) = true ∧ f.ifst = .error) ∧
    (∃ w f, funcReg 5 (.xwkey 0) = some (0, true, w) ∧ (fn id).func? 0 = some f ∧ ((fn id).funcs.map (·.vf)).Nodup ∧ f.ifst = .run) ∧
    (∃ w, partReg 5 (.sealout 0) = some (0, w) ∧ ∀ f ∈ (fn fun f => { f with ifst := .unlocked }).funcs, f.part = 0 → f.ifst = .unlocked) ∧
    ((keyed (fn id)).keySlot 255).v = false ∧ 0 < 65536 ∧ 0x100000 ≤ 0x100000 ∧ 0x100000 < 0x100000 + 65536 := by
  refine ⟨⟨_, _, rfl, rfl, by decide, rfl⟩, ⟨_, _, rfl, rfl, by decide⟩, ⟨_, _, rfl, rfl, by decide, by decide, rfl⟩, ⟨_, _, rfl, rfl, by decide, rfl⟩, ⟨_, rfl, by decide⟩, by decide⟩

/-- The device whose one function is unlocked, and a second partition. -/
def unlocked : State := fn fun f => { f with ifst := .unlocked }
def second : Part := ⟨5, 0, 1, 1, false, false, false, 0, 0, 0, 0, 0, 0, 0, 0, 0, 0, .on, [], 0, none, []⟩

abbrev fits (bytes : List Byte) : Prop :=
  LayoutOk bytes (partOfBytes bytes) ∧ DescriptorsOk (partOfBytes bytes :: unlocked.parts.filter fun q => q.id != (partOfBytes bytes).id)

abbrev thaws (bytes : List Byte) : Prop := ∀ f ∈ unlocked.funcs, unlocked.freezesDesc (partOfBytes bytes).id f = true → f.ifst = .unlocked

/-- A descriptor that no partition has, one that replaces partition 0, and one that breaks the conditions. -/
theorem witness_TableWrites :
    (thaws second.bytes ∧ fits second.bytes ∧ (unlocked.part? (partOfBytes second.bytes).id).isNone = true) ∧
    (∃ p ∈ unlocked.parts, thaws p.bytes ∧ fits p.bytes ∧ (unlocked.part? (partOfBytes p.bytes).id).isSome = true) ∧
    thaws [] ∧ ¬ fits [] := by
  refine ⟨⟨by decide, ⟨?_, ?_⟩, by decide⟩, ⟨_, .head _, by decide, ⟨?_, ?_⟩, by decide⟩, by decide, fun h => absurd h.1.1 (by decide)⟩
  · unfold LayoutOk; decide
  · unfold DescriptorsOk; decide
  · unfold LayoutOk; decide
  · unfold DescriptorsOk; decide

/-! ### Steps -/

theorem witness_EncodeDecode : (Instr.lde ⟨7, .v 3, .w1, .b32, .v 4, .v 72, .default, 0xFFFFFF⟩).isEvent = false ∧
    (Instr.lde ⟨7, .v 3, .w1, .b32, .v 4, .v 72, .default, 0xFFFFFF⟩).wf = true := by decide

theorem witness_DecodeEncode : 0xC007FFF8 < 2 ^ 32 ∧ decode 0xC007FFF8 0xFFFFFFFF = .ok (.movl (.v 3) 0xFFFFFFFF) := by
  simp only [okAt_iff]
  decide

def errAt {α : Type} (x : Except Nat α) (k : Nat) : Bool :=
  match x with
  | .error e => decide (e = k)
  | .ok _ => false

theorem errAt_iff {α : Type} (x : Except Nat α) (k : Nat) : x = .error k ↔ errAt x k = true := by
  cases x <;> simp [errAt]

/-- A fragment's turn to fetch. -/
def fetching (w : Nat) (pc : VAddr) : State :=
  let s := demo 2 (fun g => if g.role = .vector then { g with frags := g.frags.map fun f => { f with pc := pc } } else g) id
  { s with mem := writeBytes s.mem 4096 (leBytes 8 w), plan := [⟨1, 2, 0⟩] }

def onTurn (s : State) (P : Ctx → Prop) [DecidablePred P] : Bool :=
  held (({ s with plan := [], cur := some ⟨1, 2, 0⟩ } : State).ctx ⟨1, 2, 0⟩) fun c => s.agenda = [] ∧ s.plan = [⟨1, 2, 0⟩] ∧ (s.teams.map (·.id)).Nodup ∧
    (∀ f ∈ c.g.frags, f.slices ≠ 0) ∧ (c.g.frags.map Frag.lowest).Nodup ∧ c.mayIssue = true ∧ c.g.handler = none ∧ c.pending.isNone = true ∧ P c

theorem turned {s : State} {P : Ctx → Prop} [DecidablePred P] (h : onTurn s P = true) : ∃ c, OnTurn ⟨1, 2, 0⟩ [] s c ∧ P c := by
  obtain ⟨c, e, a, b, d, f, g, i, j, k, l⟩ := got h
  exact ⟨c, ⟨a, b, e, d, f, g, i, j, by simpa using k⟩, l⟩

/-- One word (MOVI s5, 64); two words (MOVL); a fetch past the mapped GiB; a second word there; a word that decodes to nothing. -/
theorem witness_StepRuns :
    (∃ c, OnTurn ⟨1, 2, 0⟩ [] (fetching 0x51940040 4096) c ∧ (fetching 0x51940040 4096).access c.root .fetch c.f.pc.toNat = .ok (4096, false) ∧
      wordCount (readNat (fetching 0x51940040 4096).mem 4096 4) = 1 ∧ okAt (decode (readNat (fetching 0x51940040 4096).mem 4096 4) 0) (.movi (.s 5) 64) = true) ∧
    (∃ c, OnTurn ⟨1, 2, 0⟩ [] (fetching 0xDEADBEEFC007FFF8 4096) c ∧ (fetching 0xDEADBEEFC007FFF8 4096).access c.root .fetch c.f.pc.toNat = .ok (4096, false) ∧
      wordCount (readNat (fetching 0xDEADBEEFC007FFF8 4096).mem 4096 4) = 2 ∧
      (fetching 0xDEADBEEFC007FFF8 4096).access c.root .fetch (c.f.pc + 4).toNat = .ok (4100, false) ∧
      okAt (decode (readNat (fetching 0xDEADBEEFC007FFF8 4096).mem 4096 4) (readNat (fetching 0xDEADBEEFC007FFF8 4096).mem 4100 4)) (.movl (.v 3) 0xDEADBEEF) = true) ∧
    (∃ c, OnTurn ⟨1, 2, 0⟩ [] (fetching 0 0x40000000) c ∧ (fetching 0 0x40000000).access c.root .fetch c.f.pc.toNat = .error 4) ∧
    (∃ c, OnTurn ⟨1, 2, 0⟩ [] ({ fetching 0 0x3FFFFFFC with mem := writeBytes (fetching 0 0x3FFFFFFC).mem 0x3FFFFFFC (leBytes 4 0xC007FFF8) }) c ∧
      ({ fetching 0 0x3FFFFFFC with mem := writeBytes (fetching 0 0x3FFFFFFC).mem 0x3FFFFFFC (leBytes 4 0xC007FFF8) } : State).access c.root .fetch c.f.pc.toNat =
        .ok (0x3FFFFFFC, false) ∧
      ({ fetching 0 0x3FFFFFFC with mem := writeBytes (fetching 0 0x3FFFFFFC).mem 0x3FFFFFFC (leBytes 4 0xC007FFF8) } : State).access c.root .fetch (c.f.pc + 4).toNat =
        .error 4) ∧
    (∃ c, OnTurn ⟨1, 2, 0⟩ [] (fetching 0x74000000 4096) c ∧ (fetching 0x74000000 4096).access c.root .fetch c.f.pc.toNat = .ok (4096, false) ∧
      decode (readNat (fetching 0x74000000 4096).mem 4096 4) 0 = .error 1) ∧
    (Instr.rollback 1).isEvent = true ∧ (State.reset.agenda = [] ∧ State.reset.plan = []) := by
  simp only [okAt_iff, errAt_iff]
  exact ⟨turned (by decide), turned (by decide), turned (by decide), turned (by decide), turned (by decide), by decide, by decide⟩

theorem witness_MemoryStaysCanonical : Memory.wf State.reset.mem = true ∧ (match step State.reset with | .next _ => true | _ => false) = true := by decide

theorem witness_NeverStops : ((demo 2 id id).cur.bind (demo 2 id id).ctx).isSome = true ∧ (Instr.powerOn).isEvent = true ∧ Instr.isEvent .nop = false ∧
    (State.reset.cur.bind State.reset.ctx).isNone = true ∧ (∀ r ∈ (demo 2 id id).plan, r.slice < 8) ∧
    ∀ e ∈ (demo 2 id id).agenda, e ≠ .escfaultTaken ∧ e ≠ .remoteTrapTaken := by decide

/-! ### The dispatcher -/

/-- The launch of `demo` before its team is placed. -/
def unplaced (f : Launch → Launch) : State :=
  let s := demo 2 id id
  { s with teams := [], cur := none, launches := s.launches.map fun l => f { l with status := .placing, placed := 0 } }

/-- The launch is at the head of its queue, with its partition. -/
def heading (s : State) (P : Launch → Part → Prop) [∀ l p, Decidable (P l p)] : Bool :=
  held (s.launch? 0) fun l => held (s.part? 0) (fun p => held (s.func? l.vf) (fun f => s.part? f.part = some p) = true ∧
    (s.heads p.id).any (fun h => h.id == 0) = true ∧ ((s.heads p.id).takeWhile fun h => h.id != 0).any (s.canPlace p) = false ∧
    (l.status = .accepted ∨ l.status = .placing) ∧ P l p) = true

theorem headed {s : State} {P : Launch → Part → Prop} [∀ l p, Decidable (P l p)] (h : heading s P = true) : ∃ l p, AtHead s 0 l p ∧ P l p := by
  obtain ⟨l, e, h⟩ := got h
  obtain ⟨p, _, q, a, b, c, d⟩ := got h
  obtain ⟨f, k, g⟩ := got q
  exact ⟨l, p, ⟨e, ⟨f, k, g⟩, a, b, c⟩, d⟩

/-- No metadata record where the launch says; a team that no core can hold; a team that goes to core 143. -/
theorem witness_Placement :
    (∃ l p, AtHead (unplaced fun l => { l with md := none }) 0 l p ∧ l.md = none ∧ ((unplaced fun l => { l with md := none }).readMeta l).isNone = true) ∧
    (∃ l p, AtHead (unplaced fun l => { l with md := some { loaderMeta with reg := 100000 } }) 0 l p ∧ l.md = some { loaderMeta with reg := 100000 } ∧ l.placed = 0 ∧
      ((unplaced fun l => { l with md := some { loaderMeta with reg := 100000 } }).modLaunch 0 fun _ => { l with md := some { loaderMeta with reg := 100000 }, status := .placing }).tooLarge p
        { l with md := some { loaderMeta with reg := 100000 }, status := .placing } { loaderMeta with reg := 100000 } = true) ∧
    ∃ l p, AtHead (unplaced id) 0 l p ∧ l.md = some loaderMeta ∧
      let l1 := { l with md := some loaderMeta, status := .placing }
      let s1 := (unplaced id).modLaunch 0 fun _ => l1
      ¬ (l.placed = 0 ∧ s1.tooLarge p l1 loaderMeta = true) ∧ s1.coresOk p l1 loaderMeta [143] = true ∧ s1.canPlace p l1 = true ∧ s1.savedTeams l1 = [] ∧
        ((unplaced id).core? 143).isSome = true := ⟨headed (by decide), headed (by decide), headed (by decide +kernel)⟩

/-- Groups whose lanes have exited. -/
def done (p : List Pending) (o : List Op) : State := demo 2 (fun g => { g with live := 0, frags := [], pend := p, ops := o }) id

theorem witness_GroupEnds :
    (∃ t g, (done [] []).team? 1 = some t ∧ t.live.groups[2]? = some g ∧ g.ended = false ∧ g.live = 0 ∧ g.frags = [] ∧ g.pend = [] ∧ g.ops = [] ∧ g.escs = []) ∧
    (∃ t g, (done [] [⟨9, .st, 0, false, .stored⟩]).team? 1 = some t ∧ t.live.groups[2]? = some g ∧ g.ended = false ∧ g.live = 0 ∧ g.frags = [] ∧ g.pend = [] ∧ g.ops ≠ []) ∧
    (∃ t g, (done [.esc 3 3 1] []).team? 1 = some t ∧ t.live.groups[2]? = some g ∧ g.ended = false ∧ g.live = 0 ∧ g.frags = [] ∧ g.pend = [.esc 3 3 1]) ∧
    ∃ t g, (done [.remote 3 0 6 5 64 1 1] []).team? 1 = some t ∧ t.live.groups[2]? = some g ∧ g.ended = false ∧ g.live = 0 ∧ g.frags = [] ∧ g.pend = [.remote 3 0 6 5 64 1 1] :=
  ⟨⟨_, _, rfl, rfl, rfl, rfl, rfl, rfl, rfl, rfl⟩, ⟨_, _, rfl, rfl, rfl, rfl, rfl, rfl, by decide⟩, ⟨_, _, rfl, rfl, rfl, rfl, rfl, rfl⟩, _, _, rfl, rfl, rfl, rfl, rfl, rfl⟩

/-- Every group has ended. -/
def finishing (f : Team → Team) : State := demo 2 (fun g => { g with live := 0, frags := [], ended := true }) f

theorem witness_TeamEnds :
    (∃ t, (finishing fun t => { t with pb := [.st 64 [1]] }).team? 1 = some t ∧ (∀ g ∈ t.live.groups, g.ended = true ∧ g.pend = []) ∧ t.pub = none ∧ t.ending = .no ∧
      t.pb ≠ [] ∧ t.rsts = []) ∧
    (∃ t, (finishing fun t => { t with ending := .publishing, drain := [⟨0, .st 64 [1]⟩] }).team? 1 = some t ∧ (∀ g ∈ t.live.groups, g.ended = true ∧ g.pend = []) ∧
      t.pub = none ∧ t.ending ≠ .no ∧ t.drain ≠ []) ∧
    ∃ t, (finishing fun t => { t with ending := .publishing }).team? 1 = some t ∧ (∀ g ∈ t.live.groups, g.ended = true ∧ g.pend = []) ∧ t.pub = none ∧ t.ending ≠ .no ∧
      t.drain = [] ∧ t.rstOut = [] ∧ t.lost = false ∧ (∀ c ∈ (finishing fun t => { t with ending := .publishing }).rses, c.team ≠ 1) ∧ t.live.seals = [] := ⟨got (by decide), got (by decide), got (by decide)⟩

/-- A launch whose first team has ended, and one that has none left. -/
def retiring (f : Launch → Launch) : State := let s := demo 2 id id; { s with teams := [], launches := s.launches.map f }

theorem witness_Retirement :
    (∃ l f, (retiring fun l => { l with ended := [0], flags := 4 }).launch? 0 = some l ∧ (retiring fun l => { l with ended := [0], flags := 4 }).func? l.vf = some f ∧
      f.credits ≠ 0 ∧ ((retiring fun l => { l with ended := [0], flags := 4 }).part? f.part).any (·.prot) = false ∧ f.held = [] ∧ l.status = .placing ∧ l.retired ∈ l.ended) ∧
    (∃ l f, (retiring fun l => { l with status := .failed 5 }).launch? 0 = some l ∧ (retiring fun l => { l with status := .failed 5 }).func? l.vf = some f ∧
      f.credits ≠ 0 ∧ ((retiring fun l => { l with status := .failed 5 }).part? f.part).any (·.prot) = false ∧ f.held = [] ∧ l.status = .failed 5 ∧ l.ended = [] ∧ (retiring fun l => { l with status := .failed 5 }).teams = [] ∧
      ∀ k ∈ (retiring fun l => { l with status := .failed 5 }).launches, k.vf = l.vf → k.q = l.q → l.acc ≤ k.acc) ∧
    ∃ l f, (retiring fun l => { l with retired := 1 }).launch? 0 = some l ∧ (retiring fun l => { l with retired := 1 }).func? l.vf = some f ∧
      f.credits ≠ 0 ∧ ((retiring fun l => { l with retired := 1 }).part? f.part).any (·.prot) = false ∧ f.held = [] ∧ l.status = .placing ∧ l.grid.1 * l.grid.2.1 * l.grid.2.2 ≤ l.retired ∧ l.ended = [] :=
  ⟨⟨_, _, rfl, rfl, by decide, rfl, rfl, rfl, by decide⟩, ⟨_, _, rfl, rfl, by decide, rfl, rfl, rfl, rfl, rfl, by decide⟩, _, _, rfl, rfl, by decide, rfl, rfl, rfl, by decide, rfl⟩

/-- The launch is parked, with a team that runs, or one whose groups have all ended. -/
def parking (n : Nat) (s : State) : State := { s with launches := s.launches.map fun l => { l with status := .parked, parkto := n } }

theorem witness_ParkExpires :
    (∃ l, (parking 1 (demo 2 id id)).launch? 0 = some l ∧ l.status = .parked ∧ l.parkto ≠ 0 ∧ ∃ t ∈ (parking 1 (demo 2 id id)).teams, t.launch = 0 ∧
      ∃ g ∈ t.live.groups, g.ended = false) ∧
    (∃ l, (parking 1 (finishing id)).launch? 0 = some l ∧ l.status = .parked ∧ l.parkto ≠ 0 ∧ ((parking 1 (finishing id)).teams.map (·.id)).Nodup ∧
      ∃ t ∈ (parking 1 (finishing id)).teams, t.launch = 0 ∧ ∀ g ∈ t.live.groups, g.ended = true) ∧
    ∃ l, (parking 0 (demo 2 id id)).launch? 0 = some l ∧ l.parkto = 0 := ⟨got (by decide), got (by decide), got (by decide)⟩

/-! ### Slices and rollback -/

/-- Partition 0 is time-shared, in a state of its turn, with a sibling 1. -/
def shared (a b : SliceState) (f : Team → Team) : State :=
  let s := demo 2 id f
  { s with parts := (s.parts.map fun p => { p with parent := 7, level := 1, ts := true, tperiod := 4, tbudget := 1, slice := a }) ++
      [⟨1, 7, 1, 1, true, false, false, 0, 0, 4, 1, 0, 0, 0, 0, 0, 0, b, [], 0, none, []⟩] }

theorem witness_Slices :
    (∃ p, (shared .on .off id).part? 0 = some p ∧ p.ts = true ∧ p.slice = .on ∧ ∃ t ∈ (shared .on .off id).teams,
      (shared .on .off id).isBelow 0 ((shared .on .off id).teamPart t) = true ∧ t.saved = false ∧ t.ending = .no) ∧
    (∃ p, (shared .on .off fun t => { t with saved := true }).part? 0 = some p ∧ p.ts = true ∧ p.slice = .on ∧
      (∀ t ∈ (shared .on .off fun t => { t with saved := true }).teams, t.saved = true) ∧
      ∃ q ∈ (shared .on .off fun t => { t with saved := true }).parts, siblings p q = true ∧ p.id < q.id) ∧
    (∃ p, (shared .leaving .off fun t => { t with rb := true }).part? 0 = some p ∧ p.slice = .leaving ∧
      ∃ t ∈ (shared .leaving .off fun t => { t with rb := true }).teams, (shared .leaving .off fun t => { t with rb := true }).isBelow 0
        ((shared .leaving .off fun t => { t with rb := true }).teamPart t) = true ∧ t.saved = false ∧ t.rb = true) ∧
    (∃ p, (shared .leaving .off fun t => { t with drain := [⟨0, .st 64 [1]⟩] }).part? 0 = some p ∧ p.slice = .leaving ∧
      ∃ t ∈ (shared .leaving .off fun t => { t with drain := [⟨0, .st 64 [1]⟩] }).teams, (shared .leaving .off fun t => { t with drain := [⟨0, .st 64 [1]⟩] }).isBelow 0
        ((shared .leaving .off fun t => { t with drain := [⟨0, .st 64 [1]⟩] }).teamPart t) = true ∧ t.saved = false ∧ t.drain ≠ []) ∧
    (∃ p, (shared .leaving .off fun t => { t with rstOut := [(0, ⟨5, [], 2, 1, 4, 1⟩)] }).part? 0 = some p ∧ p.slice = .leaving ∧
      ∃ t ∈ (shared .leaving .off fun t => { t with rstOut := [(0, ⟨5, [], 2, 1, 4, 1⟩)] }).teams,
        (shared .leaving .off fun t => { t with rstOut := [(0, ⟨5, [], 2, 1, 4, 1⟩)] }).isBelow 0
          ((shared .leaving .off fun t => { t with rstOut := [(0, ⟨5, [], 2, 1, 4, 1⟩)] }).teamPart t) = true ∧ t.saved = false ∧ t.rstOut ≠ []) ∧
    (∃ p, (shared .off .off id).part? 0 = some p ∧ p.ts = true ∧ p.slice = .off ∧
      ∀ q ∈ (shared .off .off id).parts, siblings p q = true → q.slice = .off ∧ p.id ≤ q.id) ∧
    (∃ p, (shared .off .off id).part? 1 = some p ∧ ∃ q ∈ (shared .off .off id).parts, siblings p q = true ∧ q.id < p.id) ∧
    ∃ p, (shared .leaving .off id).part? 0 = some p ∧ p.slice ≠ .off :=
  ⟨got (by decide), got (by decide), got (by decide), got (by decide), got (by decide), got (by decide), got (by decide), got (by decide)⟩

theorem witness_Throttle : ∃ p, (shared .on .off id).part? 1 = some p ∧ p.step = 0 := got (by decide)

/-- A cooperative launch. -/
def together : State :=
  let s := demo 2 id id
  { s with launches := s.launches.map fun l => { l with md := l.md.map fun m => { m with coop := true } } }

theorem witness_RollsBack :
    (∃ t, (demo 2 id id).team? 1 = some t ∧ t.saved = false ∧ t.ending = .no ∧ t.rb = false ∧ t.lost = false ∧
      held ((demo 2 id id).launch? t.launch) (fun l => l.coop = false) = true) ∧
    (∃ t, together.team? 1 = some t ∧ t.saved = false ∧ t.ending = .no ∧ held (together.launch? t.launch) (fun l => l.coop = true) = true) ∧
    (∃ t, (demo 2 id fun t => { t with rb := true }).team? 1 = some t ∧ t.rb = true ∧ t.ending = .no ∧ t.undoAfter = false ∧ t.lost = false ∧
      (demo 2 id fun t => { t with rb := true }).mayRollback t = true ∧ (demo 2 id fun t => { t with rb := true }).gaths = [] ∧
      (demo 2 id fun t => { t with rb := true }).colls = [] ∧ (demo 2 id fun t => { t with rb := true }).rses = [] ∧ storeWf t.live.scr = true) ∧
    (∃ t, (demo 2 id fun t => { t with leave := true, drain := [⟨0, .st 64 [1]⟩] }).team? 1 = some t ∧ t.leave = true ∧ t.rb = false ∧ t.drain ≠ []) ∧
    (∃ t, (demo 2 id fun t => { t with leave := true, rstOut := [(0, ⟨5, [], 2, 1, 4, 1⟩)] }).team? 1 = some t ∧ t.leave = true ∧ t.rb = false ∧
      t.rstOut ≠ []) ∧
    ∃ t, (demo 2 id fun t => { t with leave := true }).team? 1 = some t ∧ t.leave = true ∧ t.rb = false ∧ t.drain = [] ∧ t.rstOut = [] ∧ t.binds = [] ∧
      ((demo 2 id fun t => { t with leave := true }).core? t.core).isSome = true :=
  ⟨got (by decide), got (by decide), got (by decide), got (by decide), got (by decide), got (by decide)⟩

/-! ### Escorts that come back -/

/-- The launch is durable. -/
def lasting (f : Team → Team) : State :=
  let s := demo 2 id f
  { s with launches := s.launches.map fun l => { l with md := l.md.map fun m => { m with dur := true } } }

/-- An escorted load of lane 0 into v3, which carries v40, and what its flight found. -/
def escort (vals : List (Nat × List Byte)) (bad : Option EscFault) (f : Bool) : Escort :=
  ⟨3, 9, 0, [(0, 64)], [], [(72, 0, 5)], [72], [35], 1, 4, 4, .default, none, 0, 16, (1, 2), [], vals, 0, none, false, bad, f⟩

/-- The VECTOR group has it. -/
def escorted (e : Escort) (p : List Pending) (g : Group) : Group := if g.role = .vector then { g with escs := [e], pend := p, escu := 16 } else g

/-- It lands while nothing is ahead of it, with or without a fault, with poison in a phase that is open or committed, or behind an older load. -/
abbrev landsAt (e : Escort) (s : State) (P : Team → Prop) : Prop := ∃ t g k, s.team? 1 = some t ∧ t.live.groups[2]? = some g ∧
  g.escs.find? (fun x => x.op == 9 && !x.faulted) = some e ∧ s.awaitsHost 9 = false ∧ e.atom = none ∧ s.core? t.core = some k ∧ P t

theorem lands {e : Escort} {s : State} {P : Team → Prop} [DecidablePred P]
    (h : held (s.team? 1) (fun t => held t.live.groups[2]? (fun g => g.escs.find? (fun x => x.op == 9 && !x.faulted) = some e ∧ s.awaitsHost 9 = false ∧ e.atom = none ∧
      (s.core? t.core).isSome = true ∧ P t) = true) = true) : landsAt e s P := by
  obtain ⟨t, a, h⟩ := got h
  obtain ⟨g, b, c, d, f, k, p⟩ := got h
  exact ⟨t, g, _, a, b, c, d, f, (Option.some_get k).symm, p⟩

def landed : Escort := escort [(0, [1, 0, 0, 0])] none false
def poisonous : Escort := { landed with mchk := true }
def olderLoad : Op := ⟨8, .ld, 0, false, .load ⟨[40], [⟨0, 64, false⟩], [], 4, 4, false, .default, 0, none, false⟩⟩
def seeking : Escort := { landed with pas := [⟨0, 64, false⟩], vals := [] }

theorem witness_EscortLands :
    (let e := landed;
      (∀ x ∈ e.carried, 32 ≤ x.1 ∧ x.2.1 < 32 ∧ x.1 ∉ e.dst) ∧ (e.carried.map fun x => (x.1, x.2.1)).Nodup ∧ (∀ b ∈ e.dst, 32 ≤ b) ∧
        1 ≤ e.elem ∧ (e.vals.map Prod.fst ++ e.pas.map (·.lane)).Nodup ∧ (∀ x ∈ e.vals.map Prod.fst ++ e.pas.map (·.lane), x < 32) ∧ e.dst.Nodup) ∧
    (let e := seeking; 1 ≤ e.elem ∧ (e.vals.map Prod.fst ++ e.pas.map (·.lane)).Nodup ∧ (∀ x ∈ e.vals.map Prod.fst ++ e.pas.map (·.lane), x < 32) ∧
      ∀ l ∈ e.pas, (demo 2 id id).poisoned l.addr e.nb = false) ∧
    landsAt seeking (demo 2 (escorted seeking []) id) (fun t => t.escBehind 2 seeking = false) ∧
    (landsAt poisonous (lasting fun t => { t with phasen := 1, live := { t.live with groups := t.live.groups.map (escorted poisonous []) } })
      (fun t => t.escBehind 2 poisonous = false ∧ poisonous.phase < t.phasen ∧ (lasting id).durable t.launch = true)) ∧
    landsAt landed (demo 2 (escorted landed []) id) (fun t => t.escBehind 2 landed = false) ∧
    landsAt seeking (demo 2 (fun g => { escorted seeking [] g with ops := [olderLoad, ⟨9, .es, 0, false, .esc 9⟩] }) id) (fun t => t.escBehind 2 seeking = true) ∧
    landsAt poisonous (demo 2 (escorted poisonous []) id) (fun t => t.escBehind 2 poisonous = false ∧ t.phasen ≤ poisonous.phase) ∧
    landsAt poisonous (demo 2 (escorted poisonous []) fun t => { t with phasen := 1 }) (fun t => t.escBehind 2 poisonous = false ∧ poisonous.phase < t.phasen) ∧
    landsAt (escort [] (some ⟨4, 1, 64⟩) false) (demo 2 (escorted (escort [] (some ⟨4, 1, 64⟩) false) []) id)
      (fun t => t.escBehind 2 (escort [] (some ⟨4, 1, 64⟩) false) = false) ∧
    ∀ g ∈ (demo 2 id id).teams.flatMap (·.live.groups), g.escs = [] :=
  ⟨by decide, by decide, lands (by decide), lands (by decide), lands (by decide), lands (by decide), lands (by decide), lands (by decide), lands (by decide), by decide⟩

/-- An ATOME of two lanes on one word; while a publish is outstanding, and at its landing. -/
def atomic : Escort := { landed with vals := [], pas := [⟨0, 64, false⟩, ⟨5, 64, false⟩], operand := [(0, 5), (5, 7)], atom := some (false, .add) }

theorem witness_AtomeLands :
    (∃ t g, (demo 2 (escorted atomic []) publishing).team? 1 = some t ∧ t.live.groups[2]? = some g ∧ g.escs.find? (fun x => x.op == 9 && !x.faulted) = some atomic ∧
      t.pub.isSome = true) ∧
    (∃ t g, (demo 2 (escorted atomic []) id).team? 1 = some t ∧ t.live.groups[2]? = some g ∧ g.escs.find? (fun x => x.op == 9 && !x.faulted) = some atomic ∧
      t.pub = none ∧ t.escBehind 2 atomic = false ∧ t.hostBehind (demo 2 (escorted atomic []) id) atomic = false ∧
      (demo 2 (escorted atomic []) id).awaitsHost 9 = false) ∧
    atomic.bad = none ∧ atomic.mchk = false ∧ atomic.nb = atomBytes false ∧ (atomic.pas.map (·.lane)).Nodup ∧ atomic.dst.Nodup ∧
    atomic.dst.length = atomRegs false ∧ ∀ l ∈ atomic.pas, (demo 2 id id).poisoned l.addr 4 = false ∧ l.addr % 4 = 0 ∧ l.lane < 32 :=
  ⟨⟨_, _, rfl, rfl, by decide, rfl⟩, ⟨_, _, rfl, rfl, by decide, rfl, by decide, by decide, by decide⟩, by decide⟩

theorem witness_EscfaultTrap :
    (∃ c, (demo 2 (escorted (escort [] (some ⟨4, 1, 64⟩) true) [.esc 3 3 1]) id).cur.bind (demo 2 (escorted (escort [] (some ⟨4, 1, 64⟩) true) [.esc 3 3 1]) id).ctx = some c ∧
      c.pending = some (.esc 3 3 1) ∧ c.g.escs.find? (fun x => x.faulted && x.handle == 3) = some (escort [] (some ⟨4, 1, 64⟩) true)) ∧
    ∃ c, (demo 2 (escorted (escort [] (some ⟨5, 1, 64⟩) true) [.esc 3 3 1]) id).cur.bind (demo 2 (escorted (escort [] (some ⟨5, 1, 64⟩) true) [.esc 3 3 1]) id).ctx = some c ∧
      c.pending = some (.esc 3 3 1) ∧ c.g.escs.find? (fun x => x.faulted && x.handle == 3) = some (escort [] (some ⟨5, 1, 64⟩) true) :=
  ⟨got (by decide), got (by decide)⟩

theorem witness_RemoteTrap : ∃ c, (demo 2 (fun g => { g with pend := [.remote 3 0 6 5 64 1 1] }) id).cur.bind (demo 2 (fun g => { g with pend := [.remote 3 0 6 5 64 1 1] }) id).ctx = some c ∧
    c.pending = some (.remote 3 0 6 5 64 1 1) := got (by decide)

/-! ### The engines at work -/

/-- The ring of team 1 holds one entry. -/
def ringed : State := demo 2 id fun t => { t with live := { t.live with scr := writeBytes t.live.scr 24 [1] } }

/-- A ring with an entry, and one without. -/
theorem witness_CopyTakes : (∃ t, (ringed.core? 0).bind ringed.ringTurn = some t ∧ ringed.team? t.id = some t) ∧
    (((demo 2 id id).core? 0).bind (demo 2 id id).ringTurn).isNone = true := ⟨got (by decide), by decide⟩

/-- A launch whose Undo Log has no reserve. -/
def noReserve (s : State) : State := { s with launches := s.launches.map fun l => { l with md := l.md.map fun m => { m with und := 0 } } }

/-- A copy of 16 bytes from address 64 to the scratchpad, taken by the engine. -/
def copyCmd (code : Nat) : CopyCmd :=
  { id := 9, team := 1, gen := 0, core := 0, phase := 0, group := 0, op := 9, seq := 7, src := 64, dst := 0x2000, len := 16, ctl := 0xFFFFF, rows := 0, stride := 0,
    code := code, ver := (demo 2 id id).ver, cap := none, torn := [] }

def copying (c : CopyCmd) : State := { demo 2 id id with copies := [c] }

/-- A copy of 128 bytes to v479 of group 2, the last register, and one of 16 bytes to global memory. -/
def copyReg : CopyCmd := { copyCmd 0 with dst := BitVec.ofNat 64 (2 ^ 62 + 2 * 2 ^ 57 + 479), len := 128 }
def copyGlobal : CopyCmd := { copyCmd 0 with dst := BitVec.ofNat 64 (2 ^ 63 + 0x3000) }

/-- What every landing asks. -/
abbrev landable (c : CopyCmd) (s : State) : Prop := s.copies.find? (fun c => c.id == 9) = some c ∧ s.awaitsHost 9 = false ∧ c.torn = [] ∧ histOk s

/-- Nothing goes wrong with a copy. -/
abbrev clean (c : CopyCmd) (s : State) (t : Team) : Prop := c.code = 0 ∧ c.ver = s.ver ∧ c.entry.total ≤ 2 ^ 24 ∧
  (c.entry.ranges.flatMap fun p => s.srcFaults (rootOf s t) false p.1 p.2 0) = [] ∧ c.entry.dec = false

/-- Into the scratchpad, with success and with a code; while the host is waited for; without room in the Undo Log, with a publish under way and
without, and without room in the Phase Buffer; into registers; and into global memory, while the phase is open and after it. -/
theorem witness_CopyEnds :
    (∃ t, (copying (copyCmd 0)).team? 1 = some t ∧ landable (copyCmd 0) (copying (copyCmd 0)) ∧ (t.tearAtoms 0x2000 24 (copying (copyCmd 0))).1 = [] ∧
      (copyCmd 0).entry.kind = 0 ∧ (copyCmd 0).entry.off = 0x2000 ∧ (copyCmd 0).entry.total = 16 ∧ 0x2018 ≤ (copying (copyCmd 0)).scrSizeOf t ∧
      (copying (copyCmd 0)).undoFits t 0 ((copying (copyCmd 0)).entryKeys t 0 (copyCmd 0).entry) = true ∧ clean (copyCmd 0) (copying (copyCmd 0)) t) ∧
    (∃ t, (copying (copyCmd 4)).team? 1 = some t ∧ landable (copyCmd 4) (copying (copyCmd 4)) ∧ (t.tearAtoms 0x2000 24 (copying (copyCmd 4))).1 = [] ∧
      (copying (copyCmd 4)).undoFits t 0 ((copying (copyCmd 4)).entryKeys t 4 (copyCmd 4).entry) = true ∧ (copyCmd 4).code ≠ 0 ∧ (copyCmd 4).code ≠ 9) ∧
    (({ copying (copyCmd 0) with hostWait := [(9, 1)] } : State).awaitsHost 9 = true) ∧
    (∃ t, (noReserve (copying (copyCmd 0))).team? 1 = some t ∧ landable (copyCmd 0) (noReserve (copying (copyCmd 0))) ∧ t.pub = none ∧
      (noReserve (copying (copyCmd 0))).undoFits t 0 ((noReserve (copying (copyCmd 0))).entryKeys t 0 (copyCmd 0).entry) = false) ∧
    (∃ t, (noReserve { demo 2 id publishing with copies := [copyCmd 0] }).team? 1 = some t ∧ t.pub.isSome = true ∧
      (noReserve { demo 2 id publishing with copies := [copyCmd 0] }).undoFits t 0
        ((noReserve { demo 2 id publishing with copies := [copyCmd 0] }).entryKeys t 0 (copyCmd 0).entry) = false) ∧
    (∃ t, (demo 2 id fun t => { t with pb := (List.range 192).map fun k => .st (64 * k) [1] }).team? 1 = some t ∧ copyGlobal.entry.kind = 2 ∧
      t.noRoom 0 copyGlobal.entry.off 24 = true) ∧
    (∃ t g, (copying copyReg).team? 1 = some t ∧ landable copyReg (copying copyReg) ∧ clean copyReg (copying copyReg) t ∧ copyReg.entry.kind = 1 ∧
      copyReg.entry.target = 2 ∧ copyReg.entry.off = 479 ∧ t.live.groups[2]? = some g ∧ copyReg.entry.total % 128 = 0 ∧
      (copying copyReg).undoFits t 0 ((copying copyReg).entryKeys t 0 copyReg.entry) = true) ∧
    (∃ t, (copying copyGlobal).team? 1 = some t ∧ landable copyGlobal (copying copyGlobal) ∧ clean copyGlobal (copying copyGlobal) t ∧ copyGlobal.entry.kind = 2 ∧
      copyGlobal.entry.enc = false ∧ t.noRoom 0 copyGlobal.entry.off 24 = false ∧ (copying copyGlobal).dstFaults (rootOf (copying copyGlobal) t) false 0x3000 16 = [] ∧
      (copying copyGlobal).dstFaults (rootOf (copying copyGlobal) t) false 0x3010 8 = [] ∧ t.handed 0 = false ∧
      (copying copyGlobal).undoFits t 0 ((copying copyGlobal).entryKeys t 0 copyGlobal.entry) = true) ∧
    ∃ t, (demo 2 id fun t => { t with phasen := 1 }).team? 1 = some t ∧ t.handed 0 = true := by
  refine ⟨got (by decide), got (by decide), by decide, got (by decide), got (by decide), got (by decide +kernel), ⟨_, _, rfl, ?_, ?_, ?_, ?_, ?_, rfl, ?_, ?_⟩, got (by decide), got (by decide)⟩ <;> decide

/-- A gather whose last row of two is left; `n` bytes a row. -/
def gathCmd (n : Nat) : GathCmd :=
  { id := 9, team := 1, gen := 0, phase := 0, group := 0, op := 9, src := 64, idx := [3, 5], count := 2, rowb := n, stride := 16, dst := 0x2000, ctl := 0xFFFFF, left := [1],
    credited := 16, ver := (demo 2 id id).ver, cap := none, torn := [] }

/-- A gather of no rows. -/
def noRows : GathCmd := { gathCmd 16 with idx := [], count := 0, left := [], credited := 0 }

def gathering (n : Nat) : State := { demo 2 id id with gaths := [gathCmd n] }

/-- The last row; a malformed descriptor; no rows; and no room in the Undo Log. -/
theorem witness_GatherEnds :
    (∃ t, (gathering 16).team? 1 = some t ∧ (gathering 16).gaths.find? (fun c => c.id == 9) = some (gathCmd 16) ∧ (gathering 16).awaitsHost 9 = false ∧
      histOk (gathering 16) ∧ (gathCmd 16).torn = [] ∧ (t.tearAtoms 0x2020 8 (gathering 16)).1 = [] ∧ (t.tearAtoms 0x2010 16 (gathering 16)).1 = [] ∧
      (gathCmd 16).bad = false ∧ Nat.testBit 2 1 = true ∧ (gathering 16).srcFaults (rootOf (gathering 16) t) false (64 + 5 * 16) 16 0 = [] ∧
      (gathering 16).undoFits t 0 ((gathering 16).gathKeys t (gathCmd 16) [1]) = true) ∧
    (∃ t, (gathering 15).team? 1 = some t ∧ (gathering 15).gaths.find? (fun c => c.id == 9) = some (gathCmd 15) ∧ (gathering 15).awaitsHost 9 = false ∧
      histOk (gathering 15) ∧ (t.tearAtoms 0x2020 8 (gathering 15)).1 = [] ∧ (gathCmd 15).bad = true ∧
      (gathering 15).undoFits t 0 ((gathering 15).gathKeys t (gathCmd 15) []) = true) ∧
    (∃ t, ({ demo 2 id id with gaths := [noRows] } : State).team? 1 = some t ∧ ({ demo 2 id id with gaths := [noRows] } : State).awaitsHost 9 = false ∧
      histOk { demo 2 id id with gaths := [noRows] } ∧ (t.tearAtoms 0x2000 8 { demo 2 id id with gaths := [noRows] }).1 = [] ∧ noRows.bad = false ∧ noRows.left = [] ∧
      noRows.count = 0 ∧ (demo 2 id id).undoFits t 0 ((demo 2 id id).gathKeys t noRows []) = true) ∧
    ∃ t, (noReserve (gathering 16)).team? 1 = some t ∧ (noReserve (gathering 16)).gaths.find? (fun c => c.id == 9) = some (gathCmd 16) ∧
      (noReserve (gathering 16)).awaitsHost 9 = false ∧ histOk (noReserve (gathering 16)) ∧
      (noReserve (gathering 16)).undoFits t 0 ((noReserve (gathering 16)).gathKeys t (gathCmd 16) [1]) = false :=
  ⟨got (by decide), got (by decide), got (by decide), got (by decide)⟩

/-- A collective of four S32 sums; device group 1 is this device, group 2 device 5, and group 3 both. -/
def collCmd (ctl : Word) (served : Bool) (code : Nat) : CollCmd :=
  { id := 9, team := 1, gen := 0, phase := 0, group := 0, op := 9, launch := 0, ctl := ctl, count := 4, src := 64, dst := 128, bar := 0xFFFFF, stat := 0x2000, served := served,
    inst := 0, rank := 0, members := if served then 1 else 0, code := code, landed := false, ver := (demo 2 id id).ver, cap := none }

def collecting (c : CollCmd) : State :=
  let s := demo 2 id id
  { s with
    colls := [c]
    mem := writeBytes s.mem 16 (leBytes 4 1 ++ leBytes 4 0 ++ leBytes 8 0x300 ++ leBytes 4 1 ++ leBytes 4 0 ++ leBytes 8 0x302 ++ leBytes 4 2 ++ leBytes 4 0 ++ leBytes 8 0x300) |> (writeBytes · 0x302 [5]) }

/-- A collective of group 3; a function with a key and a route to device 5, or neither. -/
def pair (count : Nat) : CollCmd := { collCmd 0x03400000 false 0 with count := count }
def linked (s : State) : State := { s with funcs := s.funcs.map fun f => { f with xwkey := 7 }, routes := [(5, 0x9002)] }

/-- What the other clauses ask of a command of group 3. -/
abbrev paired (c : CollCmd) (s : State) : Prop := held (s.team? 1) (fun t => s.collBad t c = false ∧ (s.groupOf t c.ctl.toNat).idxOf? s.devId = some 0 ∧
  (s.groupOf t c.ctl.toNat).length = 2) = true ∧ s.colls.find? (fun c => !c.served) = some c ∧ s.poisoned (16 + 48) 16 = false ∧ s.poisoned 0x300 4 = false

/-- Malformed; no member; poisoned; a group of one; and of two: nothing to move, no key, no route, and an exchange. -/
theorem witness_CollectiveServed :
    (∃ t, (collecting (collCmd 0x01400001 false 0)).team? 1 = some t ∧ (collecting (collCmd 0x01400001 false 0)).collBad t (collCmd 0x01400001 false 0) = true) ∧
    (∃ t, (collecting (collCmd 0x02400000 false 0)).team? 1 = some t ∧ (collecting (collCmd 0x02400000 false 0)).collBad t (collCmd 0x02400000 false 0) = false ∧
      (collecting (collCmd 0x02400000 false 0)).devId ∉ (collecting (collCmd 0x02400000 false 0)).groupOf t 0x02400000) ∧
    (∃ t, (collecting (collCmd 0x01400000 false 0)).team? 1 = some t ∧ (collecting (collCmd 0x01400000 false 0)).collBad t (collCmd 0x01400000 false 0) = false ∧
      ((collecting (collCmd 0x01400000 false 0)).groupOf t 0x01400000).idxOf? (collecting (collCmd 0x01400000 false 0)).devId = some 0) ∧
    (({ collecting (collCmd 0x01400000 false 0) with poison := [0] } : State).poisoned 16 16 = true ∧
      ({ collecting (collCmd 0x01400000 false 0) with poison := [12] } : State).poisoned 0x300 2 = true) ∧
    (collecting (collCmd 0x01400000 false 0)).colls.find? (fun c => !c.served) = some (collCmd 0x01400000 false 0) ∧
    ((collecting (collCmd 0x01400000 false 0)).launch? 0).isSome = true ∧
    paired (pair 0) (collecting (pair 0)) ∧ (paired (pair 4) (collecting (pair 4)) ∧ held ((collecting (pair 4)).func? 0) (fun f => f.xwkey = 0) = true) ∧
    (paired (pair 4) { linked (collecting (pair 4)) with routes := [] } ∧ ({ linked (collecting (pair 4)) with routes := [] } : State).reachable 5 = false) ∧
    (paired (pair 4) (linked (collecting (pair 4))) ∧ (linked (collecting (pair 4))).reachable 5 = true ∧
      held ((linked (collecting (pair 4))).func? 0) (fun f => f.xwkey ≠ 0) = true) :=
  ⟨got (by decide), got (by decide), got (by decide), by decide, by decide, by decide, by decide, by decide, by decide, by decide⟩

/-- The pull of a collective's command from device 5, in its second sending. -/
def collPull : RemReq :=
  { id := 3, msg := { kind := .pull, src := 0, dst := 5, key := 7, team := 1, tag := false, req := 3, seq := 1, alt := 0, hop := 1, op := .add, len := 16, lanes := [] },
    team := 1, gen := 0, group := 0, op := 9, slices := 0, phase := 0, resends := 1, held := false }

/-- One that is not served; one with a code; one that has landed; one without room in the Undo Log; one that waits for the host; COUNT 0; a reply to the
first sending of a pull, and no reply; and a group of one, of S32, and of a float type. -/
theorem witness_CollectiveEnds :
    ((collecting (collCmd 0x01400000 false 0)).colls.head? = some (collCmd 0x01400000 false 0) ∧ (collCmd 0x01400000 false 0).served = false) ∧
    (∃ t, (collecting (collCmd 0x01400000 true 0x13)).team? 1 = some t ∧ (collecting (collCmd 0x01400000 true 0x13)).colls.head? = some (collCmd 0x01400000 true 0x13) ∧
      (t.tearAtoms 0x2000 8 (collecting (collCmd 0x01400000 true 0x13))).1 = [] ∧
      (collecting (collCmd 0x01400000 true 0x13)).undoFits t 0 ((collecting (collCmd 0x01400000 true 0x13)).lineKeys t 0x2000 8) = true) ∧
    (∃ t, (noReserve (collecting (collCmd 0x01400000 true 0x13))).team? 1 = some t ∧ (collCmd 0x01400000 true 0x13).code ≠ 0 ∧
      (noReserve (collecting (collCmd 0x01400000 true 0x13))).undoFits t 0 ((noReserve (collecting (collCmd 0x01400000 true 0x13))).lineKeys t 0x2000 8) = false) ∧
    (∃ t, (collecting { collCmd 0x01400000 true 0 with landed := true }).team? 1 = some t ∧
      (t.tearAtoms 0x2000 8 (collecting { collCmd 0x01400000 true 0 with landed := true })).1 = [] ∧
      (collecting (collCmd 0x01400000 true 0)).undoFits t 0 ((collecting (collCmd 0x01400000 true 0)).lineKeys t 0x2000 8) = true) ∧
    (({ collecting (collCmd 0x01400000 true 0) with hostWait := [(9, 1)] } : State).awaitsHost 9 = true ∧
      (collecting { collCmd 0x01400000 true 0 with count := 0 }).awaitsHost 9 = false) ∧
    (({ collecting (collCmd 0x03400000 true 0) with rreqs := [collPull] } : State).rreqs.filter (fun r => r.msg.kind == .pull && r.op == 9) = [collPull] ∧
      [(⟨0, List.replicate 16 1⟩ : PullReply)][0]? = some ⟨0, List.replicate 16 1⟩ ∧ 0 ≠ collPull.msg.seq ∧ ([] : List PullReply).length ≠ [collPull].length) ∧
    (collType 0x01400000 = some .s32 ∧ collType 0x01A00000 = some .f16 ∧ collFloat .f16 = true ∧ collKind 0x01A00000 ≠ 1) ∧
    ∃ t, (collecting (collCmd 0x01400000 true 0)).team? 1 = some t ∧
      (collecting (collCmd 0x01400000 true 0)).colls.head? = some (collCmd 0x01400000 true 0) ∧ (collCmd 0x01400000 true 0).ver = (collecting (collCmd 0x01400000 true 0)).ver ∧
      (collecting (collCmd 0x01400000 true 0)).collBad t (collCmd 0x01400000 true 0) = false ∧ (collecting (collCmd 0x01400000 true 0)).awaitsHost 9 = false ∧
      histOk (collecting (collCmd 0x01400000 true 0)) ∧ (collecting (collCmd 0x01400000 true 0)).rreqs = [] ∧
      (collecting (collCmd 0x01400000 true 0)).translate (rootOf (collecting (collCmd 0x01400000 true 0)) t) 64 = some (⟨0, false, false, false⟩, 64) ∧
      (collecting (collCmd 0x01400000 true 0)).translate (rootOf (collecting (collCmd 0x01400000 true 0)) t) 128 = some (⟨0, false, false, false⟩, 128) ∧
      64 % 65536 + 4 * collElem 0x01400000 ≤ 65536 ∧ 128 % 65536 + 4 * collElem 0x01400000 ≤ 65536 ∧
      (collecting (collCmd 0x01400000 true 0)).srcFaults (rootOf (collecting (collCmd 0x01400000 true 0)) t) false 64 (4 * collElem 0x01400000) 0 = [] ∧
      (collecting (collCmd 0x01400000 true 0)).dstFaults (rootOf (collecting (collCmd 0x01400000 true 0)) t) false 128 (4 * collElem 0x01400000) = [] ∧
      rangeMeets 64 (4 * collElem 0x01400000) 128 (4 * collElem 0x01400000) = false ∧ ∀ u ∈ (collecting (collCmd 0x01400000 true 0)).teams, u.binds = [] :=
  ⟨by decide, got (by decide), got (by decide), got (by decide), by decide, by decide, by decide, got (by decide)⟩

/-- A layout record of 16 words over one device. -/
def layoutBytes (tab : Nat) : List Byte :=
  leBytes 4 0x3154594C ++ leBytes 2 1 ++ [1, 4] ++ leBytes 4 16 ++ leBytes 4 1 ++ leBytes 4 1 ++ leBytes 4 1 ++ [1, 0] ++ leBytes 2 1 ++ leBytes 2 1 ++ leBytes 2 1 ++
    leBytes 4 0xFFFFFFFF ++ leBytes 4 0 ++ leBytes 8 tab ++ leBytes 8 0 ++ leBytes 8 0

def rseCmd (run : Bool) (ps : List Piece) (fl : List (Nat × Nat)) (stop : Option (Nat × Nat)) : RseCmd :=
  { id := 9, team := 1, gen := 0, phase := 0, group := 0, op := 9, src := 0x10000, dst := 0x10040, prog := 0x10100, progPa := 0x10100, bar := 0xFFFFF, ver := 0, running := run, elem := 8,
    dlo := [0], dhi := [514], sbase := 0, dbase := 0, pieces := ps, flight := fl, credited := 0, stop := stop }

/-- The source is on device 5 or, where the table holds no record of this device as destination, nowhere. -/
def resharding (dst : Byte) (c : RseCmd) : State :=
  let s := fn fun f => { f with xwbase := 0x20000, xwsize := 0x10000, xwkey := 7 }
  { s with
    rses := [c]
    mem := writeBytes (writeBytes (writeBytes s.mem 0x10000 (layoutBytes 0x10080)) 0x10040 (layoutBytes 0x10088)) 0x10080 [5, 0, 0, 0, 0, 0, 0, 0, dst] }

/-- The engine's plan, with the record to be written anew. -/
def planned (s : State) (c : RseCmd) : Bool :=
  match s.rsePlan c with
  | .error _ => false
  | .ok (_, _, _, ps, plan) => okAt (s.examine c ps plan) none && (ps.any fun p => decide (p.done < p.total)) && decide (c.prog % 65536 + 16 + 8 * ps.length ≤ 65536)

theorem planned_ok {s : State} {c : RseCmd} (h : planned s c = true) : ∃ x y i ps plan, s.rsePlan c = .ok (x, y, i, ps, plan) ∧ s.examine c ps plan = .ok none ∧
    (∃ p ∈ ps, p.done < p.total) ∧ c.prog % 65536 + 16 + 8 * ps.length ≤ 65536 := by
  unfold planned at h
  split at h
  · cases h
  · rename_i x y i ps plan e
    simp only [Bool.and_eq_true, decide_eq_true_eq, List.any_eq_true, ← okAt_iff] at h
    exact ⟨x, y, i, ps, plan, e, h.1.1, h.1.2, h.2⟩

/-- The engine has a plan, and cannot read the progress record. -/
def refused (s : State) (c : RseCmd) (k : Nat) : Bool :=
  match s.rsePlan c with
  | .error _ => false
  | .ok (_, _, _, ps, plan) => errAt (s.examine c ps plan) k

theorem plan_refused {s : State} {c : RseCmd} {k : Nat} (h : refused s c k = true) :
    ∃ x y i ps plan, s.rsePlan c = .ok (x, y, i, ps, plan) ∧ s.examine c ps plan = .error k := by
  unfold refused at h
  split at h
  · cases h
  · rename_i x y i ps plan e
    exact ⟨x, y, i, ps, plan, e, (errAt_iff _ _).mpr h⟩

/-- A status of the plan, a plan that runs, and a record on a poisoned line. -/
theorem witness_ReshardStarts :
    (∃ t, (resharding 3 (rseCmd false [] [] none)).team? 1 = some t ∧ (resharding 3 (rseCmd false [] [] none)).rseReady (rseCmd false [] [] none) = true ∧
      (resharding 3 (rseCmd false [] [] none)).translate (rootOf (resharding 3 (rseCmd false [] [] none)) t) 0x10100 = some (⟨0, false, false, false⟩, 0x10100) ∧
      errAt ((resharding 3 (rseCmd false [] [] none)).rsePlan (rseCmd false [] [] none)) 0x11 = true ∧ 0x10100 % 65536 + 8 ≤ 65536) ∧
    ((resharding 0 (rseCmd false [] [] none)).rses.find? (fun c => c.id == 9) = some (rseCmd false [] [] none) ∧
      (resharding 0 (rseCmd false [] [] none)).rseReady (rseCmd false [] [] none) = true ∧
      ∃ x y i ps plan, (resharding 0 (rseCmd false [] [] none)).rsePlan (rseCmd false [] [] none) = .ok (x, y, i, ps, plan) ∧
        (resharding 0 (rseCmd false [] [] none)).examine (rseCmd false [] [] none) ps plan = .ok none ∧ (∃ p ∈ ps, p.done < p.total) ∧
        (rseCmd false [] [] none).prog % 65536 + 16 + 8 * ps.length ≤ 65536) ∧
    ∃ x y i ps plan, ({ resharding 0 (rseCmd false [] [] none) with poison := [1028] } : State).rsePlan (rseCmd false [] [] none) = .ok (x, y, i, ps, plan) ∧
      ({ resharding 0 (rseCmd false [] [] none) with poison := [1028] } : State).examine (rseCmd false [] [] none) ps plan = .error 0x1C :=
  ⟨got (by decide +kernel), ⟨by decide +kernel, by decide +kernel, planned_ok (by decide +kernel)⟩, plan_refused (by decide +kernel)⟩

/-- Two pieces, one of two chunks (4,096 bytes and 16), the other of one. -/
def long (k : Nat) : Piece := ⟨5, [0], [514], [0], [514], 2, k, []⟩
def short : Piece := ⟨6, [0], [1], [0], [1], 1, 0, []⟩
def chunking (k : Nat) : RseCmd := rseCmd true [long k, short] [(0, 1)] none

def isOk {α : Type} (x : Except Nat α) : Bool :=
  match x with
  | .ok _ => true
  | .error _ => false

theorem is_ok {α : Type} {x : Except Nat α} (h : isOk x = true) : ∃ y, x = .ok y := by
  cases x with
  | ok y => exact ⟨y, rfl⟩
  | error => cases h

/-- The pull of chunk 1 of the first piece, in its second sending. -/
def chunkPull : RemReq :=
  { id := 3, msg := { kind := .pull, src := 0, dst := 5, key := 7, team := 1, tag := false, req := 3, seq := 1, alt := 0, hop := 1, op := .add, len := 16, lanes := [] },
    team := 1, gen := 0, group := 0, op := 9, slices := 1, phase := 0, resends := 1, held := false }

def pulling (k : Nat) : State := { resharding 0 (chunking k) with rreqs := [chunkPull] }

/-- A late reply and one that answers; a chunk that fails; chunk 1 before chunk 0 is done, and after. -/
theorem witness_ReshardChunks :
    (∃ f, (pulling 0).rseFunc (chunking 0) = some f ∧ (chunking 0).flight.contains (0, 1) = true ∧ (long 0).dev ≠ (pulling 0).devId ∧
      0x13 ∈ [0x13, 0x14, 0x15, 0x1C] ∧ (1 ≤ 6 ∧ 6 ≤ 6)) ∧
    (∀ r ∈ (pulling 0).rreqs, r.msg.seq ≠ 0) ∧
    (∃ r ∈ (pulling 0).rreqs, (r.msg.kind = .pull ∧ r.op = 9 ∧ r.group = 0 ∧ r.slices = 1) ∧ r.msg.seq = 1) ∧
    ((List.replicate 16 (7 : Byte)).length = (long 0).chunk 8 1 ∧ 1 ≠ (long 0).done ∧ (long 0).ahead.contains (long 0).done = false ∧
      (chunking 0).pieces[1]? = some short ∧ short.done < short.total) ∧
    (∃ ws, (pulling 0).shardPieces (chunking 0) (((chunking 0).elems (long 0) 1).map Prod.snd) (List.replicate 16 7) = .ok ws) ∧
    1 = (long 1).done ∧ 0 < (long 1).total ∧
    ∃ ws f, (pulling 1).shardPieces (chunking 1) (((chunking 1).elems (long 1) 1).map Prod.snd) (List.replicate 16 7) = .ok ws ∧
      (pulling 1).rseFunc (chunking 1) = some f ∧
      ((pulling 1).physWrite f.vf ws).translate f.root ((chunking 1).prog + 16) = some (⟨0, false, false, false⟩, 0x10110) := by
  refine ⟨got (by decide), by decide, by decide, by decide, is_ok (by decide +kernel), by decide, by decide, ?_⟩
  obtain ⟨ws, h⟩ := is_ok (x := (pulling 1).shardPieces (chunking 1) (((chunking 1).elems (long 1) 1).map Prod.snd) (List.replicate 16 7)) (by decide +kernel)
  refine ⟨ws, _, h, rfl, ?_⟩
  have k : okAt ((pulling 1).shardPieces (chunking 1) (((chunking 1).elems (long 1) 1).map Prod.snd) (List.replicate 16 7))
    [(0x21000, List.replicate 8 7), (0x21008, List.replicate 8 7)] = true := by decide +kernel
  rw [← okAt_iff, h] at k
  cases k
  decide +kernel

theorem witness_ReshardPrefix : (⟨5, [0], [514], [0], [514], 4, 0, [2, 0, 1]⟩ : Piece).ahead.length ≤ 3 := by decide

theorem witness_ReshardStops :
    (∃ t, (resharding 0 (rseCmd true [] [(0, 1)] (some (0x13, 5)))).team? 1 = some t ∧
      (resharding 0 (rseCmd true [] [(0, 1)] (some (0x13, 5)))).rses.find? (fun c => c.id == 9) = some (rseCmd true [] [(0, 1)] (some (0x13, 5)))) ∧
    (∃ t, (resharding 0 (rseCmd true [] [] (some (0x13, 5)))).team? 1 = some t ∧
      (resharding 0 (rseCmd true [] [] (some (0x13, 5)))).rses.find? (fun c => c.id == 9) = some (rseCmd true [] [] (some (0x13, 5))) ∧
      ∀ u ∈ (resharding 0 (rseCmd true [] [] (some (0x13, 5)))).teams, u.binds = []) ∧
    (rseCmd true [] [] (some (0x1A, 0xFFFF))).stop = some (0x1A, 0xFFFF) := ⟨got (by decide), got (by decide), rfl⟩

/-! ### The fabric -/

/-- The function's window is 64 KB at 0x20000 under key 7; device 5 is reached over link 2, by way of alternate 0. -/
def fabric : State :=
  let s := fn fun f => { f with xwbase := 0x20000, xwsize := 0x10000, xwkey := 7 }
  { s with routes := [(5, 0x9002)] }

/-- One lane's request from device 5, for 4 bytes at an offset. -/
def msg (k : MsgKind) (key : Word) (off : Nat) (data : List Byte) : Msg :=
  { kind := k, src := 5, dst := 0, key := key, team := 1, tag := false, req := 3, seq := 8, alt := 0, hop := 1, op := .add, len := 4, lanes := [⟨0, off, data⟩] }

/-- Two functions of one key. -/
def twoKeys : State := { fabric with funcs := fabric.funcs ++ fabric.funcs.map fun f => { f with vf := 9 } }

theorem witness_FabricServes :
    (msg .rld 9 0 []).dst = fabric.devId ∧ (msg .rld 9 0 []).src ≠ fabric.devId ∧ fabric.keyFuncs 9 = [] ∧ (msg .rld 9 0 []).kind ≠ .pull ∧
    (2 ≤ (twoKeys.keyFuncs 7).length) ∧
    (∃ f, fabric.keyFuncs 7 = [f] ∧ fabric.window f false 65533 4 = .error 3) ∧
    (∃ f, fabric.keyFuncs 7 = [f] ∧ fabric.window f true 65532 4 = .ok [(0x2FFFC, 0, 4)] ∧ fabric.window f false 65532 4 = .ok [(0x2FFFC, 0, 4)]) ∧
    fabric.poisoned 0x2FFFC 4 = false ∧ fabric.replay.find? (fun r => r.src == 5 && r.seq == 8) = none ∧
    ({ fabric with replay := [⟨5, 8, [⟨0, 0, [1, 0, 0, 0]⟩], []⟩] } : State).replay.find? (fun r => r.src == 5 && r.seq == 8) = some ⟨5, 8, [⟨0, 0, [1, 0, 0, 0]⟩], []⟩ := by
  refine ⟨rfl, by decide, rfl, by decide, by decide, ⟨_, rfl, ?_⟩, ⟨_, rfl, ?_⟩, by decide, rfl, rfl⟩
  · simp only [errAt_iff]
    decide
  · simp only [okAt_iff]
    decide

/-- A request of team 1's VECTOR group to device 5. -/
def request (k : MsgKind) (n : Nat) (hold : Bool) : RemReq :=
  { id := 3, msg := { msg k 7 64 [] with src := 0, dst := 5 }, team := 1, gen := 0, group := 2, op := 9, slices := 1, phase := 0, resends := n, held := hold }

def asking (q : RemReq) (pub : Team → Team) : State :=
  let s := demo 2 loadingAway pub
  { s with rreqs := [q], routes := [(5, 0x9002)] }

def reply (data : List MsgLane) (fails : List (Nat × Nat)) : Reply := ⟨.rld, 5, 0, 3, 8, 0, 0, [], data, fails⟩

/-- A remote atomic of the group is under way; a remote store, which no operation lands. -/
def adding (g : Group) : Group :=
  { g with ops := [⟨9, .rm, 0, false, .remote ⟨[35], [], [], 4, 4, false, .default, 0, none, false⟩ [3] (some .domain)⟩], sb := [35] }
def storing (g : Group) : Group := { g with ops := [⟨9, .rm, 0, false, .remote ⟨[], [], [], 4, 4, false, .default, 0, none, false⟩ [3] none⟩] }

def asks (q : RemReq) (g : Group → Group) (pub : Team → Team) : State := { demo 2 g pub with rreqs := [q], routes := [(5, 0x9002)] }

def replyTo (k : MsgKind) (data : List MsgLane) (fails : List (Nat × Nat)) : Reply := { reply data fails with kind := k }

/-- A reply that nothing waits for, one to an earlier sending; values, a cause, and poison, in a phase that is open or committed, and under DUR; the
last reply of an atomic, with a publish outstanding and without; the reply to a store, a flag write and a flush, and a flush before its turn. -/
theorem witness_FabricAnswers :
    (∀ q ∈ fabric.rreqs, q.id = 3 → q.msg.seq ≠ 8) ∧
    (∀ q ∈ (asking { request .rld 0 false with msg := { (request .rld 0 false).msg with seq := 9 } } id).rreqs, q.msg.seq ≠ (reply [] []).seq) ∧
    (∀ r ∈ [reply [⟨0, 64, [1, 0, 0, 0]⟩] [], reply [] [(0, 4)], reply [] [(0, 0)]], (asking (request .rld 0 false) id).answered r = some (request .rld 0 false) ∧
      r.dst = (asking (request .rld 0 false) id).devId ∧ r.src ≠ (asking (request .rld 0 false) id).devId) ∧
    (∃ t g o, (asking (request .rld 0 false) id).opOf 1 2 9 = some (t, g, o) ∧ t.gen = 0 ∧ o.kind = .remote ⟨[35], [], [], 4, 4, false, .default, 0, none, false⟩ [3] none ∧
      g.ops = [o] ∧ t.phasen ≤ 0 ∧ (asking (request .rld 0 false) id).early (request .rld 0 false) = false ∧
      (asking (request .rld 0 false) id).lastAtom (request .rld 0 false) = none) ∧
    (∃ t g o, (asking (request .rld 0 false) fun t => { t with phasen := 1 }).opOf 1 2 9 = some (t, g, o) ∧ 0 < t.phasen) ∧
    ((lasting fun t => { t with phasen := 1 }).durable 0 = true) ∧
    (∃ t g o, (asks (request .ratom 0 false) adding id).opOf 1 2 9 = some (t, g, o) ∧ t.gen = 0 ∧ g.ops = [o] ∧ o.fin = false ∧ t.pub = none ∧
      o.kind = .remote ⟨[35], [], [], 4, 4, false, .default, 0, none, false⟩ [3] (some .domain) ∧
      (asks (request .ratom 0 false) adding id).answered (replyTo .ratom [⟨0, 64, [1, 0, 0, 0]⟩] []) = some (request .ratom 0 false)) ∧
    (∃ t g o, (asks (request .ratom 0 false) adding publishing).opOf 1 2 9 = some (t, g, o) ∧ t.pub.isSome = true ∧ o.fin = false) ∧
    (∀ k ∈ [MsgKind.rst, .flag, .flush], (asks (request k 0 false) storing id).answered (replyTo k [] []) = some (request k 0 false) ∧
      (asks (request k 0 false) storing id).early (request k 0 false) = false) ∧
    (∃ t g o, (asks (request .rst 0 false) storing id).opOf 1 2 9 = some (t, g, o) ∧ o.kind = .remote ⟨[], [], [], 4, 4, false, .default, 0, none, false⟩ [3] none) ∧
    ({ demo 2 storing id with rreqs := [{ request .rst 0 false with id := 2 }, request .flush 0 false] } : State).early (request .flush 0 false) = true :=
  ⟨by decide, by decide, by decide, ⟨_, _, _, rfl, rfl, rfl, rfl, by decide, by decide, by decide⟩, ⟨_, _, _, rfl, by decide⟩, by decide,
    ⟨_, _, _, rfl, rfl, rfl, rfl, rfl, rfl, by decide⟩, ⟨_, _, _, rfl, by decide, rfl⟩, by decide, ⟨_, _, _, rfl, rfl⟩, by decide⟩

/-- Sent again; a collective's pull and a re-shard's that fail for good; and a load that does. -/
theorem witness_FabricResends :
    (asking (request .rld 7 false) id).rreqs.find? (fun q => q.id == 3 && !q.held) = some (request .rld 7 false) ∧
    (asking (request .pull 8 false) id).rreqs.find? (fun q => q.id == 3 && !q.held) = some (request .pull 8 false) ∧
    (∃ c, ({ resharding 0 (chunking 0) with rreqs := [{ chunkPull with resends := 8 }] } : State).rses.find? (fun c => c.id == 9) = some c ∧ chunkPull.op = 9) ∧
    (∃ c ∈ ({ collecting (collCmd 0x03400000 true 0) with rreqs := [{ collPull with resends := 8 }] } : State).colls, c.id = collPull.op ∧ c.code = 0) ∧
    ((asking (request .rld 8 false) id).rreqs.find? (fun q => q.id == 3 && !q.held) = some (request .rld 8 false) ∧
      (request .rld 8 false).msg.lanes = ⟨0, 64, []⟩ :: [] ∧ ∃ t g, (asking (request .rld 8 false) id).team? 1 = some t ∧ t.gen = 0 ∧ t.live.groups[2]? = some g) :=
  ⟨by decide, by decide, ⟨_, rfl, rfl⟩, by decide, by decide, by decide, _, _, rfl, rfl, rfl⟩

/-- At home; past its hops; with its alternate, without it, and with no alternate short enough. -/
theorem witness_FabricForwards :
    (msg .rld 7 0 []).dst = fabric.devId ∧ { msg .rld 7 0 [] with dst := 5, src := 6, hop := 3 }.hop = 3 ∧
    (∃ x ∈ alternates (look fabric.routes 5).toNat, x.1 = 0) ∧ ((∀ x ∈ alternates (look fabric.routes 5).toNat, x.1 ≠ 1) ∧
      ∃ x ∈ alternates (look fabric.routes 5).toNat, x.2.1 + 2 + 1 ≤ 4 ∧ ∀ y ∈ alternates (look fabric.routes 5).toNat, y.1 < x.1 → 4 < y.2.1 + 2 + 1) ∧
    ∀ x ∈ alternates 0xC002, 4 < x.2.1 + 2 + 1 := by decide

theorem witness_FlagWrites :
    ((asking (request .flag 0 true) publishing).rreqs.find? (fun r => r.id == 3 && r.held) = some (request .flag 0 true) ∧
      ∃ t p, (asking (request .flag 0 true) publishing).team? 1 = some t ∧ t.pub = some p ∧ p.phase ≤ 0) ∧
    (∃ t, (asking (request .flag 0 true) id).team? 1 = some t ∧ t.pub = none) ∧ (request .flag 0 true).msg.dst ≠ (asking (request .flag 0 true) id).devId ∧
    (asking (request .flag 0 true) id).route 5 = some (0, 2) ∧ (request .flag 0 true).msg.key ≠ 0 ∧
    (let q := { request .flag 0 true with msg := { (request .flag 0 true).msg with key := 0 } };
      (asking q id).rreqs.find? (fun r => r.id == 3 && r.held) = some q ∧ q.msg.key = 0) :=
  ⟨⟨by decide, _, _, rfl, rfl, by decide⟩, ⟨_, rfl, rfl⟩, by decide, by decide, by decide, by decide⟩

theorem witness_Links : storeWf fabric.routes = true ∧ ∀ q ∈ fabric.rreqs, q.held = false → q.msg.dst ≠ fabric.devId → ∀ x ∈ (fabric.route q.msg.dst).toList, x.2 ≠ 2 := by decide

/-! ### Errors and service -/

theorem witness_SramErrors :
    (∃ t, (demo 2 id fun t => { t with undo := [.vreg 2 35] }).team? 1 = some t ∧ sramTeam (.vreg 1 2 35) = 1 ∧ t.saved = false ∧ t.intact (.vreg 1 2 35) = true) ∧
    (∃ t, (demo 2 id id).team? (sramTeam (.vreg 1 2 35)) = some t ∧ t.saved = false ∧ t.intact (.vreg 1 2 35) = false ∧ (demo 2 id id).durable t.launch = false) ∧
    ∃ t, (lasting id).team? (sramTeam (.vreg 1 2 35)) = some t ∧ t.saved = false ∧ t.intact (.vreg 1 2 35) = false ∧ (lasting id).durable t.launch = true ∧
      held ((lasting id).launch? t.launch) (fun l => l.status.ended = false) = true :=
  ⟨got (by decide), got (by decide), got (by decide)⟩

/-- A table's leaf, and what the tables below it reach, are among its leaves. -/
theorem leaf_here {mem : Store 8} {lv : Level} {rest : List Level} {table i : Nat} {p : Page} (h : i < 2 ^ lv.n)
    (e : entry lv (readNat mem (table + 8 * i) 8) = some (.inl p)) : (p.pa, 2 ^ lv.lo) ∈ leaves mem (lv :: rest) table := by
  rw [leaves, List.mem_flatMap]
  exact ⟨i, List.mem_range.mpr h, by rw [e]; exact List.mem_singleton.mpr rfl⟩

theorem leaf_below {mem : Store 8} {lv : Level} {rest : List Level} {table i k : Nat} {x : Nat × Nat} (h : i < 2 ^ lv.n)
    (e : entry lv (readNat mem (table + 8 * i) 8) = some (.inr k)) (m : x ∈ leaves mem rest k) : x ∈ leaves mem (lv :: rest) table := by
  rw [leaves, List.mem_flatMap]
  exact ⟨i, List.mem_range.mpr h, by rw [e]; exact m⟩

/-- The context of a function maps the first GiB as one page, which is no host memory. -/
def mapsLow (s : State) (f : Func) : Prop := f ∈ s.funcs ∧ entry ⟨39, 13, false, false, 4096⟩ (readNat s.mem (f.root + 8 * 0) 8) = some (.inr 0x40010000) ∧
  entry ⟨30, 9, true, false, 4096⟩ (readNat s.mem (0x40010000 + 8 * 0) 8) = some (.inl ⟨0, false, false, false⟩) ∧ s.regionOf 0 ≠ some .host

/-- A launch that has started has memory on the channel of line 0. -/
theorem lies_on {s : State} {l : Launch} {f : Func} (h : l.placed ≠ 0) (e : s.func? l.vf = some f) (m : mapsLow s f) (on : Nat → Bool) (o : on 0 = true) :
    s.onChannel on l = true := by
  obtain ⟨m, a, b, r⟩ := m
  have x : (0, 2 ^ 30) ∈ s.partRanges f.part := by
    simp only [State.partRanges, List.mem_filter, List.mem_eraseDups, List.mem_flatMap, bne_iff_ne]
    exact ⟨⟨f, ⟨m, beq_self_eq_true _⟩, leaf_below (by decide) a (leaf_here (by decide) b)⟩, r⟩
  simp only [State.onChannel, e, Option.any_some, Bool.and_eq_true, bne_iff_ne, List.any_eq_true]
  exact ⟨h, _, x, 0, List.mem_range.mpr (by decide), o⟩

/-- A durable launch of one team, in memory that is all mapped. -/
theorem witness_mapped : ∃ l, (lasting id).launch? 0 = some l ∧ l.durable = true ∧ l.status.ended = false ∧ l.hit = false ∧
    ∃ i, ∀ on : Nat → Bool, on i = true → (lasting id).onChannel on l = true := by
  obtain ⟨l, e, d, a, b, p, m⟩ := got (o := (lasting id).launch? 0) (P := fun l => l.durable = true ∧ l.status.ended = false ∧ l.hit = false ∧ l.placed ≠ 0 ∧
    l.vf = 0) (by decide)
  obtain ⟨f, k, c⟩ := got (o := (lasting id).func? 0) (P := fun f => f ∈ (lasting id).funcs ∧
    entry ⟨39, 13, false, false, 4096⟩ (readNat (lasting id).mem (f.root + 8 * 0) 8) = some (.inr 0x40010000) ∧
    entry ⟨30, 9, true, false, 4096⟩ (readNat (lasting id).mem (0x40010000 + 8 * 0) 8) = some (.inl ⟨0, false, false, false⟩) ∧
    (lasting id).regionOf 0 ≠ some .host) (by decide)
  exact ⟨l, e, d, a, b, 0, lies_on p (m ▸ k) c⟩

/-- A dirty line, with a durable launch whose memory takes in line 0, and one that no launch has memory on. -/
theorem witness_LineErrors :
    (∃ t l, (lasting id).team? 1 = some t ∧ t.saved = false ∧ (lasting id).launch? t.launch = some l ∧ l.durable = true ∧ l.status.ended = false ∧ l.hit = false ∧
      (lasting id).onChannel (· == 0) l = true) ∧ ((lasting id).teams.map (·.id)).Nodup ∧
    ({ lasting id with cache := [(0, true)] } : State).cache.any (fun c => c.1 == 0 && c.2) = true ∧
    (∀ l ∈ (unplaced id).launches, ({ unplaced id with cache := [(1, true)] } : State).onChannel (· == 1) l = false) ∧
    ({ unplaced id with cache := [(1, true)] } : State).cache.any (fun c => c.1 == 1 && c.2) = true := by
  obtain ⟨l, e, d, a, b, i, on⟩ := witness_mapped
  obtain ⟨t, f, s⟩ := got (o := (lasting id).team? 1) (P := fun t => t.saved = false ∧ t.launch = 0) (by decide)
  refine ⟨⟨t, l, f, s.1, s.2 ▸ e, d, a, b, ?_⟩, by decide, by decide, fun l h => ?_, by decide⟩
  · obtain ⟨l', e', p, m⟩ := got (o := (lasting id).launch? 0) (P := fun l => l.placed ≠ 0 ∧ l.vf = 0) (by decide)
    obtain rfl : l = l' := Option.some.inj (e.symm.trans e')
    obtain ⟨f, k, c⟩ := got (o := (lasting id).func? 0) (P := fun f => f ∈ (lasting id).funcs ∧
      entry ⟨39, 13, false, false, 4096⟩ (readNat (lasting id).mem (f.root + 8 * 0) 8) = some (.inr 0x40010000) ∧
      entry ⟨30, 9, true, false, 4096⟩ (readNat (lasting id).mem (0x40010000 + 8 * 0) 8) = some (.inl ⟨0, false, false, false⟩) ∧
      (lasting id).regionOf 0 ≠ some .host) (by decide)
    exact lies_on p (m ▸ k) c _ rfl
  · have : ∀ l ∈ (unplaced id).launches, l.placed = 0 := by decide
    simp [State.onChannel, this l h]

/-- A channel with a spare lane, one without; no memory on it; and a team of a durable launch that has memory there. -/
theorem witness_ChannelErrors :
    (((unplaced id).chan 3 15).retired = false ∧ 0 < ((unplaced id).chan 3 15).spare ∧
      ∀ t ∈ (unplaced id).teams, t.saved = false ∧ t.durChans.contains (16 * 3 + 15) = false) ∧
    (∀ on : Nat → Bool, ∀ l ∈ (unplaced id).launches, (unplaced id).onChannel on l = false ∧ l.copyChans.contains (16 * 3 + 15) = false) ∧
    ((({ demo 2 id id with chans := [⟨3, 15, 0, false, false, []⟩] } : State).chan 3 15).spare = 0 ∧
      (({ demo 2 id id with chans := [⟨3, 15, 0, false, false, []⟩] } : State).chan 3 15).retired = false) ∧
    ∃ die chan l t, die < 4 ∧ chan < 16 ∧ ((lasting id).chan die chan).retired = false ∧ (lasting id).chans = [] ∧ ((lasting id).teams.map (·.id)).Nodup ∧
      (∀ k ∈ (lasting id).launches, k.copyChans = []) ∧ (∀ t ∈ (lasting id).teams, t.durChans = []) ∧ (lasting id).team? 1 = some t ∧ t.saved = false ∧
      t.launch = 0 ∧ (lasting id).launch? 0 = some l ∧ l.durable = true ∧ l.status.ended = false ∧ l.hit = false ∧
      (lasting id).onChannel (fun i => ((lasting id).regionOf (64 * i)).isNone && (lasting id).chanOf i == 16 * die + chan) l = true := by
  obtain ⟨l, e, d, a, b, i, on⟩ := witness_mapped
  obtain ⟨t, f, s⟩ := got (o := (lasting id).team? 1) (P := fun t => t.saved = false ∧ t.launch = 0) (by decide)
  refine ⟨by decide, fun on l h => ?_, by decide, (Config.channelOf i).val / 16, (Config.channelOf i).val % 16, l, t, by omega, by omega, rfl, rfl, by decide, by decide, by decide, f, s.1, s.2, e, d, a, b, on _ ?_⟩
  · have : ∀ l ∈ (unplaced id).launches, l.placed = 0 ∧ l.copyChans = [] := by decide
    simp [State.onChannel, this l h]
  · simp only [Bool.and_eq_true, beq_iff_eq, Nat.div_add_mod]
    exact ⟨rfl, rfl⟩

theorem witness_NocErrors : ((demo 2 id id).launches.map (·.id)).Nodup ∧ (∃ l ∈ (demo 2 id id).launches, (demo 2 id id).launch? l.id = some l ∧ l.status.ended = false ∧
    held ((demo 2 id id).func? l.vf) (fun f => f.vf = 0 ∧ f.part ∈ (demo 2 id id).ownersOf 0 ∧ f.vf ≠ 1 ∧ f.part ∉ (demo 2 id id).ownersOf 191) = true) := by decide

/-- No partition holds core 143. -/
def unheld : State := { demo 2 id id with parts := (demo 2 id id).parts.map fun p => { p with cores := 1 } }

/-- A core that is dead; one with a spare on its die; a durable team on it, whose launch has lost a unit before or not; one without a spare. -/
theorem witness_CoreErrors :
    (∃ k, ({ demo 2 id id with cores := (demo 2 id id).cores.map fun k => { k with alive := false } } : State).core? 0 = some k ∧ k.alive = false) ∧
    (∃ k, (demo 2 id id).core? 0 = some k ∧ k.alive = true ∧ (∃ t ∈ (demo 2 id id).teams, t.core = 0 ∧ t.saved = false ∧ (demo 2 id id).durable t.launch = false) ∧
      held ((demo 2 id id).dies.find? fun d => d.id == 0 / 36) (fun d => d.spares ≠ []) = true) ∧
    (∃ t, (lasting id).team? 1 = some t ∧ t.core = 0 ∧ t.saved = false ∧ held ((lasting id).launch? t.launch) (fun l => l.durable = true ∧ l.status.ended = false ∧ l.hit = false) = true) ∧
    (∃ l, ({ lasting id with launches := (lasting id).launches.map fun l => { l with hit := true } } : State).launch? 0 = some l ∧ l.durable = true ∧ l.status.ended = false ∧
      l.hit = true) ∧
    ∃ k, ({ demo 2 id id with dies := (demo 2 id id).dies.map fun d => { d with spares := [] } } : State).core? 143 = some k ∧ k.alive = true ∧
      held (({ demo 2 id id with dies := (demo 2 id id).dies.map fun d => { d with spares := [] } } : State).dies.find? fun d => d.id == 143 / 36) (fun d => d.spares = []) = true ∧
      (demo 2 id id).parts.length = 1 ∧ ∀ p ∈ (demo 2 id id).parts, (demo 2 id id).part? p.id = some p ∧ p.rank < 64 ∧ p.cores.getLsbD 143 = true ∧
      ∀ p ∈ (unheld : State).parts, p.cores.getLsbD 143 = false :=
  ⟨got (by decide), got (by decide), got (by decide), got (by decide), got (by decide)⟩

theorem witness_DieErrors :
    (∃ d, ({ demo 2 id id with dies := (demo 2 id id).dies.map fun d => { d with failed := true } } : State).dies.find? (fun d => d.id == 3) = some d ∧ 3 < 4 ∧
      ({ demo 2 id id with dies := (demo 2 id id).dies.map fun d => { d with failed := true } } : State).dies.all (fun x => x.id != 3 || x.failed) = true) ∧
    (∃ d, (demo 2 id id).dies.find? (fun d => d.id == 0) = some d ∧ d.failed = false ∧ ∃ t ∈ (demo 2 id id).teams, t.saved = false ∧ t.core / 36 = 0) ∧
    (let s : State := { demo 2 id id with dies := (demo 2 id id).dies.map fun d => if d.id = 1 then { d with failed := true } else d };
      ∃ l ∈ s.launches, l.status.ended = false ∧ l.copies ≠ [] ∧ ∀ x ∈ l.copies, x = 0 ∨ ∀ y ∈ s.dies, y.id = x → y.failed = true) ∧
    (∃ t ∈ (demo 2 id fun t => { t with saved := true, area := some (64, [1, 2]) }).teams,
      t.savedOn (fun i => decide (i = 1)) = true) ∧
    (∃ l, (lasting fun t => { t with durDies := [3] }).launch? 0 = some l ∧ l.durable = true ∧ l.status.ended = false ∧
      ∃ t ∈ (lasting fun t => { t with durDies := [3] }).teams, t.launch = 0 ∧ ∀ x ∈ t.durDies, x = 3) ∧
    ∃ die l, die < 4 ∧ (lasting id).launch? 0 = some l ∧ l.status.ended = false ∧
      (lasting id).onChannel (fun i => ((lasting id).regionOf (64 * i)).isNone && (lasting id).chanOf i / 16 == die) l = true := by
  obtain ⟨l, e, _, a, _, i, on⟩ := witness_mapped
  refine ⟨got (by decide), got (by decide), by decide, by decide, got (by decide), (Config.channelOf i).val / 16, l, by omega, e, a, on _ ?_⟩
  simp only [Bool.and_eq_true, beq_iff_eq]
  exact ⟨rfl, rfl⟩

theorem witness_Retirements :
    (∃ k, (demo 2 id id).core? 0 = some k ∧ k.alive = true ∧ ∃ t ∈ (demo 2 id id).teams, t.core = 0 ∧ t.saved = false ∧ t.ending = .no) ∧
    (∃ k, (demo 2 id id).core? 143 = some k ∧ k.alive = true ∧ (∀ t ∈ (demo 2 id id).teams, t.core = 143 → t.saved = true) ∧
      held ((demo 2 id id).dies.find? fun d => d.id == 143 / 36) (fun d => d.spares ≠ []) = true) ∧
    ((demo 2 id id).chan 3 15).retired = false ∧ (([(0, 2 ^ 31), (2 ^ 31, 2 ^ 31)] : List (Nat × Nat)).map (·.2)).sum = 2 ^ 32 ∧
    ([(0, 2 ^ 31), (2 ^ 31, 2 ^ 31)] : List (Nat × Nat)).Pairwise (fun x y => y.1 + y.2 ≤ x.1 ∨ x.1 + x.2 ≤ y.1) ∧ max (2 ^ 31) (2 ^ 32 - 1) < 2 ^ 32 ∧
    ∀ c ∈ (demo 2 id id).chans, c.lost = false := ⟨got (by decide), got (by decide), by decide⟩

/-- An image that waits in the standby slot, with the function locked and not. -/
def imaged (f : IfState) : State := { fn (fun g => { g with ifst := f }) with images := [⟨437, 1, some 2, 1⟩] }

theorem witness_Images : 437 < 438 ∧ ((fn id).image 437).standby = none ∧ ((imaged .locked).image 437).standby = some 2 ∧
    (∃ f ∈ (imaged .locked).funcs, f.ifst = .locked ∨ f.ifst = .run) ∧ ((imaged .error).image 437).standby = some 2 ∧
    ∀ f ∈ (imaged .error).funcs, f.ifst ≠ .locked ∧ f.ifst ≠ .run := by decide

end Sys2Proof.Tests
end

section
/-!
Instructions that write a predicate (R52, R86): the rule for one lane of a predicate, the whole effect of a body that sets one, and the
obligation about CMP, CMPI, PLOP and PMOV.
-/
namespace Sys2Proof.Machine

/-! ### The lanes of a predicate -/

theorem getLsbD_setLane (m : LaneMask) (l : Nat) (b : Bool) {j : Nat} (hj : j < 32) :
    (setLane m l b).getLsbD j = if j = l then b else m.getLsbD j := by
  have one : (1#32 <<< l).getLsbD j = decide (j = l) := by
    simp only [BitVec.getLsbD_shiftLeft, BitVec.getLsbD_one]
    grind
  unfold setLane
  cases b with
  | true =>
    simp only [if_true, BitVec.getLsbD_or, one]
    by_cases h : j = l <;> simp [h]
  | false =>
    simp only [Bool.false_eq_true, if_false, BitVec.getLsbD_and, BitVec.getLsbD_not, one, hj]
    by_cases h : j = l <;> simp [h]

/-- Lanes written one after another: each takes its own value, whatever the order. -/
theorem getLsbD_foldl_setLane (f : Nat → Bool) {j : Nat} (hj : j < 32) (ls : List Nat) (m : LaneMask) :
    (ls.foldl (fun m l => setLane m l (f l)) m).getLsbD j = if j ∈ ls then f j else m.getLsbD j := by
  induction ls generalizing m with
  | nil => rfl
  | cons l r ih =>
    rw [List.foldl_cons, ih, getLsbD_setLane m l (f l) hj]
    grind

/-! ### Writing a predicate -/

@[simp] theorem Ctx.setPred_s (c : Ctx) (p : Nat) (f : Nat → Bool) : (c.setPred p f).s = c.s := by
  unfold Ctx.setPred; split <;> rfl
@[simp] theorem Ctx.setPred_ref (c : Ctx) (p : Nat) (f : Nat → Bool) : (c.setPred p f).ref = c.ref := by
  unfold Ctx.setPred; split <;> rfl
@[simp] theorem Ctx.setPred_f (c : Ctx) (p : Nat) (f : Nat → Bool) : (c.setPred p f).f = c.f := by
  unfold Ctx.setPred; split <;> rfl
@[simp] theorem Ctx.setPred_bare (c : Ctx) (p : Nat) (f : Nat → Bool) : (c.setPred p f).t.bare = c.t.bare := by
  unfold Ctx.setPred; split <;> rfl

/-- Of the group, only its predicates. -/
theorem Ctx.setPred_group (c : Ctx) (p : Nat) (f : Nat → Bool) : { (c.setPred p f).g with p := [] } = { c.g with p := [] } := by
  unfold Ctx.setPred; split <;> rfl

/-- Writing a predicate changes nothing that an event is counted by. -/
theorem Ctx.setPred_counted (c : Ctx) (p : Nat) (f : Nat → Bool) (ls : List Nat) (ev : Nat → List (Nat × List Nat)) :
    (c.setPred p f).counted ls ev = c.counted ls ev := by
  unfold Ctx.setPred; split <;> rfl

/-- The predicate that is named takes its values in the active lanes; every other lane and predicate stays (R52, R86). -/
theorem Ctx.setPred_pred (c : Ctx) (p : Nat) (f : Nat → Bool) (q : Nat) {l : Nat} (hl : l < 32) :
    ((c.setPred p f).g.pred q).getLsbD l = if q = p ∧ l ∈ c.act then f l else (c.g.pred q).getLsbD l := by
  unfold Ctx.setPred
  split
  · next idle => simp [idle]
  · by_cases h : q = p
    · subst h
      simp [Group.pred, getLsbD_foldl_setLane f hl]
    · simp [Group.pred, look_put_other _ _ _ _ h, h]

/-! ### Events of the lanes -/

/-- Counting in some lanes changes the device alone. -/
theorem Ctx.each_events (fmt : Nat) (ev : Nat → List Nat) (ls : List Nat) (c : Ctx) :
    (c.each ls fun d l => d.events fmt (ev l)) = { c with s := c.counted ls fun l => [(fmt, ev l)] } := by
  induction ls generalizing c with
  | nil => rfl
  | cons l r ih => exact ih (c.events fmt (ev l))

@[simp] theorem Ctx.advance_rd (c : Ctx) (i : Instr) (r : Reg) (n l : Nat) : (c.advance i).rd r n l = c.rd r n l := rfl

/-- Counting touches the event counters and what functions post, and nothing else. -/
theorem Ctx.counted_counted (c : Ctx) (ls : List Nat) (ev : Nat → List (Nat × List Nat)) : c.s.Counted (c.counted ls ev) := by
  unfold Ctx.counted
  generalize ls.flatMap ev = l
  generalize c.s = s
  induction l generalizing s with
  | nil => exact .refl s
  | cons p r ih => exact (State.countEv_counted s _ _ _ _ _).trans (ih _)

/-! ### Bodies that write one predicate -/

theorem Ctx.room_mono {c : Ctx} {m n : Nat} (h : c.room n) (hmn : m ≤ n) : c.room m := by
  obtain ⟨lines, undo⟩ := h
  exact ⟨lines, by omega⟩

/-- A body that sets one predicate, from a context whose latch alone differs, and counts events: everything it does. -/
theorem run_setPred {i : Instr} {s s' : State} {c : Ctx} {body : Ctx → Ctx} {k : Option Latch} {p : Nat} {val : Nat → Bool}
    (h : Issues i s c) (hr : c.room 12) (hs : c.s.Counted s')
    (hb : body (c.advance i) = { (({ c with g := { c.g with latch := k } } : Ctx).advance i).setPred p val with s := s' }) :
    ∃ e : Ctx, plain i body s = .next e.commit ∧ SetPred i c e s' k p val := by
  refine ⟨body (c.advance i), plain_ok h hr ?_ ?_, ?_⟩ <;> rw [hb]
  · exact ⟨hs, Ctx.setPred_ref _ p val, Ctx.setPred_bare _ p val⟩
  · exact Ctx.setPred_logged _ p val
  · exact {
      device := rfl
      ref := Ctx.setPred_ref _ p val
      team := Ctx.setPred_bare _ p val
      frag := Ctx.setPred_f _ p val
      preds := fun q _ hl => Ctx.setPred_pred _ p val q hl
      group := Ctx.setPred_group _ p val }

/-- The same without a latch and without events. -/
theorem run_setPred_quiet {i : Instr} {s : State} {c : Ctx} {body : Ctx → Ctx} {p : Nat} {val : Nat → Bool} (h : Issues i s c)
    (hr : c.room 12) (hb : body (c.advance i) = (c.advance i).setPred p val) :
    ∃ e : Ctx, plain i body s = .next e.commit ∧ SetPred i c e c.s c.g.latch p val := by
  refine run_setPred h hr (.refl _) (hb.trans ?_)
  exact congrArg (fun t => { (c.advance i).setPred p val with s := t }) (Ctx.setPred_s (c.advance i) p val)

/-! ### Conditions -/

theorem bne_eq_decide_ne {α : Type} [DecidableEq α] (a b : α) : (a != b) = decide (a ≠ b) := by
  by_cases h : a = b <;> simp [h]

/-- A comparison of patterns is one of the integers that they stand for (R81). -/
theorem intCond_eq_intTest (c : Cond) (sg : Bool) {n x y : Nat} (hx : x < 2 ^ n) (hy : y < 2 ^ n) :
    intCond c sg n x y = Statements.intTest c (asInt sg n x) (asInt sg n y) := by
  have value : ∀ {z}, z < 2 ^ n → asInt sg n z = if sg then toSigned n z else (z : Int) := fun hz => by
    rw [asInt, Nat.mod_eq_of_lt hz]
  rw [value hx, value hy]
  cases c with
  | ne => exact bne_eq_decide_ne _ _
  | _ => rfl

/-- A condition of CMPI is one on the words' signed or unsigned values (R85). -/
theorem immCond_eq (c : CondI) (x y : Word) : immCond c x y = match c with
    | .eq => decide (x = y)
    | .ne => decide (x ≠ y)
    | .lt => decide (x.toInt < y.toInt)
    | .le => decide (x.toInt ≤ y.toInt)
    | .gt => decide (y.toInt < x.toInt)
    | .ge => decide (y.toInt ≤ x.toInt)
    | .lo => decide (x.toNat < y.toNat)
    | .hs => decide (y.toNat ≤ x.toNat) := by
  cases c with
  | ne => exact bne_eq_decide_ne x y
  | _ => rfl

/-- Entry (pa, pb) of a truth table is its bit 2 × pa + pb (R413). -/
theorem truth_eq (tt : BitVec 4) (a b : Bool) : truth tt a b = tt.getLsbD (2 * a.toNat + b.toNat) := by
  cases a <;> cases b <;> rfl

/-- An s register reads the same in every lane (R45). -/
theorem Ctx.word_s (c : Ctx) (k : Fin 31) (l : Nat) : c.word (.s k) l = look c.g.s k.val := by
  have : 1 + k.val < 32 := by omega
  simp [Ctx.word, Group.reg, Group.regId, Group.getId, this]

/-- An operand that must start a run in s is an s register whose run fits (R46). -/
theorem sRun_none {n : Nat} {r : Reg} (h : sRun n r = none) : (∃ k, r = .s k) ∧ runReason n r = none := by
  have parts := lowestOf_none h
  refine ⟨?_, parts _ (by simp)⟩
  have kind : bad (!r.isS) 5 = none := parts _ (by simp)
  cases r with
  | s k => exact ⟨k, rfl⟩
  | v k => cases kind
  | z => cases kind

/-- A run in v that is well-formed fits (R46). -/
theorem vRun_none {n : Nat} {r : Reg} (h : vRun n r = none) : runReason n r = none := lowestOf_none h _ (by simp)

/-! ### CMP, CMPI, PLOP and PMOV -/

theorem exec_cmp (o : CmpOps) (s : State) : exec (.cmp o) s = execCmp o s := rfl
theorem exec_cmpi (o : CmpiOps) (s : State) : exec (.cmpi o) s = execCmpi o s := rfl
theorem exec_plop (o : PlopOps) (s : State) : exec (.plop o) s = execPlop o s := rfl
theorem exec_pmov (o : PmovOps) (s : State) : exec (.pmov o) s = execPmov o s := rfl

/-- What a lane compares and counts, as the statement words it. -/
theorem cmpVal_eq (o : CmpOps) {x y : Nat} (hx : x < 2 ^ (32 * o.ty.regs)) (hy : y < 2 ^ (32 * o.ty.regs)) :
    cmpVal o x y =
      (if o.ty.isInt then Statements.intTest o.c (Statements.iv o.ty x) (Statements.iv o.ty y)
        else fcond o.c ((tyFmt o.ty).val x) ((tyFmt o.ty).val y),
       if o.ty.isInt then [] else sigEv [(tyFmt o.ty).val x, (tyFmt o.ty).val y]) := by
  unfold cmpVal
  by_cases hint : o.ty.isInt = true
  · rw [← tyBits_int hint] at hx hy
    simp only [hint, if_true, intCond_eq_intTest o.c (tySigned o.ty) hx hy, Statements.iv]
  · simp only [hint, Bool.false_eq_true, if_false]

/-- CMP and CMPI (R81, R85, R351, R352). -/
theorem statementsCompare : Statements.Compare := by
  constructor
  · intro o s c h hr
    dsimp only
    obtain ⟨latch, hlatch⟩ := c.readA_fst o.r o.a o.ty.regs
    obtain ⟨hval, hctx⟩ := c.readA_advance (.cmp o) o.r o.a o.ty.regs
    have lane : ∀ l, cmpVal o ((c.readA o.r o.a o.ty.regs).2 l) (c.rd o.b o.ty.regs l) = _ := fun l =>
      cmpVal_eq o (c.readA_lt o.r o.a o.ty.regs l) (Group.rd_lt c.g o.b o.ty.regs l)
    rw [show (c.readA o.r o.a o.ty.regs).1.g.latch = latch by rw [hlatch], exec_cmp]
    refine run_setPred h hr (Ctx.counted_counted _ _ _) ?_
    rw [Ctx.each_events, Ctx.setPred_counted, hval, hctx, hlatch]
    simp only [Ctx.advance_rd, lane]
    rfl
  · intro o s c h hr
    rw [exec_cmpi]
    exact run_setPred_quiet h hr (congrArg (Ctx.setPred _ _) (funext fun l => immCond_eq o.c (c.word o.a l) _))

/-- PLOP and PMOV (R86, R413, R415). -/
theorem statementsPredicateMoves : Statements.PredicateMoves := by
  constructor
  · intro o s c h hr
    rw [exec_plop]
    exact run_setPred_quiet h hr (congrArg (Ctx.setPred _ _) (funext fun l => truth_eq o.tt _ _))
  · rintro ⟨m, p, d, a⟩ s c h hr
    rw [exec_pmov]
    have room : c.room 12 := Ctx.room_mono hr (by omega)
    have wf := h.wf
    cases m with
    | pv => exact run_setPred_quiet h room (congrArg (Ctx.setPred _ _) (funext fun l => bne_eq_decide_ne (c.word a l) 0))
    | ps =>
      obtain ⟨⟨k, rfl⟩, _⟩ := sRun_none (lowestOf_none wf (sRun 1 a) (by simp))
      exact run_setPred_quiet h room (congrArg (Ctx.setPred _ _) (funext fun l =>
        congrArg (BitVec.getLsbD · l) ((c.word_s k 0).trans (c.word_s k l).symm)))
    | vp =>
      have bit : ∀ b : Bool, (if b then 1 else 0) = b.toNat := by decide
      have run := vRun_none (lowestOf_none wf (vRun 1 d) (by simp))
      exact run_wrote_quiet h hr (sFits run) (congrArg (Ctx.result _ _ _) (funext fun l => bit _))
    | sp =>
      obtain ⟨_, run⟩ := sRun_none (lowestOf_none wf (sRun 1 d) (by simp))
      exact run_wrote_quiet h hr (sFits run) rfl

/-- Settles O6, by the effect of a body that sets one predicate (`run_setPred`) or writes one run (`run_wrote_quiet`). -/
theorem comparisons : Obligations.Comparisons := ⟨statementsCompare, statementsPredicateMoves⟩

end Sys2Proof.Machine
end

section
/-!
The immediate forms of classes 01 and 11 (R316, R402, R403, R410, R437, R452): the shifts of a word as arithmetic on its value, the one
body that all nine rows run, and the obligation about what that body leaves.
-/
namespace Sys2Proof.Machine

/-! ### Shifts of a word as arithmetic -/

/-- SHLI multiplies the unsigned value and keeps the low bits (R437). -/
theorem shiftLeft_eq_ofNat {w : Nat} (x : BitVec w) (k : Nat) : x <<< k = BitVec.ofNat w (x.toNat * 2 ^ k) := by
  rw [← Nat.shiftLeft_eq]
  rfl

/-- SHRI divides the unsigned value (R437). -/
theorem ushiftRight_eq_ofNat {w : Nat} (x : BitVec w) (k : Nat) : x >>> k = BitVec.ofNat w (x.toNat / 2 ^ k) := by
  rw [← Nat.shiftRight_eq_div_pow, ← BitVec.toNat_ushiftRight, BitVec.ofNat_toNat, BitVec.setWidth_eq]

/-- SARI divides the signed value, rounding down (R437). -/
theorem sshiftRight_eq_ofInt {w : Nat} (x : BitVec w) (k : Nat) : x.sshiftRight k = BitVec.ofInt w (x.toInt / 2 ^ k) := by
  rw [BitVec.sshiftRight, Int.shiftRight_eq_div_pow]
  norm_cast

/-! ### The shared body of the immediate rows -/

/-- The body depends on the values of the operation alone. -/
theorem plain_bodyImm_congr {f g : Word → Word} (h : ∀ x, f x = g x) (i : Instr) (d a : Reg) (s : State) :
    plain i (bodyImm d a f) s = plain i (bodyImm d a g) s := by
  rw [funext h]

/-- Every immediate row runs the shared body with the value of its rule; MOVI and MOVL read no register. -/
theorem exec_of_immRow {i : Instr} {d a : Reg} {f : Word → Word} (h : Statements.immRow i = some (d, a, f)) (s : State) :
    exec i s = plain i (bodyImm d a f) s := by
  cases i with
  | addi o | andi o | ori o | xori o | movi d imm | movl d lit => cases h; rfl
  | shli o => cases h; exact plain_bodyImm_congr (shiftLeft_eq_ofNat · o.amt.toNat) _ _ _ s
  | shri o => cases h; exact plain_bodyImm_congr (ushiftRight_eq_ofNat · o.amt.toNat) _ _ _ s
  | sari o => cases h; exact plain_bodyImm_congr (sshiftRight_eq_ofInt · o.amt.toNat) _ _ _ s
  | _ => cases h

/-- Settles O1: each row runs the shared body (`exec_of_immRow`), which writes one register from words read before it (`run_wrote_quiet`). -/
theorem immediates : Obligations.Immediates := by
  intro i d a f s c row issues room
  rw [exec_of_immRow row]
  have fits : ∀ k : Fin 31, d = .s k → k.val + 1 ≤ 31 := fun k _ => k.isLt
  exact run_wrote_quiet issues room fits rfl

end Sys2Proof.Machine
end

section
/-!
The moves of class 00 (R366, R396, R404, R441, R443, R456): the value that each row computes in a lane, as the statement words it, the one
shape that the bodies of the six rows share, and the obligation about what such a body leaves.
-/
namespace Sys2Proof.Machine

/-! ### Values in a lane -/

/-- A run of one register is that register's word (R46). -/
theorem Ctx.rd_one (c : Ctx) (r : Reg) (l : Nat) : c.rd r 1 l = (c.word r l).toNat := by
  simp [Ctx.rd, Ctx.word, Group.rd]

/-- Byte k of a word is its digit k in base 256 (R366). -/
theorem byteInt_eq_digit (signed : Bool) (x k : Nat) : byteInt signed x k = asInt signed 8 (x / 256 ^ k % 256) :=
  congrArg (fun weight => asInt signed 8 (x / weight % 256)) (Nat.pow_mul 2 8 k)

/-- DOT4's sum of four byte products and d, wrapped once (R366). -/
theorem dot4Val_eq (m : DotMode) (x y d : Nat) : dot4Val m x y d = wrapTo 32 (d + ((List.range 4).map fun k =>
    asInt (m != .nn) 8 (x / 256 ^ k % 256) * asInt (m == .ss) 8 (y / 256 ^ k % 256)).sum) := by
  simp only [dot4Val, byteInt_eq_digit]

/-- A block of TRN8 has n lanes and starts at the multiple of n at or below the lane; its n elements share an octet's 256 bits (R456). -/
theorem trn8Block_eq (x : Nat → Nat) (n l : Nat) :
    ((List.range n).map fun e => bits (x (l - l % n + e)) (256 / n * (l % n)) (256 / n) * 2 ^ (256 / n * e)).sum =
      ((List.range n).map fun e => x (l / n * n + e) / 2 ^ (256 / n * (l % n)) % 2 ^ (256 / n) * 2 ^ (256 / n * e)).sum := by
  simp only [Nat.div_mul_self_eq_mod_sub_self, bits]

/-! ### The shared shape of the moves -/

/-- The instruction runs a body that reads a through the latch and then writes a run with the value `f`, a function of a in all the lanes;
the body's other operands are read in `c`, before the write. -/
def ReadsThenWrites (i : Instr) (s : State) (c : Ctx) (d a : Reg) (r : Bool) (n : Nat) (f : (Nat → Nat) → Nat → Nat) : Prop :=
  ∃ body : Ctx → Ctx, exec i s = plain i body s ∧
    body (c.advance i) = ((c.advance i).readA r a n).1.result d n (f ((c.advance i).readA r a n).2)

/-- Every row has that shape, with the value of its rule. -/
theorem readsThenWrites_of_moveRow {i : Instr} {c : Ctx} {d a : Reg} {r : Bool} {n : Nat} {f : (Nat → Nat) → Nat → Nat}
    (row : Statements.moveRow c i = some (d, a, r, n, f)) (s : State) : ReadsThenWrites i s c d a r n f := by
  cases i with
  | mov o => cases row; exact ⟨_, rfl, rfl⟩
  | sel o | shfl o =>
    cases row
    simp only [← Ctx.rd_one]
    exact ⟨_, rfl, rfl⟩
  | lea o =>
    cases row
    have scale : ((2 ^ o.sh.val : Nat) : Int) = 2 ^ o.sh.val := Int.natCast_pow 2 o.sh.val
    simp only [scale]
    exact ⟨_, rfl, rfl⟩
  | dot4 o =>
    cases row
    simp only [← dot4Val_eq, ← Ctx.rd_one]
    exact ⟨_, rfl, rfl⟩
  | trn8 o =>
    obtain ⟨m, d, a, r⟩ := o
    cases row
    cases m with
    | e32 => exact ⟨_, rfl, congrArg (Ctx.result _ _ _) (funext (trn8Block_eq _ 8))⟩
    | e16 => exact ⟨_, rfl, congrArg (Ctx.result _ _ _) (funext (trn8Block_eq _ 16))⟩
    | e8 => exact ⟨_, rfl, congrArg (Ctx.result _ _ _) (funext (trn8Block_eq _ 32))⟩
  | _ => cases row

/-- The destination of a well-formed row, where it is a run in s, lies within s0 to s30 (R46). -/
theorem sFits_of_moveRow {i : Instr} {c : Ctx} {d a : Reg} {r : Bool} {n : Nat} {f : (Nat → Nat) → Nat → Nat}
    (row : Statements.moveRow c i = some (d, a, r, n, f)) (wf : i.reason = none) : ∀ k, d = .s k → k.val + n ≤ 31 := by
  cases i with
  | mov o | lea o => cases row; exact sFits (lowestOf_none wf _ (by simp))
  | sel o | dot4 o | shfl o => cases row; exact fun k _ => k.isLt
  | trn8 o => cases row; exact sFits (vRun_none (lowestOf_none wf _ (by simp)))
  | _ => cases row

/-- Settles O2: each row reads its sources and then writes one run (`readsThenWrites_of_moveRow`), and `result_spec` says all that this does. -/
theorem moves : Obligations.Moves := by
  intro i d a r n f s c row issues room
  obtain ⟨body, runs, writes⟩ := readsThenWrites_of_moveRow row s
  rw [runs]
  exact result_spec issues room (sFits_of_moveRow row issues.wf) writes

end Sys2Proof.Machine
end
